-- ==== Sys2Proof/Word.lean ====
section
/-!
DEFINITION. Sys2Proof/Word.lean: the word types of the TZ-64 and the plainest arithmetic on naturals that every
layer shares. Numbers follow R1 (little-endian) and R92 (SignExt, ZeroExt).
-/
namespace Sys2Proof

/-- A byte. -/
abbrev Byte := BitVec 8
/-- A 64-bit scalar register (R117). -/
abbrev Word := BitVec 64
/-- A 512-byte vector register; byte 0 is bits 7:0 (R1, R117). -/
abbrev VReg := BitVec 4096
/-- A predicate register of 1,024 bits (R117). -/
abbrev KReg := BitVec 1024

/-- A register number of an x register. -/
abbrev XNum := BitVec 6
/-- A vector register code (R123). -/
abbrev VCode := BitVec 10
/-- A predicate register number. -/
abbrev KNum := BitVec 4

/-- Bits lo to lo + n - 1 of a natural. -/
def natField (w lo n : Nat) : Nat := w / 2 ^ lo % 2 ^ n

/-- Bits lo to lo + n - 1 of a natural, as a bit vector. -/
def bitsAt (w lo n : Nat) : BitVec n := BitVec.ofNat n (w / 2 ^ lo)

/-- One bit of a natural. -/
def bitAt (w i : Nat) : Bool := w / 2 ^ i % 2 == 1

/-- A Bool as 0 or 1. -/
def bnat (b : Bool) : Nat := if b then 1 else 0

/-- R92: the low n bits of v read as two's complement. -/
def signExt (v n : Nat) : Int :=
  if v % 2 ^ n < 2 ^ (n - 1) then (v % 2 ^ n : Nat) else (v % 2 ^ n : Nat) - (2 ^ n : Nat)

/-- R92: an exact integer reduced to n bits. -/
def wrapInt (v : Int) (n : Nat) : Nat := (v % (2 ^ n : Nat)).toNat

/-- R92: clip to INT n. -/
def satS (n : Nat) (v : Int) : Int :=
  min (max v (-(2 ^ (n - 1) : Nat))) ((2 ^ (n - 1) : Nat) - 1)

/-- R92: clip to n n. -/
def satN (n : Nat) (v : Int) : Int := min (max v 0) ((2 ^ n : Nat) - 1)

/-- Division rounded up. -/
def ceilDiv (a b : Nat) : Nat := (a + b - 1) / b

end Sys2Proof
end

