-- ==== Sys2Proof/Config.lean ====
section
/-!
DEFINITION. Sys2Proof/Config.lean: what an implementation or its surroundings fix (constants with no body, so that no
proof can rest on a value), and the free values that the spec leaves open. A free value is applied to the counter
State.freeCtr, so that two readings need not agree.
-/
namespace Sys2Proof.Config

/-- Whether the n-th open event takes place now (R29, R373: latencies and load times are not architectural). -/
opaque occurs : Nat → Bool
/-- The n-th free byte (R336, R76: bytes that the spec leaves open). -/
opaque freeByte : Nat → BitVec 8
/-- The n-th free digit code of a plane (R318: an abandoned layer is undefined). -/
opaque freeDigit : Nat → BitVec 4
/-- The n-th free 64-bit value. -/
opaque freeWord : Nat → BitVec 64
/-- The die that homes a page of a tiered stall, from device, stall and page (R30, R44: placement is not visible). -/
opaque homeDie : Nat → Nat → Nat → Nat
/-- IEEE 1588 time in nanoseconds at the n-th reading (R14, R382). -/
opaque wallClock : Nat → Nat
/-- The average power reported at a tick, in watts (R416). -/
opaque powerAvg : Nat → Nat
/-- The package serial number (R413). -/
opaque serial : BitVec 64
/-- Byte i of the attestation public key (R413). -/
opaque attKey : Nat → BitVec 8
/-- Byte i of the SLH-DSA signature of the attestation key over a message (R413). -/
opaque signature : List (BitVec 8) → Nat → BitVec 8
/-- Whether the signature of a boot stage verifies against its public key (R411). -/
opaque signed : Nat → Bool
/-- Byte i of the public key of a boot stage (R411). -/
opaque stageKey : Nat → Nat → BitVec 8
/-- The digest of the key of a boot stage that the stage which verifies it trusts (R411): the root key's, fused, for stage 1. -/
opaque trustedKey : Nat → BitVec 256
/-- The version of a boot stage's image (R411). -/
opaque stageVersion : Nat → Nat
/-- The fused rollback counter of a stage number (R411). -/
opaque rollback : Nat → Nat
/-- The digest of a boot stage's image (R412). -/
opaque stageDigest : Nat → BitVec 256
/-- How the training of an HBM stack ends at the n-th boot: 0 good, 1 good with lanes repaired, 2 it fails (R414). -/
opaque training : Nat → Nat → Nat

/-- The control-register number of MIGCTL of a die, which R33 does not give (log 103). -/
opaque migctlNum : Nat → Nat
/-- The stack, channel, bank and row of a far byte in HBM, packed as in R404 (R37, R44: placement is not visible). -/
opaque rowOf : Nat → BitVec 48
/-- Whether a packet at a far byte brings its row to the mitigation threshold, by the byte and the cycle (R37). -/
opaque hammers : Nat → Nat → Bool
/-- The bank time of a packet at a far byte, in cycles (R406). -/
opaque packetTime : Nat → Nat
/-- The bank time of a stack in one tick, in cycles (R406). -/
opaque stackTime : Nat
/-- Whether the code detects an error beyond what R34, R35 and R87 say of it. -/
opaque detects : List (Nat × BitVec 8) → Bool

end Sys2Proof.Config
end

