-- ==== Sys2Proof/Syntax.lean ====
section
/-!
DEFINITION. Sys2Proof/Syntax.lean: the instructions of the TZ-64, one constructor for each row of
spec/opcode_table.json. Rows 5 to 186 are syllables (R234 to R242), rows 187 to 199 micro-ops (R319 to R327), rows
0 to 4 and 200 to 291 the whole steps of the package (spec/95) that have no encoding.
-/
namespace Sys2Proof

/-- The twelve slots of a bundle, in precedence order (R13, R135). -/
inductive Slot where | B | S0 | S1 | A | V0 | V1 | V2 | M | Q | D | G | Y
  deriving DecidableEq, Repr

/-- The two scalar slots (R13). -/
inductive SSlot where | s0 | s1
  deriving DecidableEq, Repr

/-- The three vector slots (R13). -/
inductive VSlot where | v0 | v1 | v2
  deriving DecidableEq, Repr

/-- The element formats of R93. -/
inductive Fmt where
  | i8 | i16 | i32 | i4 | n8 | n16 | n32 | n4 | f32 | f16 | bf16 | e4m3 | e5m2
  deriving DecidableEq, Repr

/-- Rounding of a binary or ternary float operation (R237). -/
inductive RndB where | mode | rne | rtz
  deriving DecidableEq, Repr

/-- Rounding of a unary float operation (R237). -/
inductive RndU where | mode | rne | rtz | rup | rdn
  deriving DecidableEq, Repr

/-- Width of a widening result (R291). -/
inductive Widen where | pair | quad
  deriving DecidableEq, Repr

/-- Narrowing of `vpack` (R297). -/
inductive PackMod where | wrap | sats | satn
  deriving DecidableEq, Repr

/-- Comparisons of `vcmp` (R292). -/
inductive VCmpOp where | eq | ne | lt | le
  deriving DecidableEq, Repr

/-- Comparisons of `vfcmp` (R306). -/
inductive VFCmpOp where | eq | lt | le | un
  deriving DecidableEq, Repr

/-- Lane width of the predicate of `ldv` and `stv` (R264). -/
inductive LaneW where | e8 | e16 | e32
  deriving DecidableEq, Repr

/-- OP of an atomic (R74). -/
inductive AtomOp where | add | and | or | xor | min | max | minn | maxn | fadd | xchg | cas
  deriving DecidableEq, Repr

/-- Lane count of a vote (R259). -/
inductive VoteLanes where | l1024 | l512 | l256 | l128
  deriving DecidableEq, Repr

/-- Scope of a fence (R242). -/
inductive FenceScope where | ctx | core | quad | die | pkg | sys
  deriving DecidableEq, Repr

/-- Kind of a fence (R242). -/
inductive FenceKind where | acq | rel | full
  deriving DecidableEq, Repr

/-- Weight format of `mcfg` (R316). -/
inductive McfgW where | tern | ternn | d9p1 | d9p2 | d9p3
  deriving DecidableEq, Repr

/-- A micro-op predicate (R320): none, or sp0 to sp3. -/
inductive MPred where | always | sp0 | sp1 | sp2 | sp3
  deriving DecidableEq, Repr

/-- The loop selector L and the step enable SE of a micro-op that forms addresses (R321). -/
structure Step where
  level : BitVec 2
  on    : Bool
  deriving DecidableEq, Repr

/-- R400, R409: the register that a write from the host names: the function, 0 for the window and w + 1 for the virtual function of
device w, and the register number. -/
structure HostReg where
  func : Nat
  num  : BitVec 12
  deriving DecidableEq, Repr

/-- R214: a reduction of a device: its group and GSEQ. -/
structure GroupSeq where
  group : Nat
  gseq  : Nat
  deriving DecidableEq, Repr

/-- The one instruction type. -/
inductive Instr where
  -- rows 0 to 4: what a core does as it issues
  | nearAccessPerform (id : Nat)
  -- B slot (R234)
  | ptg (t : BitVec 2) (off : BitVec 25)
  | br (c : BitVec 3) (t : BitVec 2)
  | bra (t : BitVec 2)
  | brx (x : XNum)
  | call (x : XNum) (t : BitVec 2)
  | ret (x : XNum)
  | loop (lc : BitVec 2) (x : XNum) (off : BitVec 19)
  | loopi (lc : BitVec 2) (count : BitVec 13) (off : BitVec 12)
  -- S slots (R235)
  | add (sl : SSlot) (d a b : XNum)
  | sub (sl : SSlot) (d a b : XNum)
  | and (sl : SSlot) (d a b : XNum)
  | or (sl : SSlot) (d a b : XNum)
  | xor (sl : SSlot) (d a b : XNum)
  | shl (sl : SSlot) (d a b : XNum)
  | shr (sl : SSlot) (d a b : XNum)
  | sra (sl : SSlot) (d a b : XNum)
  | min (sl : SSlot) (d a b : XNum)
  | max (sl : SSlot) (d a b : XNum)
  | minn (sl : SSlot) (d a b : XNum)
  | maxn (sl : SSlot) (d a b : XNum)
  | mov (sl : SSlot) (d a : XNum)
  | sel (sl : SSlot) (d a b : XNum) (c : BitVec 3)
  | clz (sl : SSlot) (d a : XNum)
  | ctz (sl : SSlot) (d a : XNum)
  | popc (sl : SSlot) (d a : XNum)
  | mul (sl : SSlot) (d a b : XNum)
  | mulh (sl : SSlot) (d a b : XNum)
  | mulhn (sl : SSlot) (d a b : XNum)
  | divs (sl : SSlot) (d a b : XNum)
  | divn (sl : SSlot) (d a b : XNum)
  | rems (sl : SSlot) (d a b : XNum)
  | remn (sl : SSlot) (d a b : XNum)
  | addi (sl : SSlot) (d a : XNum) (imm : BitVec 13)
  | andi (sl : SSlot) (d a : XNum) (imm : BitVec 13)
  | ori (sl : SSlot) (d a : XNum) (imm : BitVec 13)
  | xori (sl : SSlot) (d a : XNum) (imm : BitVec 13)
  | shli (sl : SSlot) (d a : XNum) (n : BitVec 6)
  | shri (sl : SSlot) (d a : XNum) (n : BitVec 6)
  | srai (sl : SSlot) (d a : XNum) (n : BitVec 6)
  | li (sl : SSlot) (d : XNum) (imm : BitVec 19)
  | lih (sl : SSlot) (d : XNum) (imm : BitVec 16) (q : BitVec 2)
  | ceq (sl : SSlot) (c : BitVec 3) (a b : XNum)
  | cne (sl : SSlot) (c : BitVec 3) (a b : XNum)
  | clt (sl : SSlot) (c : BitVec 3) (a b : XNum)
  | cltn (sl : SSlot) (c : BitVec 3) (a b : XNum)
  | cle (sl : SSlot) (c : BitVec 3) (a b : XNum)
  | clen (sl : SSlot) (c : BitVec 3) (a b : XNum)
  | anyk (sl : SSlot) (c : BitVec 3) (k : KNum) (lanes : VoteLanes)
  | allk (sl : SSlot) (c : BitVec 3) (k : KNum) (lanes : VoteLanes)
  | csrr (sl : SSlot) (d : XNum) (num : BitVec 12)
  | csrw (sl : SSlot) (num : BitVec 12) (a : XNum)
  | stg (sl : SSlot) (s : BitVec 6) (a : XNum)
  | stgi (sl : SSlot) (s : BitVec 6) (imm : BitVec 19)
  -- A slot (R236)
  | ldb (zero : Bool) (d base : XNum) (off : BitVec 20)
  | ldh (zero : Bool) (d base : XNum) (off : BitVec 20)
  | ldw (zero : Bool) (d base : XNum) (off : BitVec 20)
  | ldd (d base : XNum) (off : BitVec 20)
  | stb (src base : XNum) (off : BitVec 20)
  | sth (src base : XNum) (off : BitVec 20)
  | stw (src base : XNum) (off : BitVec 20)
  | std (src base : XNum) (off : BitVec 20)
  | ldv (d : VCode) (base : XNum) (off : BitVec 20) (k : KNum) (lw : LaneW)
  | stv (src : VCode) (base : XNum) (off : BitVec 20) (k : KNum) (lw : LaneW)
  | ldvs (d : VCode) (base : XNum) (off : BitVec 20) (stride : XNum)
  | stvs (src : VCode) (base : XNum) (off : BitVec 20) (stride : XNum)
  | ldk (k : KNum) (base : XNum) (off : BitVec 20)
  | stk (k : KNum) (base : XNum) (off : BitVec 20)
  | accrd (d : VCode) (base : XNum) (off : BitVec 20) (k : KNum)
  | accwr (src : VCode) (base : XNum) (off : BitVec 20) (k : KNum)
  | tld (d : VCode) (base : XNum) (off : BitVec 20)
  | tst (src : VCode) (base : XNum) (off : BitVec 20)
  | atom (op : AtomOp) (wide : Bool) (d base s c : XNum) (off : BitVec 8)
  -- V slots, integer and permute (R288)
  | vadd (sl : VSlot) (f : Fmt) (d a b : VCode) (k : KNum)
  | vsub (sl : VSlot) (f : Fmt) (d a b : VCode) (k : KNum)
  | vaddsat (sl : VSlot) (f : Fmt) (d a b : VCode) (k : KNum)
  | vsubsat (sl : VSlot) (f : Fmt) (d a b : VCode) (k : KNum)
  | vmul (sl : VSlot) (f : Fmt) (d a b : VCode) (k : KNum)
  | vmulw (sl : VSlot) (f : Fmt) (w : Widen) (d a b : VCode) (k : KNum)
  | vmac (sl : VSlot) (f : Fmt) (d a b : VCode) (k : KNum)
  | vmacw (sl : VSlot) (f : Fmt) (w : Widen) (d a b : VCode) (k : KNum)
  | vabs (sl : VSlot) (f : Fmt) (d a : VCode) (k : KNum)
  | vneg (sl : VSlot) (f : Fmt) (d a : VCode) (k : KNum)
  | vmin (sl : VSlot) (f : Fmt) (d a b : VCode) (k : KNum)
  | vmax (sl : VSlot) (f : Fmt) (d a b : VCode) (k : KNum)
  | vand (sl : VSlot) (f : Fmt) (d a b : VCode) (k : KNum)
  | vor (sl : VSlot) (f : Fmt) (d a b : VCode) (k : KNum)
  | vxor (sl : VSlot) (f : Fmt) (d a b : VCode) (k : KNum)
  | vnot (sl : VSlot) (f : Fmt) (d a : VCode) (k : KNum)
  | vshl (sl : VSlot) (f : Fmt) (d a b : VCode) (k : KNum)
  | vshr (sl : VSlot) (f : Fmt) (d a b : VCode) (k : KNum)
  | vsra (sl : VSlot) (f : Fmt) (d a b : VCode) (k : KNum)
  | vcmp (sl : VSlot) (f : Fmt) (cc : VCmpOp) (kd : KNum) (a b : VCode) (k : KNum)
  | vsel (sl : VSlot) (f : Fmt) (d a b : VCode) (k : KNum)
  | vredsum (sl : VSlot) (f : Fmt) (d a : VCode) (k : KNum)
  | vredmax (sl : VSlot) (f : Fmt) (d a : VCode) (k : KNum)
  | vredmin (sl : VSlot) (f : Fmt) (d a : VCode) (k : KNum)
  | vbcst (sl : VSlot) (f : Fmt) (d a : VCode) (lane : BitVec 10) (k : KNum)
  | vperm (sl : VSlot) (f : Fmt) (d a b : VCode) (k : KNum)
  | vrot (sl : VSlot) (f : Fmt) (d a : VCode) (count : BitVec 10) (k : KNum)
  | vzip (sl : VSlot) (f : Fmt) (d a b : VCode) (k : KNum)
  | vunzip (sl : VSlot) (f : Fmt) (d a : VCode) (k : KNum)
  | vpack (sl : VSlot) (f : Fmt) (m : PackMod) (d a : VCode) (k : KNum)
  | vunpack (sl : VSlot) (f : Fmt) (d a : VCode) (k : KNum)
  | vdpack (sl : VSlot) (f : Fmt) (d a : VCode) (plane : BitVec 10)
  | vtpack (sl : VSlot) (f : Fmt) (d a : VCode)
  -- V slots, float (R302)
  | vfadd (sl : VSlot) (f : Fmt) (r : RndB) (d a b : VCode) (k : KNum)
  | vfsub (sl : VSlot) (f : Fmt) (r : RndB) (d a b : VCode) (k : KNum)
  | vfmul (sl : VSlot) (f : Fmt) (r : RndB) (d a b : VCode) (k : KNum)
  | vfma (sl : VSlot) (f : Fmt) (r : RndB) (d a b : VCode) (k : KNum)
  | vfnma (sl : VSlot) (f : Fmt) (r : RndB) (d a b : VCode) (k : KNum)
  | vfmin (sl : VSlot) (f : Fmt) (d a b : VCode) (k : KNum)
  | vfmax (sl : VSlot) (f : Fmt) (d a b : VCode) (k : KNum)
  | vfabs (sl : VSlot) (f : Fmt) (d a : VCode) (k : KNum)
  | vfneg (sl : VSlot) (f : Fmt) (d a : VCode) (k : KNum)
  | vfcmp (sl : VSlot) (f : Fmt) (cc : VFCmpOp) (kd : KNum) (a b : VCode) (k : KNum)
  | vfredsum (sl : VSlot) (f : Fmt) (r : RndU) (d a : VCode) (k : KNum)
  | vcvt (sl : VSlot) (t f : Fmt) (r : RndU) (d a : VCode) (k : KNum)
  | vbfix (sl : VSlot) (keep : Bool) (r : RndU) (d a : VCode) (k : KNum)
  | vbflt (sl : VSlot) (r : RndU) (d a : VCode) (k : KNum)
  | vrcp (sl : VSlot) (r : RndU) (d a : VCode) (k : KNum)
  | vrsq (sl : VSlot) (r : RndU) (d a : VCode) (k : KNum)
  | vsqrt (sl : VSlot) (r : RndU) (d a : VCode) (k : KNum)
  | vexp2 (sl : VSlot) (r : RndU) (d a : VCode) (k : KNum)
  | vlog2 (sl : VSlot) (r : RndU) (d a : VCode) (k : KNum)
  | vtanh (sl : VSlot) (r : RndU) (d a : VCode) (k : KNum)
  | vsigm (sl : VSlot) (r : RndU) (d a : VCode) (k : KNum)
  -- V2, witnesses (R312, R313)
  | wmax (sl : VSlot) (f : Fmt) (d a : VCode) (n : BitVec 7) (k : KNum)
  | wmin (sl : VSlot) (f : Fmt) (d a : VCode) (n : BitVec 7) (k : KNum)
  | wclamp (sl : VSlot) (f : Fmt) (d a b : VCode) (k : KNum)
  | wmed (sl : VSlot) (f : Fmt) (d a : VCode) (n : BitVec 7) (k : KNum)
  | wsat (sl : VSlot) (f : Fmt) (d a : VCode) (n : BitVec 7) (k : KNum)
  | adjb (sl : VSlot) (d a b : VCode) (xg : XNum) (k : KNum)
  -- M slot (R239)
  | mcall (idx : BitVec 10)
  | mcallT (idx : BitVec 10) (off : BitVec 16)
  | mcfg (w : McfgW) (nat : Bool) (sat : Bool)
  -- Q slot (R240)
  | qld (n : BitVec 3) (a : XNum)
  | qset (n : BitVec 3) (a : XNum)
  | qclr (n : BitVec 3)
  -- D slot (R241)
  | dcopy (c : XNum) (t eq : Bool)
  | dcopy2 (c : XNum) (t eq : Bool)
  | dgath (c : XNum) (t eq : Bool)
  | dscat (c : XNum) (t eq : Bool)
  | dfill (c : XNum) (t eq : Bool)
  | datom (c : XNum) (t eq : Bool)
  | dchase (c : XNum) (t eq : Bool)
  | dmig (c : XNum) (t eq : Bool)
  -- G slot (R241)
  | adec (c : XNum) (t eq : Bool)
  | aplan (c : XNum) (t eq : Bool)
  | amerge (norm : Bool) (c : XNum) (t eq : Bool)
  | kvinv (c : XNum) (t eq : Bool)
  | kfork (rel : Bool) (c : XNum) (t eq : Bool)
  | gsend (c : XNum) (t eq : Bool)
  | grecv (c : XNum) (t eq : Bool)
  | gred (c : XNum) (t eq : Bool)
  | gtt (c : XNum) (eq : Bool)
  -- Y slot (R242)
  | rent (x : XNum)
  | prepay (x : XNum)
  | renew (x : XNum)
  | sublet (x : XNum)
  | vacate (x : XNum)
  | rentq (x : XNum)
  | evpop (x : XNum)
  | fence (scope : FenceScope) (kind : FenceKind)
  | wake (x : XNum)
  | jinit (x : XNum)
  | jadd (x : XNum)
  | jdone (x : XNum)
  | jwait (x : XNum)
  | launch (x : XNum)
  | tbind (x : XNum)
  | tsnap (x : XNum)
  | troll (x : XNum)
  | tfork (x : XNum)
  | trap (n : BitVec 6)
  -- micro-ops (R319 to R327)
  | microEnd (p : MPred)
  | microLoop (cp : Bool) (e : BitVec 2) (par : BitVec 3) (count : BitVec 16)
  | ldst (p : MPred) (st : Step) (layer : BitVec 2) (src stp : BitVec 3) (imm : BitVec 24)
  | swap (p : MPred)
  | strm (p : MPred) (st : Step) (m : BitVec 16) (pa : BitVec 3) (arow : BitVec 10) (sa sw : BitVec 3)
      (wofs : BitVec 17)
  | wcfg (p : MPred) (st : Step) (par stp : BitVec 3) (imm : BitVec 24)
  | microZero (p : MPred) (st : Step) (pa : BitVec 3) (arow : BitVec 10) (sa : BitVec 3) (n1 : BitVec 10)
  | drn (p : MPred) (st : Step) (pa : BitVec 3) (arow : BitVec 10) (sa pd sd : BitVec 3) (n1 : BitVec 9)
      (rsc csc : BitVec 3)
  | drnq (p : MPred) (st : Step) (pa : BitVec 3) (arow : BitVec 10) (sa pd sd : BitVec 3) (n1 : BitVec 9)
      (scm scs pz : BitVec 3) (w16 : Bool)
  | drnx (p : MPred) (st : Step) (pa : BitVec 3) (arow : BitVec 10) (sa : BitVec 3) (conv rt : BitVec 2)
      (n1 : BitVec 9) (sc1 sc2 pz : BitVec 3) (w16 : Bool)
  | post (p : MPred) (code : BitVec 16)
  -- rows 200 to 206: the array engine
  -- rows 207 to 217: translation, transfer and group engines
  | commandTranslation (cmd : Nat)
  | walkComplete (walk : Nat)
  | transferStart (cmd : Nat)
  | timedStartFailure (cmd : Nat)
  | badparamRecord (cmd : Nat)
  | groupCommandStart (cmd : Nat)
  | packetPerform (xfer : Nat)
  | packetReply (xfer : Nat)
  | enginePortAccess (xfer : Nat)
  | decodePage (cmd : Nat)
  | groupCommandComplete (cmd : Nat)
  -- rows 218, 219: the tack room
  -- rows 220 to 237: the fabric
  | fragmentSend (send : Nat)
  | fragmentArrival (dev : Nat) (port : Nat) (header : List Byte) (payload : List Byte)
  | receiveDecodeEnd (msg : Nat)
  | messageLost (msg : Nat)
  | heldMessageDiscard (msg : Nat)
  | gsendDeadline (send : Nat)
  | grecvWaitExpiry (recv : Nat)
  | deliveryNotice (mid : Nat)
  | finalLossNotice (mid : Nat)
  | heldNotice (mid : Nat)
  | resendNotice (mid : Nat) (missing : Nat)
  | abandonNotice (src mid : Nat)
  | reductionTimeout (red : Nat)
  | gredDeadline (cmd : Nat)
  | timetableSendEntry (core entry : Nat)
  | timetableConsumeDeadline (core entry : Nat)
  -- rows 238 to 249: boundaries, rent and memory management
  | stallLapse (dev stall : Nat)
  | overstayCharge (dev stall : Nat)
  | stallReclaim (dev stall : Nat)
  | reclaimScrub (scrub : Nat)
  | storageReturn (ret : Nat)
  | rowMitigation (stack : BitVec 8) (row : BitVec 40)
  -- rows 250 to 264: the yardmaster
  | launchCopy (dev fabdom : Nat) (record : List Byte) (gang : Nat)
  | memberReport (launch : Nat) (member : Nat) (cause : Nat)
  | gangTickNotice (launch : Nat) (tick : Nat)
  | hostWake (dev : Nat) (tail : Nat)
  | timeTriggeredSlot (slot : Nat)
  | deferredSlotEnqueue (slot : Nat)
  -- rows 265 to 279: register writes from outside the bundles
  | topupWrite (dev acct : Nat) (amount : Word)
  | ptinvPage (dev : Nat) (va : Word)
  | ptinvAll (dev : Nat)
  | resvWrite (dev : Nat) (value : Word)
  | vdctlWrite (dev : Nat) (value : Word)
  | dtbaseWrite (dev : Nat) (value : Word)
  | ctxctlResumeUser (ctx : Nat) (skip : Bool)
  | ctxctlResumeDriver (ctx : Nat) (skip : Bool)
  | ctxctlEndLeaf (ctx : Nat)
  | coderateWrite (reg : Nat) (value : Word)
  | losstmoWrite (value : Word)
  | pwrcapWrite (value : Word)
  | registerWrite (reg : HostReg) (value : Word)
  | eventRingRecord (dev : Nat) (hyp : Bool) (record : List Byte)
  -- rows 280 to 291: boot, power, notices
  | measurementExtend (reg : Nat) (digest : List Byte)
  | collectiveOrderNotice (dev : Nat) (red : GroupSeq)
  | engineInternalError (cmd : Nat)
  | partitionRelease (dev : Nat)
  | launchDiscard (launch : Nat)
  -- rows without operands; the core, context, die, device or launch that a step is about stands in State.cur
  | bundleIssue
  | writeLanding
  | transferEffect
  | trapEntry
  | mloadCode
  | mloadTable
  | mhalt
  | evwait
  | realign
  | eretRetry
  | eretSkip
  | halt
  | endl
  | prot
  | accumulatorAdd
  | routineStart
  | routineTimingFailure
  | routineEngineEnding
  | routineHalted
  | drainSlot
  | mloadComplete
  | tackCommandStart
  | tackCommandComplete
  | timetableInstanceStart
  | timetableInstanceEnd
  | tickBoundary
  | sharedStoreCommit
  | realignRelease
  | heatHalving
  | migrationChoice
  | migrationSwitch
  | yardmasterBoundary
  | gangTick
  | snapshotWaitExpiry
  | preemptionHalt
  | launchResume
  | waveEnd
  | launchEnd
  | coreRelease
  | wakeRefill
  | ptinvComplete
  | attreq
  | attestationComplete
  | packageReset
  | bowarn
  | shedreq
  | shedFreeze
  | pwrok
  deriving DecidableEq, Repr

end Sys2Proof
end

