-- ==== Sys2Proof/Machine/Forms.lean ====
section
/-!
DEFINITION. Sys2Proof/Machine/Forms.lean: the element formats (R93), the register codes of a vector field (R123) and
the operand limits that the encoding itself imposes (R237, R243, R288, R302). WellFormed, the decoder and the
meanings use these definitions, so that each limit is written once.
-/
namespace Sys2Proof

namespace Fmt

/-- R93: the format code. -/
def code : Fmt → Nat
  | i8 => 0 | i16 => 1 | i32 => 2 | i4 => 3 | n8 => 4 | n16 => 5 | n32 => 6 | n4 => 7
  | f32 => 8 | f16 => 9 | bf16 => 10 | e4m3 => 11 | e5m2 => 12

/-- R93: the format of a code; 0xD to 0xF are reserved. -/
def ofCode : Nat → Option Fmt
  | 0 => some i8 | 1 => some i16 | 2 => some i32 | 3 => some i4 | 4 => some n8 | 5 => some n16 | 6 => some n32
  | 7 => some n4 | 8 => some f32 | 9 => some f16 | 10 => some bf16 | 11 => some e4m3 | 12 => some e5m2
  | _ => none

/-- R93: element width in bits. -/
def width : Fmt → Nat
  | i4 | n4 => 4
  | i8 | n8 | e4m3 | e5m2 => 8
  | i16 | n16 | f16 | bf16 => 16
  | i32 | n32 | f32 => 32

/-- R93: lanes of a 512-B register. -/
def lanes (f : Fmt) : Nat := 4096 / f.width

/-- The signed integer codes 0x0 to 0x3. -/
def signed : Fmt → Bool
  | i8 | i16 | i32 | i4 => true
  | _ => false

/-- The natural codes 0x4 to 0x7. -/
def natural : Fmt → Bool
  | n8 | n16 | n32 | n4 => true
  | _ => false

/-- The integer codes 0x0 to 0x7. -/
def isInt (f : Fmt) : Bool := f.signed || f.natural

/-- The float codes 0x8 to 0xC. -/
def isFloat (f : Fmt) : Bool := !f.isInt

/-- The formats of float arithmetic, 0x8 to 0xA (R300). -/
def arith : Fmt → Bool
  | f32 | f16 | bf16 => true
  | _ => false

/-- R288, set Wd: a format twice as wide exists. -/
def hasDouble : Fmt → Bool
  | i8 | i16 | i4 | n8 | n16 | n4 => true
  | _ => false

/-- R288, set Wq: a format four times as wide exists. -/
def hasQuad : Fmt → Bool
  | i8 | i4 | n8 | n4 => true
  | _ => false

/-- R177: the formats of a witness reduction. -/
def witness : Fmt → Bool
  | i16 | i32 | n16 | n32 | f32 | f16 | bf16 => true
  | _ => false

end Fmt

/-- R123: a source code, v0 to v767, a port or the zero code. -/
def srcOk (c : VCode) : Bool := c.toNat ≤ 774

/-- R123: a destination code of a unit whose own port has the given code. -/
def dstOk (port : Nat) (c : VCode) : Bool := c.toNat < 768 || c.toNat == port || c.toNat == 774

/-- R123: an aligned pair. -/
def pairOk (c : VCode) : Bool := c.toNat < 768 && c.toNat % 2 == 0

/-- R123: an aligned quad. -/
def quadOk (c : VCode) : Bool := c.toNat < 768 && c.toNat % 4 == 0

/-- R123: an aligned group of r registers, r = 2 or 4. -/
def groupOk (r : Nat) (c : VCode) : Bool := c.toNat < 768 && c.toNat % r == 0

/-- R123: a plain vector register. -/
def vregOk (c : VCode) : Bool := c.toNat < 768

/-- R123: the code of a vector slot's own port. -/
def VSlot.port : VSlot → Nat | .v0 => 771 | .v1 => 772 | .v2 => 773

/-- R288: V0 and V1 only. -/
def VSlot.arith : VSlot → Bool | .v0 | .v1 => true | .v2 => false

/-- R288: V2 only. -/
def VSlot.perm : VSlot → Bool | .v2 => true | _ => false

/-- R124: the code of the A slot's port. -/
def portA : Nat := 770

/-- R291: registers of a widening result. -/
def Widen.regs : Widen → Nat | .pair => 2 | .quad => 4

/-- Operand limits of a two-source operation. -/
def bin3Ok (ok : Bool) (sl : VSlot) (d a b : VCode) : Bool :=
  ok && dstOk sl.port d && srcOk a && srcOk b

/-- Operand limits of a one-source operation. -/
def un2Ok (ok : Bool) (sl : VSlot) (d a : VCode) : Bool := ok && dstOk sl.port d && srcOk a

/-- R288: the formats and the destination of a widening product. -/
def widenOk (sl : VSlot) (f : Fmt) (w : Widen) (d a b : VCode) : Bool :=
  sl.arith && (match w with | .pair => f.hasDouble | .quad => f.hasQuad) && groupOk w.regs d && srcOk a && srcOk b

/-- R308: registers that one side of a conversion names. -/
def cvtRegs (f other : Fmt) : Nat := max f.lanes other.lanes / f.lanes

/-- R308: which conversions exist. -/
def cvtPair (t s : Fmt) : Bool :=
  (t.isFloat || s.isFloat) && t != s && max t.width s.width ≤ 4 * min t.width s.width

/-- R308: a register group of r registers as a source. -/
def cvtSrcOk (r : Nat) (c : VCode) : Bool := if r = 1 then srcOk c else groupOk r c

/-- R308: a register group of r registers as a destination. -/
def cvtDstOk (sl : VSlot) (r : Nat) (c : VCode) : Bool := if r = 1 then dstOk sl.port c else groupOk r c

/-- R177: the limits of `wmax`, `wmin` and `wsat`, n sources from a. -/
def witOk (ok : Bool) (sl : VSlot) (d a : VCode) (n : BitVec 7) : Bool :=
  sl.perm && ok && pairOk d && vregOk a && 1 ≤ n.toNat && a.toNat + n.toNat ≤ 768

/-- R120: the staging numbers in use. -/
def stagingOk (s : BitVec 6) : Bool := s.toNat < 28

/-- R242: an x pair. -/
def xpairOk (x : XNum) : Bool := x.toNat % 2 == 0

/-- R242: an x quad. -/
def xquadOk (x : XNum) : Bool := x.toNat % 4 == 0

/-- R321: with SE = 0 the loop selector and every step parameter are zero. -/
def Step.ok (st : Step) (pars : List (BitVec 3)) : Bool := st.on || (st.level == 0 && pars.all (· == 0))

end Sys2Proof
end

