-- ==== Sys2Proof/WellFormed.lean ====
section
/-!
DEFINITION. Sys2Proof/WellFormed.lean: which instructions the encoding admits. A syllable that is not well formed
has no encoding: its word raises cause 0x02 (R243), or ends the routine for a micro-op (R319). The limits are the
definitions of Machine/Forms.lean.
-/
namespace Sys2Proof

/-- The instructions that the encoding tables admit (R234 to R243, R319 to R327). -/
def Instr.wf : Instr → Bool
  | .loopi _ n _ => n != 0
  | .stg _ s _ => stagingOk s
  | .stgi _ s _ => stagingOk s
  | .ldv d _ _ _ _ => dstOk portA d
  | .stv s _ _ _ _ => srcOk s
  | .ldvs d _ _ _ => dstOk portA d
  | .stvs s _ _ _ => srcOk s
  | .accrd d _ _ _ => dstOk portA d
  | .accwr s _ _ _ => srcOk s
  | .tld d _ _ => dstOk portA d
  | .tst s _ _ => srcOk s
  | .atom op wide _ _ _ c _ => !(op == .fadd && wide) && (op == .cas || c == 0)
  | .vadd sl f d a b _ => bin3Ok (sl.arith && f.isInt) sl d a b
  | .vsub sl f d a b _ => bin3Ok (sl.arith && f.isInt) sl d a b
  | .vaddsat sl f d a b _ => bin3Ok (sl.arith && f.isInt) sl d a b
  | .vsubsat sl f d a b _ => bin3Ok (sl.arith && f.isInt) sl d a b
  | .vmul sl f d a b _ => bin3Ok (sl.arith && f.isInt) sl d a b
  | .vmulw sl f w d a b _ => widenOk sl f w d a b
  | .vmac sl f d a b _ => bin3Ok (sl.arith && f.isInt) sl d a b
  | .vmacw sl f w d a b _ => widenOk sl f w d a b
  | .vabs sl f d a _ => un2Ok (sl.arith && f.isInt) sl d a
  | .vneg sl f d a _ => un2Ok (sl.arith && f.isInt) sl d a
  | .vmin sl f d a b _ => bin3Ok (sl.arith && f.isInt) sl d a b
  | .vmax sl f d a b _ => bin3Ok (sl.arith && f.isInt) sl d a b
  | .vand sl _ d a b _ => bin3Ok sl.arith sl d a b
  | .vor sl _ d a b _ => bin3Ok sl.arith sl d a b
  | .vxor sl _ d a b _ => bin3Ok sl.arith sl d a b
  | .vnot sl _ d a _ => un2Ok sl.arith sl d a
  | .vshl sl f d a b _ => bin3Ok (sl.arith && f.isInt) sl d a b
  | .vshr sl f d a b _ => bin3Ok (sl.arith && f.isInt) sl d a b
  | .vsra sl f d a b _ => bin3Ok (sl.arith && f.signed) sl d a b
  | .vcmp sl f _ _ a b _ => sl.arith && f.isInt && srcOk a && srcOk b
  | .vsel sl _ d a b _ => bin3Ok sl.arith sl d a b
  | .vredsum sl f d a _ => un2Ok (sl.arith && f.isInt) sl d a
  | .vredmax sl f d a _ => un2Ok (sl.arith && f.isInt) sl d a
  | .vredmin sl f d a _ => un2Ok (sl.arith && f.isInt) sl d a
  | .vbcst sl f d a j _ => un2Ok sl.perm sl d a && j.toNat < f.lanes
  | .vperm sl _ d a b _ => bin3Ok sl.perm sl d a b
  | .vrot sl f d a r _ => un2Ok sl.perm sl d a && r.toNat < f.lanes
  | .vzip sl _ d a b _ => sl.perm && pairOk d && srcOk a && srcOk b
  | .vunzip sl _ d a _ => sl.perm && pairOk d && pairOk a
  | .vpack sl f _ d a _ => sl.perm && f.hasDouble && dstOk sl.port d && pairOk a
  | .vunpack sl f d a _ => sl.perm && f.hasDouble && pairOk d && srcOk a
  | .vdpack sl f d a p => sl.perm && (f == .i8 || f == .n8) && dstOk sl.port d && pairOk a && p.toNat ≤ 2
  | .vtpack sl f d a => sl.perm && (f == .i8 || f == .n8) && dstOk sl.port d && quadOk a
  | .vfadd sl f _ d a b _ => bin3Ok (sl.arith && f.arith) sl d a b
  | .vfsub sl f _ d a b _ => bin3Ok (sl.arith && f.arith) sl d a b
  | .vfmul sl f _ d a b _ => bin3Ok (sl.arith && f.arith) sl d a b
  | .vfma sl f _ d a b _ => bin3Ok (sl.arith && f.arith) sl d a b
  | .vfnma sl f _ d a b _ => bin3Ok (sl.arith && f.arith) sl d a b
  | .vfmin sl f d a b _ => bin3Ok (sl.arith && f.arith) sl d a b
  | .vfmax sl f d a b _ => bin3Ok (sl.arith && f.arith) sl d a b
  | .vfabs sl f d a _ => un2Ok (sl.arith && f.isFloat) sl d a
  | .vfneg sl f d a _ => un2Ok (sl.arith && f.isFloat) sl d a
  | .vfcmp sl f _ _ a b _ => sl.arith && f.arith && srcOk a && srcOk b
  | .vfredsum sl f _ d a _ => un2Ok (sl.arith && f.arith) sl d a
  | .vcvt sl t f _ d a _ => sl.arith && cvtPair t f && cvtDstOk sl (cvtRegs t f) d && cvtSrcOk (cvtRegs f t) a
  | .vbfix sl _ _ d a _ => sl.arith && pairOk d && srcOk a
  | .vbflt sl _ d a _ => sl.arith && dstOk sl.port d && pairOk a
  | .vrcp sl _ d a _ => un2Ok sl.perm sl d a
  | .vrsq sl _ d a _ => un2Ok sl.perm sl d a
  | .vsqrt sl _ d a _ => un2Ok sl.perm sl d a
  | .vexp2 sl _ d a _ => un2Ok sl.perm sl d a
  | .vlog2 sl _ d a _ => un2Ok sl.perm sl d a
  | .vtanh sl _ d a _ => un2Ok sl.perm sl d a
  | .vsigm sl _ d a _ => un2Ok sl.perm sl d a
  | .wmax sl f d a n _ => witOk f.witness sl d a n
  | .wmin sl f d a n _ => witOk f.witness sl d a n
  | .wclamp sl f d a b _ => sl.perm && f.witness && pairOk d && vregOk a && pairOk b
  | .wmed sl f d a n _ => witOk (f.witness && n.toNat ≤ 15 && n.toNat % 2 == 1) sl d a n
  | .wsat sl f d a n _ => witOk (f.witness && f.isInt) sl d a n
  | .adjb sl d a b xg _ => sl.perm && vregOk d && vregOk a && vregOk b && xg.toNat < 52
  | .mcall idx => idx.toNat < 64
  | .mcallT idx _ => idx.toNat < 64
  | .rent x => xquadOk x
  | .prepay x => xpairOk x
  | .renew x => xpairOk x
  | .sublet x => xquadOk x
  | .rentq x => xpairOk x
  | .evpop x => xquadOk x
  | .jinit x => xpairOk x
  | .jadd x => xpairOk x
  | .tbind x => xquadOk x
  | .tsnap x => xpairOk x
  | .troll x => xpairOk x
  | .tfork x => xquadOk x
  | .microLoop cp _ par n => if cp then n == 0 else par == 0 && n != 0
  | .ldst _ st layer _ s _ => layer != 3 && st.ok [s]
  | .strm _ st m _ _ sa sw _ => m != 0 && st.ok [sa, sw]
  | .wcfg _ st _ s _ => st.ok [s]
  | .microZero _ st _ _ sa _ => st.ok [sa]
  | .drn _ st _ _ sa _ sd _ _ _ => st.ok [sa, sd]
  | .drnq _ st _ _ sa _ sd _ scm _ _ _ => st.ok [sa, sd] && scm.toNat % 2 == 0
  | .drnx _ st _ _ sa conv _ _ sc1 sc2 pz w16 =>
      st.ok [sa] && conv != 3 && (conv != 0 || (sc1 == 0 && sc2 == 0))
        && (conv == 2 || (pz == 0 && !w16)) && (conv != 2 || sc1.toNat % 2 == 0)
  | _ => true

end Sys2Proof
end

