-- ==== Sys2Proof/Decode.lean ====
section
/-!
DEFINITION. Sys2Proof/Decode.lean: the encoder and the decoder of syllables and micro-ops (R234 to R243, R319 to
R327), and the reading of an opcode-table word. A word decodes to an instruction exactly when its fields name one that
is well formed and every bit that the encoding table does not give to it is zero, which is tested by encoding the
instruction again (R132, R243).
-/
namespace Sys2Proof

/-! ### Codes of the small sets -/

def RndB.code : RndB → Nat | .mode => 0 | .rne => 1 | .rtz => 2
/-- R237: rounding modifier; 3 is reserved. -/
def RndB.ofCode : Nat → Option RndB | 0 => some .mode | 1 => some .rne | 2 => some .rtz | _ => none
def RndU.code : RndU → Nat | .mode => 0 | .rne => 4 | .rtz => 5 | .rup => 6 | .rdn => 7
/-- R237: rounding in b[6:4]; 1 to 3 are reserved. -/
def RndU.ofCode : Nat → Option RndU
  | 0 => some .mode | 4 => some .rne | 5 => some .rtz | 6 => some .rup | 7 => some .rdn | _ => none
def Widen.code : Widen → Nat | .pair => 0 | .quad => 1
/-- R288: 2 and 3 are reserved. -/
def Widen.ofCode : Nat → Option Widen | 0 => some .pair | 1 => some .quad | _ => none
def PackMod.code : PackMod → Nat | .wrap => 0 | .sats => 1 | .satn => 2
/-- R288: 3 is reserved. -/
def PackMod.ofCode : Nat → Option PackMod | 0 => some .wrap | 1 => some .sats | 2 => some .satn | _ => none
def VCmpOp.code : VCmpOp → Nat | .eq => 0 | .ne => 1 | .lt => 2 | .le => 3
def VCmpOp.ofCode : Nat → Option VCmpOp
  | 0 => some .eq | 1 => some .ne | 2 => some .lt | 3 => some .le | _ => none
def VFCmpOp.code : VFCmpOp → Nat | .eq => 0 | .lt => 1 | .le => 2 | .un => 3
def VFCmpOp.ofCode : Nat → Option VFCmpOp
  | 0 => some .eq | 1 => some .lt | 2 => some .le | 3 => some .un | _ => none
def LaneW.code : LaneW → Nat | .e8 => 0 | .e16 => 1 | .e32 => 2
/-- R264: 3 is reserved. -/
def LaneW.ofCode : Nat → Option LaneW | 0 => some .e8 | 1 => some .e16 | 2 => some .e32 | _ => none
def AtomOp.code : AtomOp → Nat
  | .add => 0 | .and => 1 | .or => 2 | .xor => 3 | .min => 4 | .max => 5 | .minn => 6 | .maxn => 7 | .fadd => 8
  | .xchg => 9 | .cas => 10
/-- R74: the operations of an atomic; 11 to 15 are reserved. -/
def AtomOp.ofCode : Nat → Option AtomOp
  | 0 => some .add | 1 => some .and | 2 => some .or | 3 => some .xor | 4 => some .min | 5 => some .max
  | 6 => some .minn | 7 => some .maxn | 8 => some .fadd | 9 => some .xchg | 10 => some .cas | _ => none
def VoteLanes.code : VoteLanes → Nat | .l1024 => 0 | .l512 => 1 | .l256 => 2 | .l128 => 3
def VoteLanes.ofCode : Nat → Option VoteLanes
  | 0 => some .l1024 | 1 => some .l512 | 2 => some .l256 | 3 => some .l128 | _ => none
def FenceScope.code : FenceScope → Nat | .ctx => 0 | .core => 1 | .quad => 2 | .die => 3 | .pkg => 4 | .sys => 5
/-- R242: 6 and 7 are reserved. -/
def FenceScope.ofCode : Nat → Option FenceScope
  | 0 => some .ctx | 1 => some .core | 2 => some .quad | 3 => some .die | 4 => some .pkg | 5 => some .sys | _ => none
def FenceKind.code : FenceKind → Nat | .acq => 0 | .rel => 1 | .full => 2
/-- R242: 3 is reserved. -/
def FenceKind.ofCode : Nat → Option FenceKind | 0 => some .acq | 1 => some .rel | 2 => some .full | _ => none
/-- R316, R153: WSGN in bit 3 and WFMT in bits 1:0. -/
def McfgW.code : McfgW → Nat | .tern => 0 | .ternn => 8 | .d9p1 => 1 | .d9p2 => 2 | .d9p3 => 3
def McfgW.ofCode : Nat → Option McfgW
  | 0 => some .tern | 8 => some .ternn | 1 => some .d9p1 | 2 => some .d9p2 | 3 => some .d9p3 | _ => none
def MPred.code : MPred → Nat | .always => 0 | .sp0 => 1 | .sp1 => 2 | .sp2 => 3 | .sp3 => 4
/-- R239: 5 to 7 are reserved. -/
def MPred.ofCode : Nat → Option MPred
  | 0 => some .always | 1 => some .sp0 | 2 => some .sp1 | 3 => some .sp2 | 4 => some .sp3 | _ => none

def SSlot.slot : SSlot → Slot | .s0 => .S0 | .s1 => .S1
def VSlot.slot : VSlot → Slot | .v0 => .V0 | .v1 => .V1 | .v2 => .V2

/-- R128: the mask bit of a slot. -/
def Slot.bit : Slot → Nat
  | .B => 11 | .S0 => 10 | .S1 => 9 | .A => 8 | .V0 => 7 | .V1 => 6 | .V2 => 5 | .M => 4 | .Q => 3 | .D => 2
  | .G => 1 | .Y => 0

/-- R131: parcels of a slot's syllable. -/
def Slot.parcels : Slot → Nat
  | .B | .S0 | .S1 | .M => 2
  | .A | .V0 | .V1 | .V2 => 3
  | .Q | .D | .G | .Y => 1

/-- R131: the low bundle bit of a slot's syllable. -/
def Slot.low : Slot → Nat
  | .B => 352 | .S0 => 320 | .S1 => 288 | .A => 240 | .V0 => 192 | .V1 => 144 | .V2 => 96 | .M => 64 | .Q => 48
  | .D => 32 | .G => 16 | .Y => 0

/-- R135: the slots in precedence order. -/
def Slot.all : List Slot := [.B, .S0, .S1, .A, .V0, .V1, .V2, .M, .Q, .D, .G, .Y]

/-! ### The frames (R131, R234 to R242, R319) -/

/-- R234: a B syllable. -/
def frameB (op rest : Nat) : Nat := op * 2 ^ 27 + rest
/-- R235: an S syllable, opcode, d, a and the 13 bits of b. -/
def frameS (op d a b : Nat) : Nat := op * 2 ^ 25 + d * 2 ^ 19 + a * 2 ^ 13 + b
/-- R236: an A syllable. -/
def frameA (op r base off k m : Nat) : Nat :=
  op * 2 ^ 42 + r * 2 ^ 32 + base * 2 ^ 26 + off * 2 ^ 6 + k * 2 ^ 2 + m
/-- R237: a vector syllable. -/
def frameV (op f d a b k m : Nat) : Nat :=
  op * 2 ^ 40 + f * 2 ^ 36 + d * 2 ^ 26 + a * 2 ^ 16 + b * 2 ^ 6 + k * 2 ^ 2 + m
/-- R239: an M syllable. -/
def frameM (op idx flags off : Nat) : Nat := op * 2 ^ 28 + idx * 2 ^ 18 + flags * 2 ^ 16 + off
/-- R240 to R242: a 16-bit syllable. -/
def frameH (op x flags : Nat) : Nat := op * 2 ^ 10 + x * 2 ^ 4 + flags
/-- R241: the flags of a D or G command. -/
def dgFlags (t eq : Bool) (low : Nat) : Nat := bnat t * 8 + bnat eq * 4 + low
/-- R319: a micro-op. -/
def frameU (op p rest : Nat) : Nat := op * 2 ^ 58 + p * 2 ^ 55 + rest
/-- R321: bits 54:52 of a micro-op that forms addresses. -/
def stepBits (st : Step) : Nat := st.level.toNat * 2 ^ 53 + bnat st.on * 2 ^ 52

/-! ### The encoder -/

/-- The word of a syllable or micro-op (R234 to R242, R322 to R327); 0, which is nop or absent, for a step that has
no encoding. -/
def encode : Instr → Nat
  | .ptg t o => frameB 1 (t.toNat * 2 ^ 25 + o.toNat)
  | .br c t => frameB 2 (c.toNat * 2 ^ 24 + t.toNat * 2 ^ 22)
  | .bra t => frameB 3 (t.toNat * 2 ^ 22)
  | .brx x => frameB 4 (x.toNat * 2 ^ 21)
  | .call x t => frameB 5 (x.toNat * 2 ^ 21 + t.toNat * 2 ^ 19)
  | .ret x => frameB 6 (x.toNat * 2 ^ 21)
  | .loop lc x o => frameB 7 (lc.toNat * 2 ^ 25 + x.toNat * 2 ^ 19 + o.toNat)
  | .loopi lc n o => frameB 8 (lc.toNat * 2 ^ 25 + n.toNat * 2 ^ 12 + o.toNat)
  | .add _ d a b => frameS 0x1 d.toNat a.toNat (b.toNat * 2 ^ 7)
  | .sub _ d a b => frameS 0x2 d.toNat a.toNat (b.toNat * 2 ^ 7)
  | .and _ d a b => frameS 0x3 d.toNat a.toNat (b.toNat * 2 ^ 7)
  | .or _ d a b => frameS 0x4 d.toNat a.toNat (b.toNat * 2 ^ 7)
  | .xor _ d a b => frameS 0x5 d.toNat a.toNat (b.toNat * 2 ^ 7)
  | .shl _ d a b => frameS 0x6 d.toNat a.toNat (b.toNat * 2 ^ 7)
  | .shr _ d a b => frameS 0x7 d.toNat a.toNat (b.toNat * 2 ^ 7)
  | .sra _ d a b => frameS 0x8 d.toNat a.toNat (b.toNat * 2 ^ 7)
  | .min _ d a b => frameS 0x9 d.toNat a.toNat (b.toNat * 2 ^ 7)
  | .max _ d a b => frameS 0xa d.toNat a.toNat (b.toNat * 2 ^ 7)
  | .minn _ d a b => frameS 0xb d.toNat a.toNat (b.toNat * 2 ^ 7)
  | .maxn _ d a b => frameS 0xc d.toNat a.toNat (b.toNat * 2 ^ 7)
  | .mul _ d a b => frameS 0x18 d.toNat a.toNat (b.toNat * 2 ^ 7)
  | .mulh _ d a b => frameS 0x19 d.toNat a.toNat (b.toNat * 2 ^ 7)
  | .mulhn _ d a b => frameS 0x1a d.toNat a.toNat (b.toNat * 2 ^ 7)
  | .divs _ d a b => frameS 0x1c d.toNat a.toNat (b.toNat * 2 ^ 7)
  | .divn _ d a b => frameS 0x1d d.toNat a.toNat (b.toNat * 2 ^ 7)
  | .rems _ d a b => frameS 0x1e d.toNat a.toNat (b.toNat * 2 ^ 7)
  | .remn _ d a b => frameS 0x1f d.toNat a.toNat (b.toNat * 2 ^ 7)
  | .sel _ d a b c => frameS 0xe d.toNat a.toNat (b.toNat * 2 ^ 7 + c.toNat)
  | .mov _ d a => frameS 0xd d.toNat a.toNat 0
  | .clz _ d a => frameS 0xf d.toNat a.toNat 0
  | .ctz _ d a => frameS 0x10 d.toNat a.toNat 0
  | .popc _ d a => frameS 0x11 d.toNat a.toNat 0
  | .addi _ d a i => frameS 0x21 d.toNat a.toNat i.toNat
  | .andi _ d a i => frameS 0x23 d.toNat a.toNat i.toNat
  | .ori _ d a i => frameS 0x24 d.toNat a.toNat i.toNat
  | .xori _ d a i => frameS 0x25 d.toNat a.toNat i.toNat
  | .shli _ d a i => frameS 0x26 d.toNat a.toNat i.toNat
  | .shri _ d a i => frameS 0x27 d.toNat a.toNat i.toNat
  | .srai _ d a i => frameS 0x28 d.toNat a.toNat i.toNat
  | .li _ d i => frameS 0x30 d.toNat 0 i.toNat
  | .lih _ d i q => frameS 0x31 d.toNat 0 (q.toNat * 2 ^ 17 + i.toNat)
  | .ceq _ c a b => frameS 0x38 c.toNat a.toNat (b.toNat * 2 ^ 7)
  | .cne _ c a b => frameS 0x39 c.toNat a.toNat (b.toNat * 2 ^ 7)
  | .clt _ c a b => frameS 0x3a c.toNat a.toNat (b.toNat * 2 ^ 7)
  | .cltn _ c a b => frameS 0x3b c.toNat a.toNat (b.toNat * 2 ^ 7)
  | .cle _ c a b => frameS 0x3c c.toNat a.toNat (b.toNat * 2 ^ 7)
  | .clen _ c a b => frameS 0x3d c.toNat a.toNat (b.toNat * 2 ^ 7)
  | .anyk _ c k l => frameS 0x40 c.toNat k.toNat l.code
  | .allk _ c k l => frameS 0x41 c.toNat k.toNat l.code
  | .csrr _ d n => frameS 0x48 d.toNat 0 n.toNat
  | .csrw _ n a => frameS 0x49 0 a.toNat n.toNat
  | .stg _ n a => frameS 0x50 n.toNat a.toNat 0
  | .stgi _ n i => frameS 0x51 n.toNat 0 i.toNat
  | .ldb z d x o => frameA 1 d.toNat x.toNat o.toNat 0 (bnat z)
  | .ldh z d x o => frameA 2 d.toNat x.toNat o.toNat 0 (bnat z)
  | .ldw z d x o => frameA 3 d.toNat x.toNat o.toNat 0 (bnat z)
  | .ldd d x o => frameA 4 d.toNat x.toNat o.toNat 0 0
  | .stb s x o => frameA 5 s.toNat x.toNat o.toNat 0 0
  | .sth s x o => frameA 6 s.toNat x.toNat o.toNat 0 0
  | .stw s x o => frameA 7 s.toNat x.toNat o.toNat 0 0
  | .std s x o => frameA 8 s.toNat x.toNat o.toNat 0 0
  | .ldv v x o k l => frameA 9 v.toNat x.toNat o.toNat k.toNat l.code
  | .stv v x o k l => frameA 10 v.toNat x.toNat o.toNat k.toNat l.code
  | .ldvs v x o st => frameA 11 v.toNat x.toNat o.toNat 0 st.toNat
  | .stvs v x o st => frameA 12 v.toNat x.toNat o.toNat 0 st.toNat
  | .ldk k x o => frameA 13 k.toNat x.toNat o.toNat 0 0
  | .stk k x o => frameA 14 k.toNat x.toNat o.toNat 0 0
  | .accrd v x o k => frameA 16 v.toNat x.toNat o.toNat k.toNat 0
  | .accwr v x o k => frameA 17 v.toNat x.toNat o.toNat k.toNat 0
  | .tld v x o => frameA 18 v.toNat x.toNat o.toNat 0 0
  | .tst v x o => frameA 19 v.toNat x.toNat o.toNat 0 0
  | .atom op w d x s c o =>
      frameA 20 (op.code * 2 ^ 6 + d.toNat) x.toNat (s.toNat * 2 ^ 14 + c.toNat * 2 ^ 8 + o.toNat) 0 (bnat w)
  | .vadd _ f d a b k => frameV 0x1 f.code d.toNat a.toNat b.toNat k.toNat 0
  | .vsub _ f d a b k => frameV 0x2 f.code d.toNat a.toNat b.toNat k.toNat 0
  | .vaddsat _ f d a b k => frameV 0x3 f.code d.toNat a.toNat b.toNat k.toNat 0
  | .vsubsat _ f d a b k => frameV 0x4 f.code d.toNat a.toNat b.toNat k.toNat 0
  | .vmul _ f d a b k => frameV 0x5 f.code d.toNat a.toNat b.toNat k.toNat 0
  | .vmac _ f d a b k => frameV 0x7 f.code d.toNat a.toNat b.toNat k.toNat 0
  | .vmin _ f d a b k => frameV 0xb f.code d.toNat a.toNat b.toNat k.toNat 0
  | .vmax _ f d a b k => frameV 0xc f.code d.toNat a.toNat b.toNat k.toNat 0
  | .vand _ f d a b k => frameV 0xd f.code d.toNat a.toNat b.toNat k.toNat 0
  | .vor _ f d a b k => frameV 0xe f.code d.toNat a.toNat b.toNat k.toNat 0
  | .vxor _ f d a b k => frameV 0xf f.code d.toNat a.toNat b.toNat k.toNat 0
  | .vshl _ f d a b k => frameV 0x11 f.code d.toNat a.toNat b.toNat k.toNat 0
  | .vshr _ f d a b k => frameV 0x12 f.code d.toNat a.toNat b.toNat k.toNat 0
  | .vsra _ f d a b k => frameV 0x13 f.code d.toNat a.toNat b.toNat k.toNat 0
  | .vsel _ f d a b k => frameV 0x15 f.code d.toNat a.toNat b.toNat k.toNat 0
  | .vperm _ f d a b k => frameV 0x21 f.code d.toNat a.toNat b.toNat k.toNat 0
  | .vzip _ f d a b k => frameV 0x23 f.code d.toNat a.toNat b.toNat k.toNat 0
  | .vfmin _ f d a b k => frameV 0x45 f.code d.toNat a.toNat b.toNat k.toNat 0
  | .vfmax _ f d a b k => frameV 0x46 f.code d.toNat a.toNat b.toNat k.toNat 0
  | .vmulw _ f w d a b k => frameV 6 f.code d.toNat a.toNat b.toNat k.toNat w.code
  | .vmacw _ f w d a b k => frameV 8 f.code d.toNat a.toNat b.toNat k.toNat w.code
  | .vabs _ f d a k => frameV 0x9 f.code d.toNat a.toNat 0 k.toNat 0
  | .vneg _ f d a k => frameV 0xa f.code d.toNat a.toNat 0 k.toNat 0
  | .vnot _ f d a k => frameV 0x10 f.code d.toNat a.toNat 0 k.toNat 0
  | .vredsum _ f d a k => frameV 0x16 f.code d.toNat a.toNat 0 k.toNat 0
  | .vredmax _ f d a k => frameV 0x17 f.code d.toNat a.toNat 0 k.toNat 0
  | .vredmin _ f d a k => frameV 0x18 f.code d.toNat a.toNat 0 k.toNat 0
  | .vunzip _ f d a k => frameV 0x24 f.code d.toNat a.toNat 0 k.toNat 0
  | .vunpack _ f d a k => frameV 0x26 f.code d.toNat a.toNat 0 k.toNat 0
  | .vfabs _ f d a k => frameV 0x47 f.code d.toNat a.toNat 0 k.toNat 0
  | .vfneg _ f d a k => frameV 0x48 f.code d.toNat a.toNat 0 k.toNat 0
  | .vcmp _ f cc kd a b k => frameV 0x14 f.code kd.toNat a.toNat b.toNat k.toNat cc.code
  | .vbcst _ f d a i k => frameV 0x20 f.code d.toNat a.toNat i.toNat k.toNat 0
  | .vrot _ f d a i k => frameV 0x22 f.code d.toNat a.toNat i.toNat k.toNat 0
  | .vpack _ f m d a k => frameV 0x25 f.code d.toNat a.toNat 0 k.toNat m.code
  | .vdpack _ f d a p => frameV 0x27 f.code d.toNat a.toNat p.toNat 0 0
  | .vtpack _ f d a => frameV 0x28 f.code d.toNat a.toNat 0 0 0
  | .vfadd _ f r d a b k => frameV 0x40 f.code d.toNat a.toNat b.toNat k.toNat r.code
  | .vfsub _ f r d a b k => frameV 0x41 f.code d.toNat a.toNat b.toNat k.toNat r.code
  | .vfmul _ f r d a b k => frameV 0x42 f.code d.toNat a.toNat b.toNat k.toNat r.code
  | .vfma _ f r d a b k => frameV 0x43 f.code d.toNat a.toNat b.toNat k.toNat r.code
  | .vfnma _ f r d a b k => frameV 0x44 f.code d.toNat a.toNat b.toNat k.toNat r.code
  | .vfcmp _ f cc kd a b k => frameV 0x49 f.code kd.toNat a.toNat b.toNat k.toNat cc.code
  | .vfredsum _ f r d a k => frameV 0x4a f.code d.toNat a.toNat (r.code * 16) k.toNat 0
  | .vcvt _ t f r d a k => frameV 0x4b f.code d.toNat a.toNat (r.code * 16 + t.code) k.toNat 0
  | .vbfix _ keep r d a k => frameV 0x4c 8 d.toNat a.toNat (r.code * 16 + bnat keep) k.toNat 0
  | .vbflt _ r d a k => frameV 0x4d 8 d.toNat a.toNat (r.code * 16) k.toNat 0
  | .vrcp _ r d a k => frameV 0x60 8 d.toNat a.toNat (r.code * 16) k.toNat 0
  | .vrsq _ r d a k => frameV 0x61 8 d.toNat a.toNat (r.code * 16) k.toNat 0
  | .vsqrt _ r d a k => frameV 0x62 8 d.toNat a.toNat (r.code * 16) k.toNat 0
  | .vexp2 _ r d a k => frameV 0x63 8 d.toNat a.toNat (r.code * 16) k.toNat 0
  | .vlog2 _ r d a k => frameV 0x64 8 d.toNat a.toNat (r.code * 16) k.toNat 0
  | .vtanh _ r d a k => frameV 0x65 8 d.toNat a.toNat (r.code * 16) k.toNat 0
  | .vsigm _ r d a k => frameV 0x66 8 d.toNat a.toNat (r.code * 16) k.toNat 0
  | .wmax _ f d a n k => frameV 0x70 f.code d.toNat a.toNat n.toNat k.toNat 0
  | .wmin _ f d a n k => frameV 0x71 f.code d.toNat a.toNat n.toNat k.toNat 0
  | .wmed _ f d a n k => frameV 0x73 f.code d.toNat a.toNat n.toNat k.toNat 0
  | .wsat _ f d a n k => frameV 0x74 f.code d.toNat a.toNat n.toNat k.toNat 0
  | .wclamp _ f d a b k => frameV 0x72 f.code d.toNat a.toNat b.toNat k.toNat 0
  | .adjb _ d a b xg k => frameV 0x75 (xg.toNat / 4) d.toNat a.toNat b.toNat k.toNat (xg.toNat % 4)
  | .mcall i => frameM 1 i.toNat 0 0
  | .mcallT i o => frameM 1 i.toNat 2 o.toNat
  | .mcfg w n s => frameM 2 (bnat s * 16 + bnat n * 4 + w.code) 0 0
  | .mloadCode => frameM 3 0 0 0
  | .mloadTable => frameM 3 1 0 0
  | .mhalt => frameM 4 0 0 0
  | .qld n x => frameH 1 x.toNat n.toNat
  | .qset n x => frameH 2 x.toNat n.toNat
  | .qclr n => frameH 3 0 n.toNat
  | .dcopy c t e => frameH 1 c.toNat (dgFlags t e 0)
  | .dcopy2 c t e => frameH 2 c.toNat (dgFlags t e 0)
  | .dgath c t e => frameH 3 c.toNat (dgFlags t e 0)
  | .dscat c t e => frameH 4 c.toNat (dgFlags t e 0)
  | .dfill c t e => frameH 5 c.toNat (dgFlags t e 0)
  | .datom c t e => frameH 6 c.toNat (dgFlags t e 0)
  | .dchase c t e => frameH 7 c.toNat (dgFlags t e 0)
  | .dmig c t e => frameH 8 c.toNat (dgFlags t e 0)
  | .adec c t e => frameH 1 c.toNat (dgFlags t e 0)
  | .aplan c t e => frameH 2 c.toNat (dgFlags t e 0)
  | .kvinv c t e => frameH 4 c.toNat (dgFlags t e 0)
  | .gsend c t e => frameH 6 c.toNat (dgFlags t e 0)
  | .grecv c t e => frameH 7 c.toNat (dgFlags t e 0)
  | .gred c t e => frameH 8 c.toNat (dgFlags t e 0)
  | .amerge n c t e => frameH 3 c.toNat (dgFlags t e (bnat n))
  | .kfork r c t e => frameH 5 c.toNat (dgFlags t e (bnat r))
  | .gtt c e => frameH 9 c.toNat (dgFlags false e 0)
  | .rent x => frameH 1 x.toNat 0
  | .prepay x => frameH 2 x.toNat 0
  | .renew x => frameH 3 x.toNat 0
  | .sublet x => frameH 4 x.toNat 0
  | .vacate x => frameH 5 x.toNat 0
  | .rentq x => frameH 6 x.toNat 0
  | .evpop x => frameH 9 x.toNat 0
  | .wake x => frameH 12 x.toNat 0
  | .jinit x => frameH 16 x.toNat 0
  | .jadd x => frameH 17 x.toNat 0
  | .jdone x => frameH 18 x.toNat 0
  | .jwait x => frameH 19 x.toNat 0
  | .launch x => frameH 20 x.toNat 0
  | .tbind x => frameH 24 x.toNat 0
  | .tsnap x => frameH 25 x.toNat 0
  | .troll x => frameH 26 x.toNat 0
  | .tfork x => frameH 27 x.toNat 0
  | .evwait => frameH 8 0 0
  | .fence s k => frameH 10 (s.code * 8 + k.code * 2) 0
  | .realign => frameH 11 0 0
  | .trap n => frameH 32 n.toNat 0
  | .eretRetry => frameH 33 0 0
  | .eretSkip => frameH 33 0 1
  | .halt => frameH 34 0 0
  | .microEnd p => frameU 0 p.code 0
  | .microLoop cp e par n => frameU 1 0 (bnat cp * 2 ^ 54 + e.toNat * 2 ^ 52 + par.toNat * 2 ^ 49 + n.toNat)
  | .endl => frameU 2 0 0
  | .ldst p st y s t i => frameU 3 p.code
      (stepBits st + y.toNat * 2 ^ 50 + s.toNat * 2 ^ 47 + t.toNat * 2 ^ 44 + i.toNat * 2 ^ 20)
  | .swap p => frameU 4 p.code 0
  | .strm p st m pa ar sa sw o => frameU 5 p.code
      (stepBits st + m.toNat * 2 ^ 36 + pa.toNat * 2 ^ 33 + ar.toNat * 2 ^ 23 + sa.toNat * 2 ^ 20 + sw.toNat * 2 ^ 17
        + o.toNat)
  | .wcfg p st s t i => frameU 6 p.code (stepBits st + s.toNat * 2 ^ 49 + t.toNat * 2 ^ 46 + i.toNat * 2 ^ 22)
  | .microZero p st pa ar sa n => frameU 7 p.code
      (stepBits st + pa.toNat * 2 ^ 49 + ar.toNat * 2 ^ 39 + sa.toNat * 2 ^ 36 + n.toNat * 2 ^ 21)
  | .drn p st pa ar sa pd sd n r c => frameU 8 p.code
      (stepBits st + pa.toNat * 2 ^ 49 + ar.toNat * 2 ^ 39 + sa.toNat * 2 ^ 36 + pd.toNat * 2 ^ 33 + sd.toNat * 2 ^ 30
        + n.toNat * 2 ^ 21 + r.toNat * 2 ^ 18 + c.toNat * 2 ^ 15)
  | .drnq p st pa ar sa pd sd n m s pz w => frameU 9 p.code
      (stepBits st + pa.toNat * 2 ^ 49 + ar.toNat * 2 ^ 39 + sa.toNat * 2 ^ 36 + pd.toNat * 2 ^ 33 + sd.toNat * 2 ^ 30
        + n.toNat * 2 ^ 21 + m.toNat * 2 ^ 18 + s.toNat * 2 ^ 15 + pz.toNat * 2 ^ 12 + bnat w * 2 ^ 11)
  | .drnx p st pa ar sa cv rt n c1 c2 pz w => frameU 10 p.code
      (stepBits st + pa.toNat * 2 ^ 49 + ar.toNat * 2 ^ 39 + sa.toNat * 2 ^ 36 + cv.toNat * 2 ^ 34 + rt.toNat * 2 ^ 32
        + n.toNat * 2 ^ 21 + c1.toNat * 2 ^ 18 + c2.toNat * 2 ^ 15 + pz.toNat * 2 ^ 12 + bnat w * 2 ^ 11)
  | .prot => frameU 11 0 0
  | .post p c => frameU 12 p.code c.toNat
  | _ => 0

/-! ### The decoder: fields, then the test that nothing else is set -/

/-- R243: keep an instruction that is well formed and encodes to the word itself. -/
def checked (w : Nat) : Option Instr → Option Instr
  | some i => if i.wf && encode i == w then some i else none
  | none => none

/-- R234: the fields of a B syllable. -/
def fieldsB (w : Nat) : Option Instr :=
  match natField w 27 5 with
  | 1 => some (.ptg (bitsAt w 25 2) (bitsAt w 0 25))
  | 2 => some (.br (bitsAt w 24 3) (bitsAt w 22 2))
  | 3 => some (.bra (bitsAt w 22 2))
  | 4 => some (.brx (bitsAt w 21 6))
  | 5 => some (.call (bitsAt w 21 6) (bitsAt w 19 2))
  | 6 => some (.ret (bitsAt w 21 6))
  | 7 => some (.loop (bitsAt w 25 2) (bitsAt w 19 6) (bitsAt w 0 19))
  | 8 => some (.loopi (bitsAt w 25 2) (bitsAt w 12 13) (bitsAt w 0 12))
  | _ => none

/-- R235: the fields of an S syllable. -/
def fieldsS (sl : SSlot) (w : Nat) : Option Instr :=
  let d : XNum := bitsAt w 19 6
  let a : XNum := bitsAt w 13 6
  let b : XNum := bitsAt w 7 6
  match natField w 25 7 with
  | 0x1 => some (.add sl d a b)
  | 0x2 => some (.sub sl d a b)
  | 0x3 => some (.and sl d a b)
  | 0x4 => some (.or sl d a b)
  | 0x5 => some (.xor sl d a b)
  | 0x6 => some (.shl sl d a b)
  | 0x7 => some (.shr sl d a b)
  | 0x8 => some (.sra sl d a b)
  | 0x9 => some (.min sl d a b)
  | 0xa => some (.max sl d a b)
  | 0xb => some (.minn sl d a b)
  | 0xc => some (.maxn sl d a b)
  | 0x18 => some (.mul sl d a b)
  | 0x19 => some (.mulh sl d a b)
  | 0x1a => some (.mulhn sl d a b)
  | 0x1c => some (.divs sl d a b)
  | 0x1d => some (.divn sl d a b)
  | 0x1e => some (.rems sl d a b)
  | 0x1f => some (.remn sl d a b)
  | 0xe => some (.sel sl d a b (bitsAt w 0 3))
  | 0xd => some (.mov sl d a)
  | 0xf => some (.clz sl d a)
  | 0x10 => some (.ctz sl d a)
  | 0x11 => some (.popc sl d a)
  | 0x21 => some (.addi sl d a (bitsAt w 0 13))
  | 0x23 => some (.andi sl d a (bitsAt w 0 13))
  | 0x24 => some (.ori sl d a (bitsAt w 0 13))
  | 0x25 => some (.xori sl d a (bitsAt w 0 13))
  | 0x26 => some (.shli sl d a (bitsAt w 0 6))
  | 0x27 => some (.shri sl d a (bitsAt w 0 6))
  | 0x28 => some (.srai sl d a (bitsAt w 0 6))
  | 0x30 => some (.li sl d (bitsAt w 0 19))
  | 0x31 => some (.lih sl d (bitsAt w 0 16) (bitsAt w 17 2))
  | 0x38 => some (.ceq sl (bitsAt w 19 3) a b)
  | 0x39 => some (.cne sl (bitsAt w 19 3) a b)
  | 0x3a => some (.clt sl (bitsAt w 19 3) a b)
  | 0x3b => some (.cltn sl (bitsAt w 19 3) a b)
  | 0x3c => some (.cle sl (bitsAt w 19 3) a b)
  | 0x3d => some (.clen sl (bitsAt w 19 3) a b)
  | 0x40 => (VoteLanes.ofCode (natField w 0 2)).map (.anyk sl (bitsAt w 19 3) (bitsAt w 13 4))
  | 0x41 => (VoteLanes.ofCode (natField w 0 2)).map (.allk sl (bitsAt w 19 3) (bitsAt w 13 4))
  | 0x48 => some (.csrr sl d (bitsAt w 0 12))
  | 0x49 => some (.csrw sl (bitsAt w 0 12) a)
  | 0x50 => some (.stg sl d a)
  | 0x51 => some (.stgi sl d (bitsAt w 0 19))
  | _ => none

/-- R236: the fields of an A syllable. -/
def fieldsA (w : Nat) : Option Instr :=
  let x : XNum := bitsAt w 32 6
  let v : VCode := bitsAt w 32 10
  let base : XNum := bitsAt w 26 6
  let off : BitVec 20 := bitsAt w 6 20
  let k : KNum := bitsAt w 2 4
  match natField w 42 6 with
  | 1 => some (.ldb (bitAt w 0) x base off)
  | 2 => some (.ldh (bitAt w 0) x base off)
  | 3 => some (.ldw (bitAt w 0) x base off)
  | 4 => some (.ldd x base off)
  | 5 => some (.stb x base off)
  | 6 => some (.sth x base off)
  | 7 => some (.stw x base off)
  | 8 => some (.std x base off)
  | 9 => (LaneW.ofCode (natField w 0 2)).map (.ldv v base off k)
  | 10 => (LaneW.ofCode (natField w 0 2)).map (.stv v base off k)
  | 11 => some (.ldvs v base off (bitsAt w 0 6))
  | 12 => some (.stvs v base off (bitsAt w 0 6))
  | 13 => some (.ldk (bitsAt w 32 4) base off)
  | 14 => some (.stk (bitsAt w 32 4) base off)
  | 16 => some (.accrd v base off k)
  | 17 => some (.accwr v base off k)
  | 18 => some (.tld v base off)
  | 19 => some (.tst v base off)
  | 20 => (AtomOp.ofCode (natField w 38 4)).map fun op =>
      .atom op (bitAt w 0) x base (bitsAt w 20 6) (bitsAt w 14 6) (bitsAt w 6 8)
  | _ => none

/-- R238: the fields of a vector syllable of format f. -/
def fieldsVFmt (sl : VSlot) (w : Nat) (f : Fmt) : Option Instr :=
  let d : VCode := bitsAt w 26 10
  let a : VCode := bitsAt w 16 10
  let b : VCode := bitsAt w 6 10
  let k : KNum := bitsAt w 2 4
  let m := natField w 0 2
  let r := RndU.ofCode (natField w 10 3)
  match natField w 40 8 with
  | 0x1 => some (.vadd sl f d a b k)
  | 0x2 => some (.vsub sl f d a b k)
  | 0x3 => some (.vaddsat sl f d a b k)
  | 0x4 => some (.vsubsat sl f d a b k)
  | 0x5 => some (.vmul sl f d a b k)
  | 0x7 => some (.vmac sl f d a b k)
  | 0xb => some (.vmin sl f d a b k)
  | 0xc => some (.vmax sl f d a b k)
  | 0xd => some (.vand sl f d a b k)
  | 0xe => some (.vor sl f d a b k)
  | 0xf => some (.vxor sl f d a b k)
  | 0x11 => some (.vshl sl f d a b k)
  | 0x12 => some (.vshr sl f d a b k)
  | 0x13 => some (.vsra sl f d a b k)
  | 0x15 => some (.vsel sl f d a b k)
  | 0x21 => some (.vperm sl f d a b k)
  | 0x23 => some (.vzip sl f d a b k)
  | 0x45 => some (.vfmin sl f d a b k)
  | 0x46 => some (.vfmax sl f d a b k)
  | 6 => (Widen.ofCode m).map fun x => .vmulw sl f x d a b k
  | 8 => (Widen.ofCode m).map fun x => .vmacw sl f x d a b k
  | 0x9 => some (.vabs sl f d a k)
  | 0xa => some (.vneg sl f d a k)
  | 0x10 => some (.vnot sl f d a k)
  | 0x16 => some (.vredsum sl f d a k)
  | 0x17 => some (.vredmax sl f d a k)
  | 0x18 => some (.vredmin sl f d a k)
  | 0x24 => some (.vunzip sl f d a k)
  | 0x26 => some (.vunpack sl f d a k)
  | 0x47 => some (.vfabs sl f d a k)
  | 0x48 => some (.vfneg sl f d a k)
  | 0x14 => (VCmpOp.ofCode m).map fun cc => .vcmp sl f cc (bitsAt w 26 4) a b k
  | 0x20 => some (.vbcst sl f d a b k)
  | 0x22 => some (.vrot sl f d a b k)
  | 0x25 => (PackMod.ofCode m).map fun x => .vpack sl f x d a k
  | 0x27 => some (.vdpack sl f d a b)
  | 0x28 => some (.vtpack sl f d a)
  | 0x40 => (RndB.ofCode m).map fun x => .vfadd sl f x d a b k
  | 0x41 => (RndB.ofCode m).map fun x => .vfsub sl f x d a b k
  | 0x42 => (RndB.ofCode m).map fun x => .vfmul sl f x d a b k
  | 0x43 => (RndB.ofCode m).map fun x => .vfma sl f x d a b k
  | 0x44 => (RndB.ofCode m).map fun x => .vfnma sl f x d a b k
  | 0x49 => (VFCmpOp.ofCode m).map fun cc => .vfcmp sl f cc (bitsAt w 26 4) a b k
  | 0x4a => r.map fun x => .vfredsum sl f x d a k
  | 0x4b => r.bind fun x => (Fmt.ofCode (natField w 6 4)).map fun t => .vcvt sl t f x d a k
  | 0x4c => r.map fun x => .vbfix sl (bitAt w 6) x d a k
  | 0x4d => r.map fun x => .vbflt sl x d a k
  | 0x60 => r.map fun x => .vrcp sl x d a k
  | 0x61 => r.map fun x => .vrsq sl x d a k
  | 0x62 => r.map fun x => .vsqrt sl x d a k
  | 0x63 => r.map fun x => .vexp2 sl x d a k
  | 0x64 => r.map fun x => .vlog2 sl x d a k
  | 0x65 => r.map fun x => .vtanh sl x d a k
  | 0x66 => r.map fun x => .vsigm sl x d a k
  | 0x70 => some (.wmax sl f d a (bitsAt w 6 7) k)
  | 0x71 => some (.wmin sl f d a (bitsAt w 6 7) k)
  | 0x73 => some (.wmed sl f d a (bitsAt w 6 7) k)
  | 0x74 => some (.wsat sl f d a (bitsAt w 6 7) k)
  | 0x72 => some (.wclamp sl f d a b k)
  | _ => none

/-- R237, R313: the fields of a vector syllable; `adjb` holds part of xg in the format field. -/
def fieldsV (sl : VSlot) (w : Nat) : Option Instr :=
  if natField w 40 8 = 0x75 then
    some (.adjb sl (bitsAt w 26 10) (bitsAt w 16 10) (bitsAt w 6 10)
      (BitVec.ofNat 6 (natField w 36 4 * 4 + natField w 0 2)) (bitsAt w 2 4))
  else (Fmt.ofCode (natField w 36 4)).bind (fieldsVFmt sl w)

/-- R239: the fields of an M syllable. -/
def fieldsM (w : Nat) : Option Instr :=
  match natField w 28 4 with
  | 1 => if bitAt w 17 then some (.mcallT (bitsAt w 18 10) (bitsAt w 0 16)) else some (.mcall (bitsAt w 18 10))
  | 2 => (McfgW.ofCode (bnat (bitAt w 21) * 8 + natField w 18 2)).map fun x => .mcfg x (bitAt w 20) (bitAt w 22)
  | 3 => some (if bitAt w 18 then .mloadTable else .mloadCode)
  | 4 => some .mhalt
  | _ => none

/-- R240: the fields of a Q syllable. -/
def fieldsQ (w : Nat) : Option Instr :=
  match natField w 10 6 with
  | 1 => some (.qld (bitsAt w 0 3) (bitsAt w 4 6))
  | 2 => some (.qset (bitsAt w 0 3) (bitsAt w 4 6))
  | 3 => some (.qclr (bitsAt w 0 3))
  | _ => none

/-- R241: the fields of a D syllable. -/
def fieldsD (w : Nat) : Option Instr :=
  let c : XNum := bitsAt w 4 6
  let t := bitAt w 3
  let e := bitAt w 2
  match natField w 10 6 with
  | 1 => some (.dcopy c t e)
  | 2 => some (.dcopy2 c t e)
  | 3 => some (.dgath c t e)
  | 4 => some (.dscat c t e)
  | 5 => some (.dfill c t e)
  | 6 => some (.datom c t e)
  | 7 => some (.dchase c t e)
  | 8 => some (.dmig c t e)
  | _ => none

/-- R241: the fields of a G syllable. -/
def fieldsG (w : Nat) : Option Instr :=
  let c : XNum := bitsAt w 4 6
  let t := bitAt w 3
  let e := bitAt w 2
  match natField w 10 6 with
  | 1 => some (.adec c t e)
  | 2 => some (.aplan c t e)
  | 4 => some (.kvinv c t e)
  | 6 => some (.gsend c t e)
  | 7 => some (.grecv c t e)
  | 8 => some (.gred c t e)
  | 3 => some (.amerge (bitAt w 0) c t e)
  | 5 => some (.kfork (bitAt w 0) c t e)
  | 9 => some (.gtt c e)
  | _ => none

/-- R242: the fields of a Y syllable. -/
def fieldsY (w : Nat) : Option Instr :=
  let x : XNum := bitsAt w 4 6
  match natField w 10 6 with
  | 1 => some (.rent x)
  | 2 => some (.prepay x)
  | 3 => some (.renew x)
  | 4 => some (.sublet x)
  | 5 => some (.vacate x)
  | 6 => some (.rentq x)
  | 9 => some (.evpop x)
  | 12 => some (.wake x)
  | 16 => some (.jinit x)
  | 17 => some (.jadd x)
  | 18 => some (.jdone x)
  | 19 => some (.jwait x)
  | 20 => some (.launch x)
  | 24 => some (.tbind x)
  | 25 => some (.tsnap x)
  | 26 => some (.troll x)
  | 27 => some (.tfork x)
  | 8 => some .evwait
  | 10 => (FenceScope.ofCode (natField w 7 3)).bind fun s => (FenceKind.ofCode (natField w 5 2)).map fun k => .fence s k
  | 11 => some .realign
  | 32 => some (.trap x)
  | 33 => some (if bitAt w 0 then .eretSkip else .eretRetry)
  | 34 => some .halt
  | _ => none

/-- R322 to R327: the fields of a micro-op. -/
def fieldsU (w : Nat) : Option Instr :=
  let st : Step := { level := bitsAt w 53 2, on := bitAt w 52 }
  let p := MPred.ofCode (natField w 55 3)
  match natField w 58 6 with
  | 0 => p.map .microEnd
  | 1 => some (.microLoop (bitAt w 54) (bitsAt w 52 2) (bitsAt w 49 3) (bitsAt w 0 16))
  | 2 => some .endl
  | 3 => p.map fun p => .ldst p st (bitsAt w 50 2) (bitsAt w 47 3) (bitsAt w 44 3) (bitsAt w 20 24)
  | 4 => p.map .swap
  | 5 => p.map fun p => .strm p st (bitsAt w 36 16) (bitsAt w 33 3) (bitsAt w 23 10) (bitsAt w 20 3) (bitsAt w 17 3)
      (bitsAt w 0 17)
  | 6 => p.map fun p => .wcfg p st (bitsAt w 49 3) (bitsAt w 46 3) (bitsAt w 22 24)
  | 7 => p.map fun p => .microZero p st (bitsAt w 49 3) (bitsAt w 39 10) (bitsAt w 36 3) (bitsAt w 21 10)
  | 8 => p.map fun p => .drn p st (bitsAt w 49 3) (bitsAt w 39 10) (bitsAt w 36 3) (bitsAt w 33 3) (bitsAt w 30 3)
      (bitsAt w 21 9) (bitsAt w 18 3) (bitsAt w 15 3)
  | 9 => p.map fun p => .drnq p st (bitsAt w 49 3) (bitsAt w 39 10) (bitsAt w 36 3) (bitsAt w 33 3) (bitsAt w 30 3)
      (bitsAt w 21 9) (bitsAt w 18 3) (bitsAt w 15 3) (bitsAt w 12 3) (bitAt w 11)
  | 10 => p.map fun p => .drnx p st (bitsAt w 49 3) (bitsAt w 39 10) (bitsAt w 36 3) (bitsAt w 34 2) (bitsAt w 32 2)
      (bitsAt w 21 9) (bitsAt w 18 3) (bitsAt w 15 3) (bitsAt w 12 3) (bitAt w 11)
  | 11 => some .prot
  | 12 => p.map fun p => .post p (bitsAt w 0 16)
  | _ => none

/-- The fields of a syllable of the given slot. -/
def fieldsSlot : Slot → Nat → Option Instr
  | .B => fieldsB
  | .S0 => fieldsS .s0
  | .S1 => fieldsS .s1
  | .A => fieldsA
  | .V0 => fieldsV .v0
  | .V1 => fieldsV .v1
  | .V2 => fieldsV .v2
  | .M => fieldsM
  | .Q => fieldsQ
  | .D => fieldsD
  | .G => fieldsG
  | .Y => fieldsY

/-- R244: the instruction of a syllable that is not all zero; none where it raises cause 0x02. -/
def decodeSlot (sl : Slot) (w : Nat) : Option Instr := checked w (fieldsSlot sl w)

/-- R319: the instruction of a micro-op; none where its encoding ends the routine. -/
def decodeMicro (w : Nat) : Option Instr := checked w (fieldsU w)

/-- The slot in which an instruction stands: none for a micro-op and for a step without encoding. -/
def Instr.slot : Instr → Option Slot
  | .ptg _ _ => some .B
  | .br _ _ => some .B
  | .bra _ => some .B
  | .brx _ => some .B
  | .call _ _ => some .B
  | .ret _ => some .B
  | .loop _ _ _ => some .B
  | .loopi _ _ _ => some .B
  | .add sl _ _ _ => some sl.slot
  | .sub sl _ _ _ => some sl.slot
  | .and sl _ _ _ => some sl.slot
  | .or sl _ _ _ => some sl.slot
  | .xor sl _ _ _ => some sl.slot
  | .shl sl _ _ _ => some sl.slot
  | .shr sl _ _ _ => some sl.slot
  | .sra sl _ _ _ => some sl.slot
  | .min sl _ _ _ => some sl.slot
  | .max sl _ _ _ => some sl.slot
  | .minn sl _ _ _ => some sl.slot
  | .maxn sl _ _ _ => some sl.slot
  | .mov sl _ _ => some sl.slot
  | .sel sl _ _ _ _ => some sl.slot
  | .clz sl _ _ => some sl.slot
  | .ctz sl _ _ => some sl.slot
  | .popc sl _ _ => some sl.slot
  | .mul sl _ _ _ => some sl.slot
  | .mulh sl _ _ _ => some sl.slot
  | .mulhn sl _ _ _ => some sl.slot
  | .divs sl _ _ _ => some sl.slot
  | .divn sl _ _ _ => some sl.slot
  | .rems sl _ _ _ => some sl.slot
  | .remn sl _ _ _ => some sl.slot
  | .addi sl _ _ _ => some sl.slot
  | .andi sl _ _ _ => some sl.slot
  | .ori sl _ _ _ => some sl.slot
  | .xori sl _ _ _ => some sl.slot
  | .shli sl _ _ _ => some sl.slot
  | .shri sl _ _ _ => some sl.slot
  | .srai sl _ _ _ => some sl.slot
  | .li sl _ _ => some sl.slot
  | .lih sl _ _ _ => some sl.slot
  | .ceq sl _ _ _ => some sl.slot
  | .cne sl _ _ _ => some sl.slot
  | .clt sl _ _ _ => some sl.slot
  | .cltn sl _ _ _ => some sl.slot
  | .cle sl _ _ _ => some sl.slot
  | .clen sl _ _ _ => some sl.slot
  | .anyk sl _ _ _ => some sl.slot
  | .allk sl _ _ _ => some sl.slot
  | .csrr sl _ _ => some sl.slot
  | .csrw sl _ _ => some sl.slot
  | .stg sl _ _ => some sl.slot
  | .stgi sl _ _ => some sl.slot
  | .ldb _ _ _ _ => some .A
  | .ldh _ _ _ _ => some .A
  | .ldw _ _ _ _ => some .A
  | .ldd _ _ _ => some .A
  | .stb _ _ _ => some .A
  | .sth _ _ _ => some .A
  | .stw _ _ _ => some .A
  | .std _ _ _ => some .A
  | .ldv _ _ _ _ _ => some .A
  | .stv _ _ _ _ _ => some .A
  | .ldvs _ _ _ _ => some .A
  | .stvs _ _ _ _ => some .A
  | .ldk _ _ _ => some .A
  | .stk _ _ _ => some .A
  | .accrd _ _ _ _ => some .A
  | .accwr _ _ _ _ => some .A
  | .tld _ _ _ => some .A
  | .tst _ _ _ => some .A
  | .atom _ _ _ _ _ _ _ => some .A
  | .vadd sl _ _ _ _ _ => some sl.slot
  | .vsub sl _ _ _ _ _ => some sl.slot
  | .vaddsat sl _ _ _ _ _ => some sl.slot
  | .vsubsat sl _ _ _ _ _ => some sl.slot
  | .vmul sl _ _ _ _ _ => some sl.slot
  | .vmulw sl _ _ _ _ _ _ => some sl.slot
  | .vmac sl _ _ _ _ _ => some sl.slot
  | .vmacw sl _ _ _ _ _ _ => some sl.slot
  | .vabs sl _ _ _ _ => some sl.slot
  | .vneg sl _ _ _ _ => some sl.slot
  | .vmin sl _ _ _ _ _ => some sl.slot
  | .vmax sl _ _ _ _ _ => some sl.slot
  | .vand sl _ _ _ _ _ => some sl.slot
  | .vor sl _ _ _ _ _ => some sl.slot
  | .vxor sl _ _ _ _ _ => some sl.slot
  | .vnot sl _ _ _ _ => some sl.slot
  | .vshl sl _ _ _ _ _ => some sl.slot
  | .vshr sl _ _ _ _ _ => some sl.slot
  | .vsra sl _ _ _ _ _ => some sl.slot
  | .vcmp sl _ _ _ _ _ _ => some sl.slot
  | .vsel sl _ _ _ _ _ => some sl.slot
  | .vredsum sl _ _ _ _ => some sl.slot
  | .vredmax sl _ _ _ _ => some sl.slot
  | .vredmin sl _ _ _ _ => some sl.slot
  | .vbcst sl _ _ _ _ _ => some sl.slot
  | .vperm sl _ _ _ _ _ => some sl.slot
  | .vrot sl _ _ _ _ _ => some sl.slot
  | .vzip sl _ _ _ _ _ => some sl.slot
  | .vunzip sl _ _ _ _ => some sl.slot
  | .vpack sl _ _ _ _ _ => some sl.slot
  | .vunpack sl _ _ _ _ => some sl.slot
  | .vdpack sl _ _ _ _ => some sl.slot
  | .vtpack sl _ _ _ => some sl.slot
  | .vfadd sl _ _ _ _ _ _ => some sl.slot
  | .vfsub sl _ _ _ _ _ _ => some sl.slot
  | .vfmul sl _ _ _ _ _ _ => some sl.slot
  | .vfma sl _ _ _ _ _ _ => some sl.slot
  | .vfnma sl _ _ _ _ _ _ => some sl.slot
  | .vfmin sl _ _ _ _ _ => some sl.slot
  | .vfmax sl _ _ _ _ _ => some sl.slot
  | .vfabs sl _ _ _ _ => some sl.slot
  | .vfneg sl _ _ _ _ => some sl.slot
  | .vfcmp sl _ _ _ _ _ _ => some sl.slot
  | .vfredsum sl _ _ _ _ _ => some sl.slot
  | .vcvt sl _ _ _ _ _ _ => some sl.slot
  | .vbfix sl _ _ _ _ _ => some sl.slot
  | .vbflt sl _ _ _ _ => some sl.slot
  | .vrcp sl _ _ _ _ => some sl.slot
  | .vrsq sl _ _ _ _ => some sl.slot
  | .vsqrt sl _ _ _ _ => some sl.slot
  | .vexp2 sl _ _ _ _ => some sl.slot
  | .vlog2 sl _ _ _ _ => some sl.slot
  | .vtanh sl _ _ _ _ => some sl.slot
  | .vsigm sl _ _ _ _ => some sl.slot
  | .wmax sl _ _ _ _ _ => some sl.slot
  | .wmin sl _ _ _ _ _ => some sl.slot
  | .wclamp sl _ _ _ _ _ => some sl.slot
  | .wmed sl _ _ _ _ _ => some sl.slot
  | .wsat sl _ _ _ _ _ => some sl.slot
  | .adjb sl _ _ _ _ _ => some sl.slot
  | .mcall _ => some .M
  | .mcallT _ _ => some .M
  | .mcfg _ _ _ => some .M
  | .mloadCode => some .M
  | .mloadTable => some .M
  | .mhalt => some .M
  | .qld _ _ => some .Q
  | .qset _ _ => some .Q
  | .qclr _ => some .Q
  | .dcopy _ _ _ => some .D
  | .dcopy2 _ _ _ => some .D
  | .dgath _ _ _ => some .D
  | .dscat _ _ _ => some .D
  | .dfill _ _ _ => some .D
  | .datom _ _ _ => some .D
  | .dchase _ _ _ => some .D
  | .dmig _ _ _ => some .D
  | .adec _ _ _ => some .G
  | .aplan _ _ _ => some .G
  | .amerge _ _ _ _ => some .G
  | .kvinv _ _ _ => some .G
  | .kfork _ _ _ _ => some .G
  | .gsend _ _ _ => some .G
  | .grecv _ _ _ => some .G
  | .gred _ _ _ => some .G
  | .gtt _ _ => some .G
  | .rent _ => some .Y
  | .prepay _ => some .Y
  | .renew _ => some .Y
  | .sublet _ => some .Y
  | .vacate _ => some .Y
  | .rentq _ => some .Y
  | .evwait => some .Y
  | .evpop _ => some .Y
  | .fence _ _ => some .Y
  | .realign => some .Y
  | .wake _ => some .Y
  | .jinit _ => some .Y
  | .jadd _ => some .Y
  | .jdone _ => some .Y
  | .jwait _ => some .Y
  | .launch _ => some .Y
  | .tbind _ => some .Y
  | .tsnap _ => some .Y
  | .troll _ => some .Y
  | .tfork _ => some .Y
  | .trap _ => some .Y
  | .eretRetry => some .Y
  | .eretSkip => some .Y
  | .halt => some .Y
  | _ => none

/-! ### Opcode-table words -/

/-- The first of two decodings that is there. -/
def orElseInstr (a b : Option Instr) : Option Instr :=
  match a with
  | some i => some i
  | none => b

/-- The instruction read from a table word of nbits bits, bit 0 the least significant bit of the syllable as R234 to
R242 number it. The table does not name the slot, and one word can stand in several (log 14): a 32-bit word is read as
S0, then B, then M; a 16-bit word as Y, then D, then G, then Q; a 48-bit word as A, then V0, then V2; a 64-bit word as
a micro-op. -/
def decodeTableWord (nbits w : Nat) : Option Instr :=
  if nbits = 32 then orElseInstr (decodeSlot .S0 w) (orElseInstr (decodeSlot .B w) (decodeSlot .M w))
  else if nbits = 16 then
    orElseInstr (decodeSlot .Y w) (orElseInstr (decodeSlot .D w) (orElseInstr (decodeSlot .G w) (decodeSlot .Q w)))
  else if nbits = 48 then orElseInstr (decodeSlot .A w) (orElseInstr (decodeSlot .V0 w) (decodeSlot .V2 w))
  else if nbits = 64 then decodeMicro w
  else none

end Sys2Proof
end

