-- ==== Sys2Proof/Machine/Lanes.lean ====
section
/-!
DEFINITION. Sys2Proof/Machine/Lanes.lean: the lanes of a vector register (R91, R93), bytes of a register, and the
results of a vector operation: a value that is zero in inactive lanes (the port's, R125) and a mask of the bits that
the destination register takes (R287).
-/
namespace Sys2Proof.Machine

/-- n values of w bits packed from the low end. -/
def packLanes (w : Nat) (f : Nat → Nat) : Nat → Nat
  | 0 => 0
  | n + 1 => packLanes w f n + f n % 2 ^ w * 2 ^ (w * n)

/-- Lane i of width w of a register held as a natural. -/
def laneAt (r w i : Nat) : Nat := r / 2 ^ (w * i) % 2 ^ w

/-- Lane i of width w of a vector register. -/
def lane (r : VReg) (w i : Nat) : Nat := laneAt r.toNat w i

/-- A vector register from n lanes of width w; the bytes above are zero. -/
def ofLanes (w n : Nat) (f : Nat → Nat) : VReg := BitVec.ofNat 4096 (packLanes w f n)

/-- Byte i of a register. -/
def vbyte (r : VReg) (i : Nat) : Byte := BitVec.ofNat 8 (lane r 8 i)

/-- The 512 bytes of a register. -/
def vbytes (r : VReg) : List Byte := (List.range 512).map (vbyte r)

/-- The natural whose little-endian bytes are given (R1). -/
def bytesToNat : List Byte → Nat
  | [] => 0
  | b :: bs => b.toNat + 256 * bytesToNat bs

/-- The n low bytes of a natural, little-endian (R1). -/
def natToBytes : Nat → Nat → List Byte
  | 0, _ => []
  | n + 1, v => BitVec.ofNat 8 v :: natToBytes n (v / 256)

/-- A register from its bytes. -/
def vregOfBytes (bs : List Byte) : VReg := BitVec.ofNat 4096 (bytesToNat bs)

/-- val(x) of R287: a lane read with the signedness of its format. -/
def laneVal (f : Fmt) (x : Nat) : Int := if f.signed then signExt x f.width else (x % 2 ^ f.width : Nat)

/-- The predicate bit of lane i. -/
def kbit (k : KReg) (i : Nat) : Bool := k.getLsbD i

/-- R287: the mask that lanes of width w under predicate k give, over n lanes. -/
def laneMask (w n : Nat) (k : KReg) : VReg := ofLanes w n fun i => if kbit k i then 2 ^ w - 1 else 0

/-- Every bit of a register. -/
def fullMask : VReg := BitVec.allOnes 4096

/-- One register that a vector operation writes: the offset from d, the bits taken, the value (zero where not taken). -/
structure VOut where
  reg  : Nat
  mask : VReg
  val  : VReg
  deriving DecidableEq, Repr

/-- What a vector operation gives: its registers, the first being the port's (R124), and the flags it raises (R98). -/
structure VRes where
  outs  : List VOut
  flags : Nat
  deriving DecidableEq, Repr

/-- R287: an operation on L lanes of width w under predicate k, writing one register. -/
def laneRes (w n : Nat) (k : KReg) (f : Nat → Nat) : VRes :=
  { outs := [{ reg := 0, mask := laneMask w n k, val := ofLanes w n fun i => if kbit k i then f i else 0 }], flags := 0 }

/-- A register written whole. -/
def wholeRes (v : VReg) : VRes := { outs := [{ reg := 0, mask := fullMask, val := v }], flags := 0 }

/-- R291: n source lanes spread over r registers, lane i going to lane i div r of register i mod r, each w bits wide. -/
def spreadRes (w n r : Nat) (k : KReg) (f : Nat → Nat) : VRes :=
  { outs := (List.range r).map fun j =>
      { reg := j
        mask := ofLanes w (n / r) fun i => if kbit k (i * r + j) then 2 ^ w - 1 else 0
        val := ofLanes w (n / r) fun i => if kbit k (i * r + j) then f (i * r + j) else 0 }
    flags := 0 }

/-- A register after a masked write (R287: lanes that are not taken keep their value). -/
def mergeMask (old mask val : VReg) : VReg := (old &&& ~~~mask) ||| (val &&& mask)

end Sys2Proof.Machine
end

