-- ==== Sys2Proof/Machine/FMap.lean ====
section
/-!
DEFINITION. Sys2Proof/Machine/FMap.lean: maps from a number to a value, and memory, as plain lists in one canonical
form: keys strictly rising, and no entry equal to what an unlisted key reads as.
-/
namespace Sys2Proof.Machine

/-- A map from numbers; a key that is not listed has a default that its reader names. -/
abbrev FMap (α : Type) := List (Nat × α)

namespace FMap

/-- The value of a key. -/
def get {α : Type} (d : α) : FMap α → Nat → α
  | [], _ => d
  | (k, v) :: m, n => if k = n then v else get d m n

/-- An entry put in its place. -/
def put {α : Type} : FMap α → Nat → α → FMap α
  | [], n, v => [(n, v)]
  | (k, x) :: m, n, v =>
    if n < k then (n, v) :: (k, x) :: m else if n = k then (n, v) :: m else (k, x) :: put m n v

/-- The map with key n changed to v: in order, and without an entry where v is the default. -/
def set {α : Type} [DecidableEq α] (d : α) (m : FMap α) (n : Nat) (v : α) : FMap α :=
  if v = d then m.filter fun e => e.1 != n else put m n v

/-- The keys listed. -/
def keys {α : Type} (m : FMap α) : List Nat := m.map Prod.fst

/-- The canonical form. -/
def wf {α : Type} [DecidableEq α] (d : α) : FMap α → Bool
  | [] => true
  | [(_, v)] => v != d
  | (k, v) :: (k', v') :: m => k < k' && v != d && wf d ((k', v') :: m)

end FMap

/-- Memory: bytes by physical address. -/
abbrev Memory := List Host.Cell

/-- What an unlisted address reads as: 0 (the spec gives the contents of storage after power-on nowhere; log 4). -/
def blankByte : Byte := 0

namespace Memory

/-- One byte. -/
def read (m : Memory) (a : Nat) : Byte := FMap.get blankByte m a

/-- One byte written. -/
def write (m : Memory) (a : Nat) (b : Byte) : Memory := FMap.set blankByte m a b

/-- The canonical form of memory. -/
def wf (m : Memory) : Bool := FMap.wf blankByte m

/-- n bytes from an address up. -/
def readN (m : Memory) (a n : Nat) : List Byte := (List.range n).map fun i => m.read (a + i)

/-- Bytes written from an address up. -/
def writeN (m : Memory) : Nat → List Byte → Memory
  | _, [] => m
  | a, b :: bs => writeN (m.write a b) (a + 1) bs

/-- Listed bytes written in order, the later prevailing. -/
def writeCells (m : Memory) (cs : List Host.Cell) : Memory := cs.foldl (fun m c => m.write c.1 c.2) m

/-- The cells of bytes from an address up. -/
def cells : Nat → List Byte → List Host.Cell
  | _, [] => []
  | a, b :: bs => (a, b) :: cells (a + 1) bs

/-- Bytes put from an address up, in one piece: what stood there goes. -/
def fill (m : Memory) (a : Nat) (bs : List Byte) : Memory :=
  (m.filter fun c => c.1 < a) ++ ((cells a bs).filter fun c => c.2 != blankByte) ++ m.filter fun c => a + bs.length ≤ c.1

/-- Every listed byte from a to a + n - 1 set to zero. -/
def clear (m : Memory) (a n : Nat) : Memory := m.filter fun c => c.1 < a || a + n ≤ c.1

end Memory

end Sys2Proof.Machine
end

