-- ==== Sys2Proof/Machine/State.lean ====
section
/-!
DEFINITION. Sys2Proof/Machine/State.lean: everything the spec gives the machine, as plain data, and the package right
after reset. INVENTORY.md lists each field with its rule, width and reset value.
-/
namespace Sys2Proof.Machine

/-! ### Stalls (R45) -/

/-- R46: the state of a descriptor that is in use; a free entry is a stall with id 0. -/
inductive StallSt where | active | overstay | lapsed
  deriving DecidableEq, Repr

/-- A stall descriptor (R45). A free entry is all zero. Three fields are the model's own: `phys`, the physical address of its
first byte; `born`, a name of this stall among all that ever had its id; `split`, the granules that a root stall took from the
pools of the four dies (log 5). -/
structure Stall where
  base     : Nat := 0
  len      : Nat := 0
  paid     : Nat := 0
  fmap     : Nat := 0
  parent   : Nat := 0
  rate     : Nat := 0
  liens    : Nat := 0
  acct     : Nat := 0
  children : Nat := 0
  st       : StallSt := .active
  sync     : Bool := false
  shared   : Bool := false
  tolerant : Bool := false
  level    : Nat := 0
  core     : Nat := 0
  vac      : Bool := false
  id       : Nat := 0
  phys     : Nat := 0
  born     : Nat := 0
  split    : List Nat := []
  deriving DecidableEq, Repr

/-- R378: a reservation of a device on a paddock; `pending` is a write that takes effect at the next boundary. -/
structure Resv where
  budget   : Nat := 0
  period   : Nat := 0
  left     : Int := 0
  deadline : Nat := 0
  pending  : Option (Nat × Nat) := none
  deriving DecidableEq, Repr

/-- An event ring held outside the package (R404): its stall address and pointers. -/
structure Ring where
  addr : Word := 0
  head : Nat := 0
  tail : Nat := 0
  lost : Nat := 0
  deriving DecidableEq, Repr

/-- A virtual device (R400, R403). `ptinv` lists the invalidations not yet complete: the value written, and the commands that had
translated before (R27). -/
structure Device where
  en        : Bool := false
  fabdom    : Nat := 0
  grace     : Nat := 16
  ptbase    : Word := 0
  dtbase    : Word := 0
  ptinv     : List (Word × List Nat) := []
  topacct   : Nat := 0
  rates     : FMap Nat := [(0, 96), (1, 32), (2, 32), (3, 4), (4, 2), (5, 1)]
  accts     : FMap Int := []
  hbmshare  : Nat := 0
  mitcnt    : Nat := 0
  pmallow   : FMap Word := []
  drvq      : Ring := {}
  subring   : Word := 0
  subHead   : Nat := 0
  subSize   : Nat := 0
  wakeTail  : Nat := 0
  grpbase   : Word := 0
  resv      : FMap Resv := []
  resvPad   : Nat := 0
  refused   : Bool := false
  wakeAgain : Bool := false
  tokens    : Nat := 8
  burst     : Nat := 8
  rate      : Nat := 1
  dhimg     : Word := 0
  runtime   : Nat := 0
  stalls    : FMap Stall := []
  halted    : Bool := false
  deriving DecidableEq, Repr

/-! ### Registers and pending writes (R117, R133) -/

/-- What a pending write lands on. -/
inductive Tgt where
  | x (n : Nat) | v (n : Nat) | k (n : Nat) | c (n : Nat) | t (n : Nat)
  | lcnt (n : Nat) | lbeg (n : Nat) | lend (n : Nat) | ds (n : Nat) | gs (n : Nat)
  | pS0 | pS1 | pA | pV0 | pV1 | pV2
  | csr (n : Nat) | flags | denied | sc (n : Nat)
  deriving DecidableEq, Repr

/-- A pending write: it lands at the context's bundle `land`; `slot` and `seq` decide between writes of one bundle
(R135); `mask` gives the bits taken. -/
structure Pend where
  land : Nat
  slot : Nat
  seq  : Nat
  tgt  : Tgt
  mask : Nat
  val  : Nat
  deriving DecidableEq, Repr

/-- A pending transfer (R247): the bundle at which it takes effect and its target. -/
structure Xfr where
  at_    : Nat
  target : Word
  deriving DecidableEq, Repr

/-- A bank of trap registers (R389). -/
structure TrapBank where
  pc    : Word := 0
  mask  : Word := 0
  cause : Word := 0
  addr  : Word := 0
  xa    : Word := 0
  xb    : Word := 0
  deriving DecidableEq, Repr

/-- A pending asynchronous cause (R388): cycle of posting, code and TRAPADDR. -/
structure Async where
  cycle : Nat
  code  : Nat
  addr  : Word
  deriving DecidableEq, Repr

/-- What a context does. `ended` is the leaf after its `halt`; `stopHyp` after a cause toward that ring (R386),
`resuming` from then on until the boundary at which it goes on (R405);
`saved` while its launch is pre-empted (R392). -/
inductive RunSt where | idle | ready | stopHyp | resuming | saved | ended
  deriving DecidableEq, Repr

/-- Rings that run on a core (R384). -/
inductive CRing where | user | driver
  deriving DecidableEq, Repr

/-- Why a bundle holds (R17, R276, R277, R279, R285). -/
inductive HoldWhy where | queue | event | job | realign | commit
  deriving DecidableEq, Repr

/-- A present hold: why, the cycle in which the bundle first came up to issue, and whether its condition has gone while the
context waits for the issue path (R17). -/
structure Hold where
  why   : HoldWhy
  since : Nat
  freed : Bool := false
  deriving DecidableEq, Repr

/-- A trap fixed and not yet entered (R138, R390). -/
structure TrapReq where
  code  : Nat
  addr  : Word
  mask  : Nat
  async : Bool
  deriving DecidableEq, Repr

/-- A completion record of 32 bytes (R76), as the natural of its 256 bits. -/
abbrev Record := Nat

/-- A store that waits for the tick boundary (R85): its place in issue order and its bytes by physical address. -/
abbrev Buffered := Nat × List Host.Cell

/-- A context (R12, R117). `dleft` and `gleft` are one more than the cycle in which the head of a queue last left it (R69), `wstat0`
and `pmcnt0` what a `csrr` of the present cycle reads, `wrote` the registers of the package and the device that the context's own writes
have changed in it, as it reads them (R260). `returned` marks that the next bundle is the first after a return or a resume (R127), `redirected` that
its present bundle has set the pc itself (R284), `sdue` holds the buffered stores that commit at the present boundary (R85). -/
structure Ctx where
  run     : RunSt := .idle
  ring    : CRing := .user
  launch  : Nat := 0
  dev     : Nat := 0
  acct    : Nat := 0
  elastic : Bool := false
  pc      : Word := 0
  x       : FMap Word := []
  v       : FMap VReg := []
  k       : FMap KReg := []
  c       : FMap Bool := []
  t       : FMap Word := []
  lcnt    : FMap Word := []
  lbeg    : FMap Word := []
  lend    : FMap Word := []
  ds      : FMap Word := []
  gs      : FMap Word := []
  pS0     : Word := 0
  pS1     : Word := 0
  pA      : VReg := 0
  pV0     : VReg := 0
  pV1     : VReg := 0
  pV2     : VReg := 0
  bundle  : Nat := 0
  pend    : List Pend := []
  xfers   : List Xfr := []
  idleRun : Nat := 0
  idleRem : Nat := 0
  skipTo  : Option Word := none
  tstart  : Nat := 0
  round   : Nat := 0
  flags   : Nat := 0
  wgen    : Nat := 0
  mstat   : Nat := 0
  gfmt    : Nat := 0
  waddr   : FMap Word := []
  wctl    : FMap Word := []
  wstat   : Word := 0
  wstat0  : Word := 0
  watchOff : Bool := false
  pmev    : FMap Nat := []
  pmcnt   : FMap Word := []
  pmcnt0  : FMap Word := []
  wrote   : List (Nat × Word) := []
  pmstat  : Nat := 0
  trapD   : TrapBank := {}
  trapH   : TrapBank := {}
  dscr    : FMap Word := []
  async   : List Async := []
  trapReq : Option TrapReq := none
  evq     : List Record := []
  evres   : Nat := 0
  dq      : List Nat := []
  gq      : List Nat := []
  dleft   : Nat := 0
  gleft   : Nat := 0
  dseq    : Nat := 0
  gseq    : Nat := 0
  sbuf    : List Buffered := []
  sdue    : List Buffered := []
  mbase   : Option Nat := none
  hold    : Option Hold := none
  snapped : Bool := false
  returned : Bool := false
  redirected : Bool := false
  deriving DecidableEq, Repr

/-! ### Near accesses (R82 to R86) -/

/-- How the bytes of a load become register writes. -/
inductive LoadConv where | sext (n : Nat) | zext (n : Nat) | raw
  deriving DecidableEq, Repr

/-- What a near access does when it performs. Segments are (physical address, bytes). `engine` is a write of an engine that
also marks granules as poisoned (R36); `ref` is the atomic of `kfork` on a page header (R176). -/
inductive AccOp where
  | load (segs : List (Nat × Nat)) (conv : LoadConv) (dests : List Pend)
  | store (cells : List Host.Cell) (buffered : Bool)
  | atom (addr : Nat) (wide : Bool) (op : AtomOp) (s c : Nat) (dests : List Pend)
  | engine (cells : List Host.Cell) (poison : List Nat)
  | ref (header : Nat) (rel : Bool) (cmd : Nat)
  deriving DecidableEq, Repr

/-- A near access issued and not performed: the context that issued it (4·core + context), the agent of R84 (0 = A,
1 = M, 2 = D, 3 = G, 4 = tack room, 5 = landing, 6 = system unit), the cycle in which it performs, and the order among
accesses of one agent; `born` is the cycle of its issue, and `named` the addresses of its segments where they are not one after another
from `ord` on. -/
structure Access where
  id    : Nat
  key   : Nat
  agent : Nat
  born  : Nat
  due   : Nat
  ord   : Nat
  op    : AccOp
  named : List Word := []
  deriving DecidableEq, Repr

/-! ### Transfer and group commands (R67 to R78, R162, R333) -/

/-- Who issued something: the context's key and its launch. -/
structure Owner where
  key    : Nat
  launch : Nat
  dev    : Nat
  deriving DecidableEq, Repr

/-- The stage of a command. -/
inductive CmdSt where | queued | translated | failed (reason : Nat) (addr : Word) | running | posted
  deriving DecidableEq, Repr

/-- A range of bytes (R70). -/
structure Range where
  lo : Nat
  hi : Nat
  deriving DecidableEq, Repr

/-- The run of one query row (R168). -/
structure AttRun where
  m : Nat
  l : Nat
  o : List Nat
  n : Nat
  deriving DecidableEq, Repr

/-- R24: an entry of a die's translation cache: device, page key, target, the RD, W and X bits of an imported leaf, and
whether it covers 32 MiB, of which it then names the first page. -/
structure TEntry where
  dev    : Nat
  page   : Nat
  target : Nat
  perm   : Nat
  big    : Bool
  deriving DecidableEq, Repr

/-- One step of translation in the order of R26: a failure with its reason and address, or a page with the address of its
first byte named and the permissions needed. -/
inductive TStep where
  | stop (reason : Nat) (addr : Word)
  | page (key : Nat) (addr : Word) (perm : Nat)
  deriving DecidableEq, Repr

/-- A D or G command from acceptance to its record. `st` holds the eight staging registers captured (R67), `order` the
place among starts (R77), `tsteps` what is left of its translation once that has begun and `got` the translations it holds (R26,
R32), `pages` and `entries` the imported pages translated and their targets, `held`
the stalls named as translation found them (R26), `idxs` the index list of a gather, `bad` the first poisoned source (R36) and `nanRows` that a key, a value or a query was (R341), `step` and
`when_` how far it has come and in which cycle. -/
structure Cmd where
  id       : Nat
  own      : Owner
  group    : Bool
  code     : Nat
  low      : Nat
  timed    : Bool
  rkey     : Nat
  cookie   : Nat
  seq      : Nat
  st       : List Word
  gfmt     : Nat
  accepted : Nat
  tstart   : Nat
  stage    : CmdSt := .queued
  start    : Nat := 0
  order    : Nat := 0
  reads    : List Range := []
  writes   : List Range := []
  liens    : List Nat := []
  held     : List (Nat × Nat) := []
  tsteps   : Option (List TStep) := none
  got      : List TEntry := []
  pages    : List Nat := []
  entries  : List Nat := []
  idxs     : List Nat := []
  resolved : List Word := []
  cached   : List Word := []
  next     : Nat := 0
  runs     : List AttRun := []
  count    : Nat := 0
  status   : Nat := 0
  bad      : Option (Nat × Word) := none
  nanRows  : Bool := false
  step     : Nat := 0
  when_    : Nat := 0
  mid      : Nat := 0
  waits    : List Nat := []
  deriving DecidableEq, Repr

/-- Where a piece of a transfer lies: a near byte address (engine port) or a far one (packet). -/
inductive Loc where | near (phys : Nat) | far (phys : Nat)
  deriving DecidableEq, Repr

/-- How far a piece of a command has come. -/
inductive XSt where | toRead | readDone | haveData | written | done
  deriving DecidableEq, Repr

/-- An engine-port request, or the part of a packet that has one near side or one other block at its other end (R28, R82): bytes of one
128-byte block of each far side and of one granule of each near side, read at `src` (none: the data are given) and written at `dst`
(none: only read). `job` is what it belongs to, a command, a send or a receive, and `cmd` the command that notes its poison (R36), 0 for
none; `agent` and `ord` order its writes (R84). `opnd` and `srcAddr` name the source. `run` and `off` are its place among the bytes of its
job, `packet` the bytes of its read packet before it and in all, `wpacket` those of its write packet; `tag` tells that its packet holds a
tag, and `issued` is that packet's place among those issued (R29). `atom` is the operation of an atomic packet: OP, wide, operand, compare
value, and `ref` that of a `kfork`: release or not (R176). -/
structure Xfer where
  id    : Nat
  cmd   : Nat
  job   : Nat
  own   : Owner
  core  : Nat
  agent : Nat := 2
  ord   : Nat := 0
  src   : Option Loc
  opnd  : Nat := 0
  srcAddr : Word := 0
  dst   : Option Loc
  dstAddr : Word := 0
  bytes : Nat
  data  : List Byte := []
  poison : Bool := false
  born  : Nat := 0
  atom  : Option (AtomOp × Bool × Nat × Nat) := none
  ref   : Option Bool := none
  run   : Nat := 0
  off   : Nat := 0
  packet : Nat × Nat := (0, 0)
  wpacket : Nat × Nat := (0, 0)
  tag   : Bool := false
  issued : Nat := 0
  st    : XSt := .toRead
  deriving DecidableEq, Repr

/-- R25: a walk in progress or waiting: die, device, key of the page. -/
structure Walk where
  id     : Nat
  die    : Nat
  dev    : Nat
  page   : Nat
  active : Bool
  deriving DecidableEq, Repr

/-! ### The array engine (R140 to R161) -/

/-- An entry of the engine queue (R147). `start` is the stated start cycle of a timed `mcall` (R149); `mark` is the name
that the next access would have got at acceptance, so that earlier accesses have smaller names (R355). -/
inductive MEntry where
  | call (own : Owner) (idx : Nat) (snap : List Word) (timed : Bool) (start accepted mark : Nat)
  | cfg (mfmt accepted : Nat)
  | load (own : Owner) (table : Bool) (snap : List Word) (accepted : Nat)
  | halt (own : Owner) (accepted : Nat)
  deriving DecidableEq, Repr

/-- An open micro-loop (R151, R320): the micro-op index of its body, C, C + E, the run in progress and sp0 to sp3. -/
structure MLoop where
  body  : Nat
  count : Nat
  total : Nat
  run   : Nat
  sp    : List Bool
  deriving DecidableEq, Repr

/-- Why a routine ends before its `end` (R150, R158). -/
inductive MEnding where
  | engine (addr : Nat) | timing
  deriving DecidableEq, Repr

/-- A running routine (R148, R150). `issued` is the cycle of its last micro-op, `marked` the cycle in which `mhalt` marked
it (R318), `bad` the first poisoned granule that its units read (R36). -/
structure Routine where
  own    : Owner
  idx    : Nat
  snap   : List Word
  start  : Nat
  pc     : Nat
  loops  : List MLoop := []
  liens  : List Nat := []
  issued : Nat
  marked : Option Nat := none
  ending : Option MEnding := none
  bad    : Option Word := none
  deriving DecidableEq, Repr

/-- An `ldst` in progress (R142): layer, source, the step reached; `again` names the plane, active or shadow, of a layer that is replayed
after a pre-emption (R161). -/
structure Loader where
  layer : Nat
  src   : Nat
  tern  : Bool
  step  : Nat
  again : Option Bool := none
  deriving DecidableEq, Repr

/-- The window-replay port (R90, R324). -/
structure Window where
  wbase : Nat := 0
  len   : Nat := 0
  cnt   : List Nat := []
  str   : List Int := []
  deriving DecidableEq, Repr

/-- A `strm` in progress (R144): start cycle, rows, the next row, the physical address of the first accumulator row, the
address of the window's first row and the device. -/
structure Stream where
  start : Nat
  rows  : Nat
  next  : Nat
  acc   : Nat
  base  : Word
  dev   : Nat
  planes : Nat
  deriving DecidableEq, Repr

/-- A contribution waiting for its add cycle (R144): the physical address of its accumulator row, 512 values, and whether its row was
poisoned (R36). -/
structure Add where
  cycle : Nat
  row   : Nat
  vals  : List Int
  bad   : Bool := false
  deriving DecidableEq, Repr

/-- What a drain does with a row (R155 to R158, R326). -/
inductive DrainKind where | zero | f32 | quant | raw
  deriving DecidableEq, Repr

/-- A drain or `zero` in progress: physical address of its first accumulator row, its destination in near storage with the
address as named, or the message it forms (R158); `bad` tells that its correction row was poisoned (R36). -/
structure Drain where
  kind  : DrainKind
  rows  : Nat
  next  : Nat := 0
  acc   : Nat
  dst   : Option (Nat × Word) := none
  send  : Option Nat := none
  rt    : Word := 0
  sc1   : VReg := 0
  sc2   : VReg := 0
  sc3   : VReg := 0
  crow  : List Int := []
  z     : Int := 0
  w16   : Bool := false
  bad   : Bool := false
  deriving DecidableEq, Repr

/-- An `mload` in progress (R317). `done` counts the entries written, `bad` is the first poisoned granule that it read (R36). -/
structure MLoad where
  own   : Owner
  table : Bool
  src   : Nat
  first : Nat
  count : Nat
  done  : Nat := 0
  start : Nat
  lien  : Nat
  bad   : Option Word := none
  deriving DecidableEq, Repr

/-- One layer of a plane: rows of 512 digit codes as one natural of 2,048 bits each (R140). -/
abbrev Layer := FMap Nat

/-- The array engine of a core. `actSrc` and `shaSrc` name the source of each layer of the two planes, 0 for none (R323), and `replay` the
layers still to be replayed, none between two steps: the plane, active or shadow, the layer, and its source (R161). -/
structure Engine where
  queue   : List MEntry := []
  store   : FMap Word := []
  table   : FMap Nat := []
  mfmt    : Nat := 0
  routine : Option Routine := none
  loader  : Option Loader := none
  stream  : Option Stream := none
  drain   : Option Drain := none
  mload   : Option MLoad := none
  adds    : List Add := []
  active  : FMap Layer := []
  shadow  : FMap Layer := []
  actSrc  : FMap Nat := []
  shaSrc  : FMap Nat := []
  window  : Window := {}
  replay  : List (Bool × Nat × Nat) := []
  finished : Nat := 0
  deriving DecidableEq, Repr

/-! ### The tack room (R186 to R195) -/

/-- A bound slot (R186): device, STATE stall, ring address, SEQID, LAYER. -/
structure TSlot where
  dev   : Nat
  stall : Nat
  ring  : Word
  seqid : Nat
  layer : Nat
  deriving DecidableEq, Repr

/-- A tack-room command (R187): CMD, issuing context, registers; `images` holds what a `tsnap` captured of each stall that its
slot may be bound to, with the numbers of its poisoned granules (R190), and `image` the bytes that the command copies, `imgBad` their
poisoned granules, `done` the bytes copied. `entry` is the directory entry chosen, `bad` the source address of the first poisoned granule
(R36), and `stops` marks the `tsnap` at which a context stops for pre-emption (R194). -/
structure TCmd where
  id     : Nat
  code   : Nat
  own    : Owner
  accepted : Nat
  regs   : List Word
  images : List (Nat × List Byte × List Nat) := []
  image  : List Byte := []
  imgBad : List Nat := []
  done   : Nat := 0
  bad    : Option Word := none
  stops  : Bool := false
  start  : Nat := 0
  liens  : List Nat := []
  entry  : Option Nat := none
  status : Nat := 0
  count  : Nat := 0
  addr   : Word := 0
  deriving DecidableEq, Repr

/-- A lock of R193: the command, the context that pops its record, the stall bound at the acceptance of the command (`first`) and the
stalls whose rows are locked, by id; `record` once it is posted. -/
structure TLock where
  cmd    : Nat
  own    : Owner
  first  : List Nat
  stalls : List Nat
  record : Option Record := none
  deriving DecidableEq, Repr

/-- The tack room of a core; `posted` is one more than the cycle in which the last record was posted (R187). -/
structure Tack where
  slots   : FMap (Option TSlot) := []
  queue   : List TCmd := []
  running : Option TCmd := none
  locks   : List TLock := []
  posted  : Nat := 0
  deriving DecidableEq, Repr

/-! ### Timetables (R215 to R219) -/

/-- An entry of a timetable (R215). -/
structure TTEntry where
  stamp   : Nat
  kind    : Nat
  cls     : Nat
  peer    : Nat
  tag     : Nat
  consume : Nat
  addr    : Word
  len     : Nat
  deriving DecidableEq, Repr

/-- The timetable sequencer of a core (R216). `inst` counts the instances whose start has passed, `ran` those that ran. -/
structure Timetable where
  cmd      : Nat
  own      : Owner
  stall    : Nat
  entries  : List TTEntry
  length   : Nat
  period   : Nat
  count    : Nat
  first    : Nat
  tick     : Nat
  inst     : Nat := 0
  ran      : Nat := 0
  running  : Bool := false
  recvs    : List (Nat × Nat) := []
  deriving DecidableEq, Repr

/-! ### Cores -/

/-- A launch's state of a core, kept in the lean-to or its overflow (R393, R394); `acc` holds the accumulator rows of its routine by
physical address, with the numbers of the granules that are poisoned (R161). `transit` marks the state of a launch that the core exchanges
for the one that it saves, or that no overflow can take (log 138). -/
structure SavedCore where
  core   : Nat
  launch : Nat
  dev    : Nat
  ctxs   : FMap Ctx
  engine : Engine
  mp     : FMap Word
  rt     : FMap Word
  sc     : FMap VReg
  tackQ  : List TCmd := []
  gtt    : Option Timetable := none
  acc    : List (Nat × List Byte × List Nat) := []
  transit : Bool := false
  deriving DecidableEq, Repr

/-- A core (R12, R17, R117). `halted` is the device whose partition stopped it (R386), `pre` the tick of a pre-emption request. `look` are the
stalls whose descriptors its lookaside holds, by device and id (R24), `haltedAt` the cycle of a pre-emption halt whose successor is still to
issue, 0 for none (R393). `path` is the context that holds the issue path, or held it last where `free` tells that none
holds it now. -/
structure Core where
  owner   : Nat := 0
  path    : Nat := 3
  free    : Bool := true
  code    : List Byte := []
  codeBad : List Nat := []
  dict    : FMap Nat := []
  hcode   : List Byte := []
  hBad    : List Nat := []
  mp      : FMap Word := []
  rt      : FMap Word := []
  sc      : FMap VReg := []
  stg     : List (Bool × Nat × Word) := []
  eng     : Engine := {}
  tack    : Tack := {}
  gtt     : Option Timetable := none
  errs    : Nat := 0
  pre     : Option Nat := none
  leanTo  : Option SavedCore := none
  halted  : Option Nat := none
  look    : List (Nat × Nat) := []
  haltedAt : Nat := 0
  deriving DecidableEq, Repr

/-! ### The fabric (R196 to R214, R427) -/

/-- A header of a fragment (R196). -/
structure FragHdr where
  crc   : Nat
  dhash : Nat
  gseq  : Nat
  mid   : Nat
  src   : Nat
  dst   : Nat
  tag   : Nat
  inst  : Nat
  len   : Nat
  fidx  : Nat
  k     : Nat
  m     : Nat
  path  : Nat
  cls   : Nat
  att   : Nat
  rt    : Nat
  kind  : Nat
  resv  : Nat
  deriving DecidableEq, Repr

/-- A message being sent (R202). `cmd` is the command, or 0 for a send of a routine or timetable; `left` the fragments
still to send; `lastTick` the tick in which the last one left; `held` the tick of a held notice (R208); `src` where the
bytes are read, none for a `drnx`; `quiet` marks a send of a timetable, which posts no record (R217). -/
structure Send where
  id     : Nat
  cmd    : Nat
  own    : Owner
  mid    : Nat
  hdr    : FragHdr
  data   : List Byte
  whole  : Bool
  left   : List Nat
  liens  : List Nat := []
  lastTick : Nat := 0
  held   : Option Nat := none
  retry  : Bool := false
  src    : Option Word := none
  quiet  : Bool := false
  deriving DecidableEq, Repr

/-- A receive posted (R203), of a command or a timetable entry. -/
structure Recv where
  id     : Nat
  cmd    : Nat
  own    : Owner
  src    : Nat
  tag    : Nat
  inst   : Nat
  kind   : Nat
  cap    : Nat
  dst    : Loc
  addr   : Word
  from_  : Nat
  wait   : Nat
  msg    : Option Nat := none
  liens  : List Nat := []
  deriving DecidableEq, Repr

/-- A message of which fragments have arrived (R199, R206, R208): the tick of the first, the distinct fragments, the cycle
of the k-th, the end of the decode, the receive that took it and the die whose yard holds it. -/
structure Msg where
  id     : Nat
  dev    : Nat
  hdr    : FragHdr
  first  : Nat
  frags  : List (Nat × List Byte)
  full   : Option Nat := none
  doneAt : Option Nat := none
  recv   : Option Nat := none
  yard   : Nat := 0
  deriving DecidableEq, Repr

/-- A notice of KIND 3 that leaves the package, on every path (R206 to R208): what it says, the peer and the MID. -/
inductive NoticeKind where | delivery | finalLoss | held | resend | abandon | order
  deriving DecidableEq, Repr

/-- How a reduction stands at the reducing switch: collecting, combined, found out of order, or declared lost. -/
inductive RedSt where | collecting | closed | ordered | lost
  deriving DecidableEq, Repr

/-- A reduction at the reducing switch (R213, R427): device, group, sequence, the tick of the first fragment, and the
members of whose contribution a fragment has come. -/
structure Reduction where
  id     : Nat
  dev    : Nat
  group  : Nat
  gseq   : Nat
  first  : Nat
  came   : List Nat := []
  st     : RedSt := .collecting
  deriving DecidableEq, Repr

/-- R206, R213: a result that a switch sent to one member and may be asked to send once more: its device and group, its header and
its bytes. -/
structure SwitchResult where
  dev   : Nat
  group : Nat
  hdr   : FragHdr
  data  : List Byte
  deriving DecidableEq, Repr

/-! ### Launches (R365 to R377) -/

/-- A level word (R365). -/
structure LevelWord where
  extent : Nat
  scope  : Nat
  domain : Nat
  deriving DecidableEq, Repr

/-- A stall entry (R365). -/
structure StallEntry where
  ticks    : Nat
  tolerant : Bool
  shared   : Bool
  sync     : Bool
  level    : Nat
  len      : Nat
  fmap     : Nat
  data     : Nat
  deriving DecidableEq, Repr

/-- A launch record (R365). -/
structure LaunchRec where
  kimg    : Word
  mode    : Bool
  prio    : Nat
  snap    : Bool
  nlev    : Nat
  nstall  : Nat
  paddock : Nat
  waitlim : Nat
  acct    : Nat
  group   : Nat
  resv    : Bool
  donej   : Word
  levels  : List LevelWord
  args    : List Word
  deps    : List Word
  entries : List StallEntry
  deriving DecidableEq, Repr

/-- What leaves the package over the fabric: a fragment, a notice of KIND 3 (R206 to R208, R214), and the messages between
yardmasters (R375): a copy of a launch record, a report of a member to the home, a gang tick, and a discard. -/
inductive OutMsg where
  | frag (port : Nat) (bytes : List Byte)
  | notice (kind : NoticeKind) (dst mid : Nat)
  | copy (dst gang dev fabdom : Nat) (record : LaunchRec)
  | report (dst gang cause : Nat)
  | gangTick (dst gang tick : Nat)
  | discard (dst gang : Nat)
  deriving DecidableEq, Repr

/-- The stage of a launch (R376 to R374). -/
inductive LaunchSt where | waiting | eligible | loading | gang | running | preempting | saved | between | ended
  deriving DecidableEq, Repr

/-- A launch in the device queue or in progress. `order` is its place in eligibility order (R377); `units` gives for each
core of the wave its units of DIE, QUAD and CORE (R368), `leaves` the indices of each leaf by context key, `far` and `near`
the stalls rented for its entries (entry and id; core, entry and id; an id from 2^15 up marks one reclaimed since), `placed` the tick of the wave's placement, `gangTick`
the gang tick once it is known, `live` the leaves that have not ended, `endAt` the cycle in which the last one did, `back` the stage to which a
pre-empted launch returns. `gang`
names a launch over several packages: its home and the launch there (0 for none); `came` and `gone` are the members that
have reported the wave loaded and ended, `ahead` tells that all have reported the end of a wave (R375). `slot` is its entry of the
time-triggered table, `first` its lowest-numbered core (R374). -/
structure Launch where
  id       : Nat
  dev      : Nat
  record   : LaunchRec
  recAddr  : Word
  reporter : Option Owner
  stage    : LaunchSt := .waiting
  order    : Nat := 0
  wave     : Nat := 0
  waves    : Nat := 1
  units    : List (Nat × Nat × Nat × Nat) := []
  leaves   : List (Nat × List Nat) := []
  far      : List (Nat × Nat) := []
  near     : List (Nat × Nat × Nat) := []
  placed   : Nat := 0
  gangTick : Option Nat := none
  live     : Nat := 0
  endAt    : Option Nat := none
  back     : LaunchSt := .running
  gang     : Nat := 0
  came     : List Nat := []
  gone     : List Nat := []
  ahead    : Bool := false
  first    : Nat := 0
  slot     : Option Nat := none
  deriving DecidableEq, Repr

/-- A time-triggered entry's progress (R382, R383): slots dealt with, the START and PERIOD by which they were counted, the launch of the
previous slot, whether a slot waits, and the slots that fell in the shed state. -/
structure TTSlot where
  done     : Nat := 0
  key      : Nat := 0
  launch   : Nat := 0
  deferred : Bool := false
  missed   : Nat := 0
  deriving DecidableEq, Repr

/-! ### Tiered pages (R30, R31) -/

/-- A page of a TIER stall: its heat, whether it lies in HBM, its die, and whether the stall's loft storage holds a place for it (log
5). -/
structure TierPage where
  dev  : Nat
  id   : Nat
  page : Nat
  heat : Nat
  hbm  : Bool
  die  : Nat
  loft : Bool := true
  deriving DecidableEq, Repr

/-- A move in progress (R31). -/
structure Move where
  cand : Nat × Nat × Nat
  swap : Option (Nat × Nat × Nat)
  deriving DecidableEq, Repr

/-- MIGCTL (R33). -/
structure MigCtl where
  epoch   : Nat := 4096
  promote : Nat := 64
  demote  : Nat := 8
  pause   : Bool := false
  en      : Bool := true
  deriving DecidableEq, Repr

/-- R61: the scrub of a reclaimed root stall: when it may end, its place and its length in bytes. -/
structure Scrub where
  id   : Nat
  due  : Nat
  phys : Nat
  len  : Nat
  deriving DecidableEq, Repr

/-- R64: storage of a reclaimed root stall on its way back: the tick of its return, its place, LEN, its level, and the granules for
the pools of the four dies. -/
structure Returning where
  id    : Nat
  due   : Nat
  phys  : Nat
  len   : Nat
  level : Nat
  need  : List Nat
  deriving DecidableEq, Repr

/-- A place in the cycle, in the order in which the model takes what happens in one cycle (R49, R84). -/
inductive Phase where
  | boundary | inputs | yard | starts | nearReads | ports | replies | ends | issue | engine | writes | close
  deriving DecidableEq, Repr

/-- R396, R397: where the shed state stands. `entering` stands for the first two steps of entry and `checkpoint` for those from the third
on, both PHASE 1 of SHEDSTAT. -/
inductive ShedPhase where | running | entering | checkpoint | shed | exiting
  deriving DecidableEq, Repr

/-! ### The package -/

/-- The state of the package. -/
structure State where
  station   : Nat
  phase     : Phase
  todo      : List (Nat × Instr)
  pass      : Nat
  cur       : Nat
  nextId    : Nat
  freeCtr   : Nat
  inputs    : List (Nat × Instr)
  mem       : Memory
  poison    : List Nat
  /-- R34, R87: the soft errors that the world brings: cycle, physical address of a byte, and the bits of it that turn. -/
  softErrs  : List (Nat × Nat × Byte)
  /-- R34, R35, R87: bits of stored bytes that have turned and that no read or write has met; `mem` holds the bytes as written. -/
  flips     : List (Nat × Byte)
  devs      : FMap Device
  cores     : FMap Core
  ctxs      : FMap Ctx
  seen      : FMap Device
  prior     : FMap Device
  priorReg  : FMap Word
  accesses  : List Access
  cmds      : FMap (Option Cmd)
  xfers     : List Xfer
  tcache    : FMap (List TEntry)
  walks     : List Walk
  bcache    : FMap (List (Nat × Word × Word))
  tier      : List TierPage
  migctl    : FMap MigCtl
  moves     : FMap (Option Move)
  bwUsed    : FMap Nat
  /-- R37: rows at the mitigation threshold, by stack, channel, bank and row as R404 packs them: one more than the device. -/
  rows      : FMap Nat
  returning : List Returning
  scrubs    : List Scrub
  poolHbm   : List Nat
  poolLoft  : List Nat
  nextRoot  : Nat
  mid       : Nat
  sends     : List Send
  recvs     : List Recv
  msgs      : List Msg
  retired   : List (Nat × Nat)
  outbox    : List OutMsg
  reductions : List Reduction
  results   : List SwitchResult
  switchMid : FMap Nat
  coderate  : FMap Word
  losstmo   : Nat
  fabLate   : Nat
  fabYard   : Nat
  fabBad    : Nat
  pkgid     : Nat
  gredCount : FMap Nat
  launches  : FMap (Option Launch)
  holders   : FMap (Option Nat)
  /-- R365, R369: the paddock of each core, as configured. DESIGN CHOICE (log 115). -/
  paddocks  : FMap Nat
  ttbase    : Word
  ttSlots   : FMap TTSlot
  vdsel     : Nat
  ctxsel    : Nat
  hypq      : Ring
  ltovf     : Word
  overflow  : List SavedCore
  /-- R394: the launch whose state stands in the slot of core n and device d, by 64·n + d. -/
  slotHolds : FMap Nat
  shed      : ShedPhase
  stable    : Bool
  frozen    : Bool
  shedCount : Nat
  shedGap   : Nat
  shedStart : Nat
  /-- R19: the cycle of the warning that began the present shed entry. -/
  shedAt    : Nat
  bootStage : Nat
  bootPhase : Nat
  boots     : Nat
  meas      : FMap (BitVec 256)
  hbmstat   : Nat
  attdst    : Word
  attBusy   : Option (Word × List Byte)
  pwrAvg    : Nat
  pwrCap    : Nat
  msix      : List Nat
  armed     : List (Nat × Owner)
  releases  : List (Nat × List Nat)
  posts     : List (Nat × Owner × Record)
  mchecks   : List (Nat × Word)
  deriving DecidableEq, Repr

/-- Why the model stops. -/
inductive Fault where
  /-- Raised by `step` when boot verification failed (R411, R412) and the world brings no further package reset: nothing of the
  package runs. Safe: the hardware does no step either. -/
  | bootStopped
  deriving DecidableEq, Repr

/-- Why an instruction has no meaning. -/
inductive Refusal where
  /-- Raised by a dispatch arm that has no meaning yet, with the mnemonic of the opcode table. Safe: nothing is claimed
  about what the hardware does. -/
  | notModelled (mnemonic : String)
  deriving DecidableEq, Repr

/-- R200: CODERATE at reset, (K, M, P, RETRY) of a class. -/
def coderateWord (k m p : Nat) (retry : Nat) : Word := BitVec.ofNat 64 (retry * 2 ^ 24 + p * 2 ^ 16 + m * 2 ^ 8 + k)

/-- The package right after reset: every field as INVENTORY.md lists it. -/
def State.reset : State where
  station := 0
  phase := .boundary
  todo := []
  pass := 0
  cur := 0
  nextId := 1
  freeCtr := 0
  inputs := []
  mem := []
  poison := []
  softErrs := []
  flips := []
  devs := []
  cores := []
  ctxs := []
  seen := []
  prior := []
  priorReg := [(0x400, coderateWord 4 1 5 0), (0x401, coderateWord 4 2 6 1), (0x402, coderateWord 8 2 10 1),
    (0x403, coderateWord 8 3 11 1), (0x404, coderateWord 12 4 16 1), (0x405, coderateWord 1 1 2 1), (0x406, coderateWord 16 4 16 1),
    (0x407, coderateWord 1 0 1 0), (0x408, 64), (0x409, 0)]
  accesses := []
  cmds := []
  xfers := []
  tcache := []
  walks := []
  bcache := []
  tier := []
  migctl := []
  moves := []
  bwUsed := []
  rows := []
  returning := []
  scrubs := []
  poolHbm := List.replicate 4 2000000000
  poolLoft := List.replicate 4 6000000000
  nextRoot := 1
  mid := 0
  sends := []
  recvs := []
  msgs := []
  retired := []
  outbox := []
  reductions := []
  results := []
  switchMid := []
  coderate := [(0, coderateWord 4 1 5 0), (1, coderateWord 4 2 6 1), (2, coderateWord 8 2 10 1),
    (3, coderateWord 8 3 11 1), (4, coderateWord 12 4 16 1), (5, coderateWord 1 1 2 1), (6, coderateWord 16 4 16 1),
    (7, coderateWord 1 0 1 0)]
  losstmo := 64
  fabLate := 0
  fabYard := 0
  fabBad := 0
  pkgid := 0
  gredCount := []
  launches := []
  holders := []
  paddocks := []
  ttbase := 0
  ttSlots := []
  vdsel := 0
  ctxsel := 0
  hypq := {}
  ltovf := 0
  overflow := []
  slotHolds := []
  shed := .running
  stable := false
  frozen := false
  shedCount := 0
  shedGap := 0
  shedStart := 0
  shedAt := 0
  bootStage := 0
  bootPhase := 0
  boots := 0
  meas := []
  hbmstat := 0
  attdst := 0
  attBusy := none
  pwrAvg := 0
  pwrCap := 1800
  msix := []
  armed := []
  releases := []
  posts := []
  mchecks := []

end Sys2Proof.Machine
end

