-- ==== Sys2Proof/Machine/Ops.lean ====
section
/-!
DEFINITION. Sys2Proof/Machine/Ops.lean: the named operations that the meanings share: contexts and their registers,
pending writes and their landing (R133 to R135), descriptors and the checks of a near access (R47, R80), liens (R57),
completion records and event rings (R76, R404), and taking and leaving a trap (R386 to R391).
-/
namespace Sys2Proof.Machine

/-! ### Reaching the parts of the state -/

/-- A context; its key is 4·core + context. -/
def State.ctx (s : State) (key : Nat) : Ctx := s.ctxs.get {} key
def State.setCtx (s : State) (key : Nat) (c : Ctx) : State := { s with ctxs := s.ctxs.set {} key c }
/-- A core. -/
def State.core (s : State) (n : Nat) : Core := s.cores.get {} n
def State.setCore (s : State) (n : Nat) (c : Core) : State := { s with cores := s.cores.set {} n c }
/-- A virtual device; the model keeps the stalls of the hypervisor ring under number 64 (log 6). -/
def State.dev (s : State) (n : Nat) : Device := s.devs.get {} n
def State.setDev (s : State) (n : Nat) (d : Device) : State := { s with devs := s.devs.set {} n d }
/-- A device as the checks and reads of the present cycle see it (R49, R260). -/
def State.view (s : State) (n : Nat) : Device := s.seen.get {} n
/-- The present tick (R3, R14). -/
def State.tick (s : State) : Nat := s.station / 1024
/-- The device under which hypervisor-owned stalls stand. -/
def hypDev : Nat := 64
/-- The core of a context key. -/
def keyCore (key : Nat) : Nat := key / 4
/-- A stall of a device; id 0 for a free entry (R45). -/
def Device.stall (d : Device) (id : Nat) : Stall := d.stalls.get {} id
/-- A stall written into a device's table. -/
def Device.setStall (d : Device) (id : Nat) (x : Stall) : Device := { d with stalls := d.stalls.set {} id x }
/-- A stall of the state as it now stands. -/
def State.stall (s : State) (dev id : Nat) : Stall := (s.dev dev).stall id
def State.setStall (s : State) (dev id : Nat) (x : Stall) : State := s.setDev dev ((s.dev dev).setStall id x)
/-- A fresh name for a record of the model's own. -/
def State.fresh (s : State) : Nat × State := (s.nextId, { s with nextId := s.nextId + 1 })
/-- A command in progress. -/
def State.cmd (s : State) (id : Nat) : Option Cmd := s.cmds.get none id
def State.setCmd (s : State) (c : Cmd) : State := { s with cmds := s.cmds.set none c.id (some c) }
def State.dropCmd (s : State) (id : Nat) : State := { s with cmds := s.cmds.set none id none }
def State.launch (s : State) (id : Nat) : Option Launch := s.launches.get none id
def State.setLaunch (s : State) (l : Launch) : State := { s with launches := s.launches.set none l.id (some l) }

/-- The state with context key changed. -/
def State.modCtx (s : State) (key : Nat) (f : Ctx → Ctx) : State := s.setCtx key (f (s.ctx key))

/-! ### Registers (R117, R118, R123 to R125) -/

/-- R118: x0 reads as zero. -/
def Ctx.xr (c : Ctx) (n : XNum) : Word := if n = 0 then 0 else c.x.get 0 n.toNat
/-- R118: k0 reads as all ones. -/
def Ctx.kr (c : Ctx) (n : KNum) : KReg := if n = 0 then BitVec.allOnes 1024 else c.k.get 0 n.toNat
/-- R117: a condition. -/
def Ctx.cr (c : Ctx) (n : BitVec 3) : Bool := c.c.get false n.toNat
/-- R117: a target. -/
def Ctx.tr (c : Ctx) (n : BitVec 2) : Word := c.t.get 0 n.toNat
/-- A vector register v0 to v767. -/
def Ctx.vr (c : Ctx) (n : Nat) : VReg := c.v.get 0 n

/-- R125: the low w bits of a scalar port in every lane. -/
def splat (w : Nat) (x : Word) : VReg := ofLanes w (4096 / w) fun _ => x.toNat

/-- R123, R125: a source code read by an operation of lane width w. -/
def Ctx.vsrc (c : Ctx) (w : Nat) (code : VCode) : VReg :=
  let n := code.toNat
  if n < 768 then c.vr n
  else if n = 768 then splat w c.pS0
  else if n = 769 then splat w c.pS1
  else if n = 770 then c.pA
  else if n = 771 then c.pV0
  else if n = 772 then c.pV1
  else if n = 773 then c.pV2
  else 0

/-- R135: the precedence of a slot; 0 is left for a back edge (R251). -/
def slotPrec : Slot → Nat
  | .B => 1 | .S0 => 2 | .S1 => 3 | .A => 4 | .V0 => 5 | .V1 => 6 | .V2 => 7 | .M => 8 | .Q => 9 | .D => 10
  | .G => 11 | .Y => 12

/-- The mask of n low bits. -/
def ones (n : Nat) : Nat := 2 ^ n - 1

/-- A write of the present bundle, landing lat bundles later (R133). -/
def mkPend (c : Ctx) (slot : Slot) (lat : Nat) (tgt : Tgt) (mask val : Nat) : Pend :=
  { land := c.bundle + lat, slot := slotPrec slot, seq := c.bundle, tgt := tgt, mask := mask, val := val }

/-- Schedule writes. -/
def Ctx.addPend (c : Ctx) (ps : List Pend) : Ctx := { c with pend := c.pend ++ ps }

/-- R118: whether a write to this register is discarded. -/
def Tgt.discards : Tgt → Bool
  | .x n => n == 0
  | .k n => n == 0
  | _ => false

/-- A masked value over an old one: the bits of the mask come from the value. -/
def mergeNat (old mask val : Nat) : Nat := Nat.xor old (Nat.land (Nat.xor old val) mask)

/-- R6, R121: a `csrw` as it lands: RW bits are taken, W1C bits clear, RO registers and bits ignore it. -/
def Ctx.csrLand (c : Ctx) (n v : Nat) : Ctx :=
  let w : Word := BitVec.ofNat 64 v
  if n = 0x008 then { c with round := v % 4 }
  else if n = 0x009 then { c with flags := Nat.land c.flags (ones 6 - v % 2 ^ 6) }
  else if n = 0x00A then { c with wgen := v % 2 ^ 16 }
  else if n = 0x01C then { c with idleRem := v % 2 ^ 12 }
  else if 0x010 ≤ n ∧ n ≤ 0x013 then { c with lcnt := c.lcnt.set 0 (n - 0x010) (BitVec.ofNat 64 (v % 2 ^ 32 + v / 2 ^ 63 % 2 * 2 ^ 63)) }
  else if 0x014 ≤ n ∧ n ≤ 0x017 then { c with lbeg := c.lbeg.set 0 (n - 0x014) (BitVec.ofNat 64 (v / 2 * 2)) }
  else if 0x018 ≤ n ∧ n ≤ 0x01B then { c with lend := c.lend.set 0 (n - 0x018) (BitVec.ofNat 64 (v / 2 * 2)) }
  else if n = 0x021 then { c with mstat := Nat.land c.mstat (ones 5 - v % 2 ^ 5) }
  else if n = 0x022 then { c with gfmt := v % 2 ^ 10 }
  else if 0x024 ≤ n ∧ n ≤ 0x027 then { c with waddr := c.waddr.set 0 (n - 0x024) w }
  else if 0x028 ≤ n ∧ n ≤ 0x02B then
    { c with wctl := c.wctl.set 0 (n - 0x028) (BitVec.ofNat 64 (natField v 12 4 * 2 ^ 12 + v % 32)) }
  else if n = 0x02C then { c with wstat := c.wstat &&& ~~~(w &&& 0xF0F0F), wstat0 := c.wstat0 &&& ~~~(w &&& 0xF0F0F) }
  else if 0x030 ≤ n ∧ n ≤ 0x033 then { c with pmev := c.pmev.set 0 (n - 0x030) (v % 256) }
  else if 0x034 ≤ n ∧ n ≤ 0x037 then { c with pmcnt := c.pmcnt.set 0 (n - 0x034) w, pmcnt0 := c.pmcnt0.set 0 (n - 0x034) w }
  else if n = 0x038 then { c with pmstat := Nat.land c.pmstat (1 - v % 2) }
  else if n = 0x410 then { c with trapD := { c.trapD with pc := BitVec.ofNat 64 (v / 2 * 2) } }
  else if n = 0x411 then { c with trapD := { c.trapD with mask := BitVec.ofNat 64 (v % 2 ^ 12) } }
  else if n = 0x412 then { c with trapD := { c.trapD with
      cause := BitVec.ofNat 64 (c.trapD.cause.toNat % 2 ^ 28 + v / 2 ^ 28 % 16 * 2 ^ 28) } }
  else if n = 0x413 then { c with trapD := { c.trapD with addr := w } }
  else if n = 0x414 then { c with trapD := { c.trapD with xa := w } }
  else if n = 0x415 then { c with trapD := { c.trapD with xb := w } }
  else if 0x416 ≤ n ∧ n ≤ 0x419 then { c with dscr := c.dscr.set 0 (n - 0x416) w }
  else c

/-- One write landing on a context's registers. A write of sc is a core register's (R329). -/
def Ctx.land1 (c : Ctx) (p : Pend) : Ctx :=
  let w := fun (old : Word) => (BitVec.ofNat 64 (mergeNat old.toNat p.mask p.val) : Word)
  let r := fun (old : VReg) => (BitVec.ofNat 4096 (mergeNat old.toNat p.mask p.val) : VReg)
  match p.tgt with
  | .x n => if n = 0 then c else { c with x := c.x.set 0 n (w (c.x.get 0 n)) }
  | .v n => { c with v := c.v.set 0 n (r (c.v.get 0 n)) }
  | .k n => if n = 0 then c else { c with k := c.k.set 0 n (BitVec.ofNat 1024 p.val) }
  | .c n => { c with c := c.c.set false n (p.val % 2 == 1) }
  | .t n => { c with t := c.t.set 0 n (w (c.t.get 0 n)) }
  | .lcnt n => { c with lcnt := c.lcnt.set 0 n (w (c.lcnt.get 0 n)) }
  | .lbeg n => { c with lbeg := c.lbeg.set 0 n (w (c.lbeg.get 0 n)) }
  | .lend n => { c with lend := c.lend.set 0 n (w (c.lend.get 0 n)) }
  | .ds n => { c with ds := c.ds.set 0 n (w (c.ds.get 0 n)) }
  | .gs n => { c with gs := c.gs.set 0 n (w (c.gs.get 0 n)) }
  | .pS0 => { c with pS0 := BitVec.ofNat 64 p.val }
  | .pS1 => { c with pS1 := BitVec.ofNat 64 p.val }
  | .pA => { c with pA := BitVec.ofNat 4096 p.val }
  | .pV0 => { c with pV0 := BitVec.ofNat 4096 p.val }
  | .pV1 => { c with pV1 := BitVec.ofNat 4096 p.val }
  | .pV2 => { c with pV2 := BitVec.ofNat 4096 p.val }
  | .csr _ => c
  | .flags => { c with flags := Nat.lor c.flags (p.val % 64) }
  | .denied => { c with pmstat := 1 }
  | .sc _ => c

/-- R135: whether write p gives way to write q of the same bundle and register. -/
def Pend.beats (q p : Pend) : Bool := q.slot > p.slot || (q.slot == p.slot && q.seq > p.seq)

/-- R135: whether p is the write that takes effect among those landing at its bundle; raises of flags all do (R99). -/
def prevails (ps : List Pend) (p : Pend) : Bool :=
  p.tgt == .flags || p.tgt == .denied || !ps.any fun q => q.land == p.land && q.tgt == p.tgt && q.beats p

/-- R99, R251: among the landings of one bundle a back edge's come first, so that a `csrw` prevails over them, and the raises
of flags last; a landing at an earlier bundle comes before a later one. -/
def landRank (p : Pend) : Nat :=
  p.land * 3 + (if p.slot = 0 then 0 else if p.tgt == .flags || p.tgt == .denied then 2 else 1)

/-- Insertion by rank, keeping the order of equals. -/
def insertRank (p : Pend) : List Pend → List Pend
  | [] => [p]
  | q :: qs => if landRank q ≤ landRank p then q :: insertRank p qs else p :: q :: qs

/-- The writes of a list that take effect, in the order in which they land. -/
def landingOrder (ps : List Pend) : List Pend :=
  (ps.filter (prevails ps)).foldl (fun acc p => insertRank p acc) []

/-- The writes of a context due at or before its bundle n. -/
def Ctx.due (c : Ctx) (n : Nat) : List Pend := c.pend.filter fun p => p.land ≤ n

/-- R200: the register of a class after a write, which is ignored whole outside the limits. -/
def coderateWrite (old v : Word) : Word :=
  let k := natField v.toNat 0 5
  let m := natField v.toNat 8 4
  let p := natField v.toNat 16 5
  if k = 0 || 16 < k || 8 < m || 24 < k + m || p = 0 || 16 < p then old
  else coderateWord k m p (natField v.toNat 24 1)

/-- R200, R209: a write of a package register of the fabric, 0x400 to 0x409; other numbers are not of this kind. -/
def State.fabWrite (s : State) (n : Nat) (v : Word) : State :=
  if 0x400 ≤ n ∧ n ≤ 0x407 then
    { s with coderate := s.coderate.set 0 (n - 0x400) (coderateWrite (s.coderate.get 0 (n - 0x400)) v) }
  else if n = 0x408 then (if natField v.toNat 0 8 = 0 then s else { s with losstmo := natField v.toNat 0 8 })
  else if n = 0x409 then
    { s with fabLate := natField v.toNat 32 32, fabYard := natField v.toNat 16 16, fabBad := natField v.toNat 0 16 }
  else s

/-- R260: the package registers 0x400 to 0x409 as they stand (R200, R209), and from 0x1000 on MFMT of each core. -/
def pkgRegs (s : State) : FMap Word :=
  ((List.range 8).map fun i => (0x400 + i, s.coderate.get 0 i)) ++
    [(0x408, BitVec.ofNat 64 s.losstmo),
     (0x409, BitVec.ofNat 64 (s.fabLate * 2 ^ 32 + s.fabYard * 2 ^ 16 + s.fabBad))]
    ++ s.cores.map fun (e : Nat × Core) => (0x1000 + e.1, BitVec.ofNat 64 e.2.eng.mfmt)

/-- A device with another DHIMG. -/
def Device.withImage (v : Nat) (d : Device) : Device := { d with dhimg := BitVec.ofNat 64 v }

/-- R200, R209: one of the registers 0x400 to 0x409 after a write. -/
def pkgRegAfter (n : Nat) (old v : Word) : Word :=
  if n ≤ 0x407 then coderateWrite old v
  else if n = 0x408 then (if natField v.toNat 0 8 = 0 then old else BitVec.ofNat 64 (natField v.toNat 0 8))
  else v

/-- R260: a register of the package or DHIMG as a `csrr` of a context reads it: as it stood before the cycle, the context's own writes
included. -/
def State.seenReg (s : State) (key n : Nat) : Word :=
  match (s.ctx key).wrote.find? fun e => e.1 == n with
  | some e => e.2
  | none => if n = 0x41A then (s.prior.get {} (s.ctx key).dev).dhimg else s.priorReg.get 0 n

/-- R260: a context has written one of these registers, and reads this of it from now on. -/
def Ctx.wroteReg (n : Nat) (v : Word) (c : Ctx) : Ctx := { c with wrote := (n, v) :: c.wrote }

/-- R121, R260: a `csrw` landing: a register of the package (0x400 to 0x409), of the device (DHIMG, R385) or of the context. -/
def State.csrLand (s : State) (key n v : Nat) : State :=
  let w : Word := BitVec.ofNat 64 v
  if 0x400 ≤ n ∧ n ≤ 0x409 then (s.fabWrite n w).modCtx key (Ctx.wroteReg n (pkgRegAfter n (s.seenReg key n) w))
  else if n = 0x41A then
    let d := (s.ctx key).dev
    (s.setDev d ((s.dev d).withImage v)).modCtx key (Ctx.wroteReg n w)
  else s.setCtx key ((s.ctx key).csrLand n v)

/-- One write landing: on a scale register of the core (R329), a control register, or the context's own registers. -/
def State.landOne (key : Nat) (s : State) (p : Pend) : State :=
  match p.tgt with
  | .sc n =>
    let k := s.core (keyCore key)
    s.setCore (keyCore key) { k with sc := k.sc.set 0 n (BitVec.ofNat 4096 p.val) }
  | .csr n => s.csrLand key n p.val
  | _ => s.setCtx key ((s.ctx key).land1 p)

/-- Landing of the given writes; `rest` stays pending. -/
def State.landAll (s : State) (key : Nat) (ps : List Pend) (rest : List Pend) : State :=
  (landingOrder ps).foldl (State.landOne key) (s.setCtx key { s.ctx key with pend := rest })

/-- R133: the writes due at the context's present bundle land. -/
def State.landDue (s : State) (key : Nat) : State :=
  let c := s.ctx key
  s.landAll key (c.due c.bundle) (c.pend.filter fun p => c.bundle < p.land)

/-! ### Descriptors and near checks (R20, R45, R47, R80) -/

/-- R20: bit 63 of a stall address. -/
def isStallAddr (a : Word) : Bool := a.getLsbD 63
/-- R20: STALL and OFFSET. -/
def addrStall (a : Word) : Nat := natField a.toNat 48 15
def addrOffset (a : Word) : Nat := a.toNat % 2 ^ 48
/-- R20: the stall address of an offset in a stall. -/
def stallAddr (id off : Nat) : Word := BitVec.ofNat 64 (2 ^ 63 + id * 2 ^ 48 + off)

/-- R79: physical address of the first byte of a near level of a core. -/
def nearBase (core level : Nat) : Nat :=
  core * 2 ^ 24 + (match level with | 0 => 2 ^ 23 | 1 => 0 | _ => 2 ^ 23 + 2 ^ 22)
/-- R79: granules of a near level. -/
def nearGranules : Nat → Nat | 0 => 32768 | 1 => 131072 | _ => 32768
/-- R41: a near level. -/
def isNearLevel (l : Nat) : Bool := l < 3
/-- R10: quad siblings, the core itself included. -/
def sameQuad (a b : Nat) : Bool := a / 4 == b / 4

/-- R47: an access stamped in tick t is allowed. -/
def Stall.live (x : Stall) (t : Nat) : Bool := x.st == .active && t < x.paid

/-- R45: the 256 bits of a descriptor. -/
def Stall.bits (x : Stall) : Nat :=
  x.base * 2 ^ 227 + x.len * 2 ^ 192 + x.paid * 2 ^ 128 + x.fmap * 2 ^ 96 + x.parent * 2 ^ 80 + x.rate * 2 ^ 64
    + x.liens * 2 ^ 48 + x.acct * 2 ^ 40 + x.children * 2 ^ 32
    + (match x.st with | .active => 0 | .overstay => 1 | .lapsed => 2) * 2 ^ 30
    + bnat x.sync * 2 ^ 29 + bnat x.shared * 2 ^ 28 + bnat x.tolerant * 2 ^ 27 + bnat (x.level == 4) * 2 ^ 26
    + x.level * 2 ^ 23 + x.core * 2 ^ 17 + bnat x.vac * 2 ^ 16 + x.id

/-- A check that passes with a value or names a cause and its TRAPADDR. -/
inductive Chk (α : Type) where
  | ok (a : α)
  | bad (code : Nat) (addr : Word)
  deriving DecidableEq, Repr

/-- Sequencing of checks. -/
def Chk.bind {α β : Type} : Chk α → (α → Chk β) → Chk β
  | .ok a, f => f a
  | .bad c a, _ => .bad c a

/-- R80: home cores allowed. -/
inductive Home where | own | quad | any
  deriving DecidableEq, Repr

/-- R80: what kind of near stall an operation requires. -/
def levelFits (want : Option Nat) (l : Nat) : Bool := match want with | none => true | some w => w == l

/-! ### Soft errors and poison (R34 to R36, R87) -/

/-- The errors among n bytes from a physical address. -/
def errorsIn (s : State) (p n : Nat) : List (Nat × Byte) := s.flips.filter fun e => p ≤ e.1 && e.1 < p + n
/-- The bits that are wrong in a list of errors. -/
def bitErrors (l : List (Nat × Byte)) : Nat :=
  l.foldl (fun n e => n + ((List.range 8).filter fun i => e.2.getLsbD i).length) 0

/-- The root stall in which a far byte lies. -/
def rootAt (s : State) (p : Nat) : Option (Nat × Stall) :=
  (s.devs.flatMap fun e => e.2.stalls.filterMap fun x =>
    if x.2.id != 0 && x.2.parent == 0 && !isNearLevel x.2.level && x.2.phys / 2 ^ 40 == p / 2 ^ 40 then some (e.1, x.2) else none).head?

/-- R35: the critical bits of byte i of granule g of a TOLERANT stall, by its format map. -/
def criticalBits (fmap g i : Nat) : Byte :=
  let scales := match natField fmap 6 2 with | 0 => 0 | 1 => 1 | 2 => 2 | _ => 4
  if 64 - scales ≤ i then 0xFF
  else match natField fmap 0 4 with
    | 1 => if i % 4 = 3 then 0xFF else if i % 4 = 2 then 0x80 else 0
    | 2 => if i % 2 = 1 then 0xFC else 0
    | 3 => if i % 2 = 1 then 0xFF else 0x80
    | 4 => 0xF8
    | 5 => 0xFC
    | 6 => 0x80
    | 7 => 0x88
    | _ =>
      let planes := natField fmap 12 4
      if g / 2 ^ natField fmap 8 4 % planes = planes - 1 then 0xFF else 0

/-- R35: the errors of a far granule that its code sees: in the critical bits only where its stall is TOLERANT. -/
def seenErrors (s : State) (l : List (Nat × Byte)) : List (Nat × Byte) :=
  l.filterMap fun e => match rootAt s e.1 with
    | some (_, x) =>
      let m := if x.tolerant then e.2 &&& criticalBits x.fmap ((e.1 - x.phys) / 64) (e.1 % 64) else e.2
      if m = 0 then none else some (e.1, m)
    | none => some e

/-- A far byte lies in a TOLERANT stall. -/
def isTolerant (s : State) (p : Nat) : Bool := match rootAt s p with | some (_, x) => x.tolerant | none => false

/-- The first byte and the size of the code word of a byte: 8 bytes in near storage (R87), a granule in far (R34). -/
def codeWord (p : Nat) : Nat × Nat := if p < 2 ^ 40 then (p / 8 * 8, 8) else (p / 64 * 64, 64)

/-- R34, R35, R87: how many errors the code of a word meets, in the unit that it corrects one of: bits, or bytes of a far
granule. -/
def codeErrors (s : State) (p : Nat) : Nat :=
  let w := codeWord p
  let l := errorsIn s w.1 w.2
  if p < 2 ^ 40 then bitErrors l else if isTolerant s p then bitErrors (seenErrors s l) else l.length

/-- R34, R35, R87: the code of a word detects an error that it cannot correct: two, or more where it detects those (log 10). -/
def uncorrectable (s : State) (p : Nat) : Bool :=
  let n := codeErrors s p
  n == 2 || (2 < n && Config.detects (errorsIn s (codeWord p).1 (codeWord p).2))

/-- R36, R87: a read of a granule finds it poisoned: it is marked, or holds an error that cannot be corrected. -/
def poisonedAt (s : State) (g : Nat) : Bool :=
  s.poison.contains g || (!s.flips.isEmpty && (if 64 * g < 2 ^ 40 then (List.range 8).any fun i => uncorrectable s (64 * g + 8 * i)
    else uncorrectable s (64 * g)))

/-- R87: one corrected error more in the core of a near byte. -/
def State.countErr (s : State) (p : Nat) : State :=
  let k := s.core (p / 2 ^ 24)
  s.setCore (p / 2 ^ 24) { k with errs := k.errs + 1 }

/-- R34, R35, R87: the code word of a byte is read. One error is corrected: in near storage it is written back and counted, in far
storage it stays. Bits that no code covers come as stored. An error that cannot be corrected leaves the bytes as stored, and the
granule poisoned; one beyond the code and not detected leaves the bytes open. -/
def State.decodeWord (s : State) (p : Nat) : State :=
  let w := codeWord p
  let l := errorsIn s w.1 w.2
  let rest := s.flips.filter fun e => !(w.1 ≤ e.1 && e.1 < w.1 + w.2)
  let n := codeErrors s p
  let stored := fun (m : Memory) (l : List (Nat × Byte)) => l.foldl (fun m e => m.write e.1 (m.read e.1 ^^^ e.2)) m
  if l.isEmpty then s
  else if n ≤ 1 then
    if p < 2 ^ 40 then { s with flips := rest }.countErr p
    else
      let kept := seenErrors s l
      let loose := l.filterMap fun e =>
        let m := match kept.find? fun f => f.1 == e.1 with | some f => e.2 ^^^ f.2 | none => e.2
        if m = 0 then none else some (e.1, m)
      { s with flips := rest ++ kept, mem := stored s.mem loose }
  else if uncorrectable s p then
    { s with flips := rest, mem := stored s.mem l, poison := if s.poison.contains (p / 64) then s.poison else s.poison ++ [p / 64] }
  else { s with flips := rest, freeCtr := s.freeCtr + w.2
                mem := s.mem.writeN w.1 ((List.range w.2).map fun i => Config.freeByte (s.freeCtr + i)) }

/-- R34, R35, R87: n bytes from a physical address are read: each code word that they touch. -/
def State.scan (s : State) (p n : Nat) : State :=
  if s.flips.isEmpty || n = 0 then s
  else ((List.range (n + 64)).filterMap fun i =>
      let q := (codeWord p).1 + i
      if q < p + n && (codeWord q).1 == q then some q else none).foldl State.decodeWord s

/-- The same for a list of ranges, as address and length. -/
def State.scanAll (s : State) (l : List (Nat × Nat)) : State := l.foldl (fun s g => s.scan g.1 g.2) s

/-- Soft errors whose cycle has come turn bits of stored bytes. -/
def State.strike (s : State) : State :=
  let due := s.softErrs.filter fun e => e.1 ≤ s.station
  let turn := fun (l : List (Nat × Byte)) (e : Nat × Nat × Byte) =>
    let m := (match l.find? fun f => f.1 == e.2.1 with | some f => f.2 | none => 0) ^^^ e.2.2
    (l.filter fun f => f.1 != e.2.1) ++ if m = 0 then [] else [(e.2.1, m)]
  if due.isEmpty then s
  else { s with softErrs := s.softErrs.filter fun e => !(e.1 ≤ s.station), flips := due.foldl turn s.flips }

/-- A poisoned granule among n bytes from a physical address: the first byte of it that is read, as an offset. -/
def firstPoison (s : State) (phys n : Nat) : Option Nat := (List.range n).find? fun i => poisonedAt s ((phys + i) / 64)

/-- R36, R130: the 64-byte pieces of n bytes that are read from poisoned granules. -/
def badGranules (s : State) (phys n : Nat) : List Nat :=
  (List.range (ceilDiv n 64)).filter fun g => (firstPoison s (phys + 64 * g) (min 64 (n - 64 * g))).isSome

/-- R80, steps 1 to 6: the stall that n bytes at an address lie in, for a context of a core and device; `mis` tells that
the required alignment fails, which is checked with step 2 (R262). -/
def nearStall (s : State) (core dev : Nat) (want : Option Nat) (home : Home) (mis : Bool) (a : Word) (n : Nat) :
    Chk Stall :=
  if !isStallAddr a then .bad 0x14 a
  else
    let x := (s.view dev).stall (addrStall a)
    if addrStall a = 0 || x.id = 0 || addrOffset a + n > 64 * x.len || mis then .bad 0x13 a
    else if !isNearLevel x.level then .bad 0x14 a
    else if (match home with | .own => x.core != core | .quad => !sameQuad x.core core | .any => false) then .bad 0x14 a
    else if !levelFits want x.level then .bad 0x14 a
    else if !x.live s.tick then .bad 0x10 a
    else .ok x

/-- The bytes of a stall. -/
def Stall.range (x : Stall) : Range := { lo := x.phys, hi := x.phys + 64 * x.len }
/-- The physical address of a stall address in its stall. -/
def Stall.at (x : Stall) (a : Word) : Nat := x.phys + addrOffset a

/-- R80, step 7: bytes read at the offsets given are not poisoned; TRAPADDR is the granule's address. -/
def poisonCheck (s : State) (x : Stall) (a : Word) (offs : List Nat) : Chk Unit :=
  match offs.find? fun i => poisonedAt s ((x.at a + i) / 64) with
  | some i => .bad 0x32 (BitVec.ofNat 64 ((a.toNat + i) / 64 * 64))
  | none => .ok ()

/-- R87: a read that took this cause found the granule at this address poisoned: the code words of it that hold an error which cannot be
corrected mark it. -/
def State.meetPoison (s : State) (dev code : Nat) (a : Word) : State :=
  if code ≠ 0x32 || !isStallAddr a || s.flips.isEmpty then s
  else
    let p := ((s.view dev).stall (addrStall a)).at a / 64 * 64
    (List.range 8).foldl (fun s i => if uncorrectable s (p + 8 * i) then s.decodeWord (p + 8 * i) else s) s

/-! ### Records and queues (R76, R274, R404) -/

/-- R76: a record. -/
def mkRecord (addr : Word) (start cookie count seq eng cmd reason status ctx : Nat) : Record :=
  addr.toNat * 2 ^ 192 + start % 2 ^ 64 * 2 ^ 128 + cookie % 2 ^ 32 * 2 ^ 96 + count % 2 ^ 32 * 2 ^ 64
    + seq % 2 ^ 16 * 2 ^ 48 + eng % 16 * 2 ^ 44 + cmd % 16 * 2 ^ 40 + reason % 256 * 2 ^ 32 + status % 16 * 2 ^ 28
    + ctx % 4 * 2 ^ 26

/-- R50: status codes. -/
def stOK : Nat := 0
def stNOFUNDS : Nat := 1
def stNOSPACE : Nat := 2
def stCLIPPED : Nat := 3
def stSATURATED : Nat := 4
def stNONE : Nat := 5
def stLOST : Nat := 6
/-- R26, R76: reason codes. -/
def rsOK : Nat := 0
def rsOUTSIDE : Nat := 1
def rsEXPIRED : Nat := 2
def rsNOTMAPPED : Nat := 3
def rsDENIED : Nat := 4
def rsWRONGLEVEL : Nat := 5
def rsPOISON : Nat := 6
def rsTIMING : Nat := 7
def rsBADPARAM : Nat := 8
def rsENGINE : Nat := 9

/-- R274: entries of an event queue in use. -/
def Ctx.evUsed (c : Ctx) : Nat := c.evq.length + c.evres
/-- R274: an entry can be reserved. -/
def Ctx.evRoom (c : Ctx) : Bool := c.evUsed < 64
/-- R274: reserve an entry. -/
def Ctx.reserve (c : Ctx) : Ctx := { c with evres := c.evres + 1 }
/-- A leaf whose queue still exists (R285). -/
def Ctx.alive (c : Ctx) : Bool := c.run != .idle && c.run != .ended

/-- The state with core n changed. -/
def State.modCore (s : State) (n : Nat) (f : Core → Core) : State := s.setCore n (f (s.core n))
/-- The state with device n changed. -/
def State.modDev (s : State) (n : Nat) (f : Device → Device) : State := s.setDev n (f (s.dev n))
/-- The state with the engine of core n changed. -/
def State.modEng (s : State) (n : Nat) (f : Engine → Engine) : State := s.modCore n fun c => { c with eng := f c.eng }

/-- A saved core with the context of a key changed. -/
def SavedCore.modCtx (x : SavedCore) (key : Nat) (f : Ctx → Ctx) : SavedCore :=
  { x with ctxs := x.ctxs.set {} key (f (x.ctxs.get {} key)) }

/-- The context of an owner changed, where it runs or where it is saved (R78, R393, R394). -/
def State.modOwner (s : State) (o : Owner) (f : Ctx → Ctx) : State :=
  let n := keyCore o.key
  let hit : SavedCore → Bool := fun x => x.core == n && x.launch == o.launch
  if (s.ctx o.key).launch = o.launch then s.modCtx o.key f
  else
    let t := s.modCore n fun c =>
      { c with leanTo := c.leanTo.map fun x => if hit x then x.modCtx o.key f else x }
    { t with overflow := t.overflow.map fun x => if hit x then x.modCtx o.key f else x }

/-- R219, R386, R392: the parts of a core stop, for pre-emption or because its partition is halted; a running timetable
instance shields it. -/
def Core.stopping (k : Core) : Bool :=
  (k.pre.isSome || k.halted.isSome) && !(match k.gtt with | some t => t.running | none => false)

/-- R408: an event counted n times by the counters of a context that count it. -/
def Ctx.countEv (ev n : Nat) (c : Ctx) : Ctx :=
  { c with pmcnt := (List.range 4).foldl (fun m i =>
      if c.pmev.get 0 i == ev then m.set 0 i (m.get 0 i + BitVec.ofNat 64 n) else m) c.pmcnt }

/-- R408: an event counted by every context of a device, saved ones among them. -/
def State.countDev (s : State) (dev ev n : Nat) : State :=
  let each := fun (m : FMap Ctx) => m.map fun (e : Nat × Ctx) =>
    if e.2.dev == dev && e.2.run != .idle then (e.1, e.2.countEv ev n) else e
  let saved := fun (x : SavedCore) => { x with ctxs := each x.ctxs }
  { s with ctxs := each s.ctxs, overflow := s.overflow.map saved
           cores := s.cores.map fun (e : Nat × Core) => (e.1, { e.2 with leanTo := e.2.leanTo.map saved }) }

/-- R408: an event counted by the contexts of one core and device, where they run and where they are saved. -/
def State.countCore (s : State) (core dev ev n : Nat) : State :=
  let each := fun (m : FMap Ctx) => m.map fun (e : Nat × Ctx) =>
    if keyCore e.1 == core && e.2.dev == dev && e.2.run != .idle then (e.1, e.2.countEv ev n) else e
  let saved := fun (x : SavedCore) => if x.core == core then { x with ctxs := each x.ctxs } else x
  { s with ctxs := each s.ctxs, overflow := s.overflow.map saved }.modCore core fun k => { k with leanTo := k.leanTo.map saved }

/-- The issuing context as an owner. -/
def State.owner (s : State) : Owner :=
  { key := s.cur, launch := (s.ctx s.cur).launch, dev := (s.ctx s.cur).dev }

/-- R274: a record posted into a reservation; a leaf that has ended takes none (R285). What the queue of a context that is idle or has
ended does with a record that EQ = 1 sends there (R77) the spec does not say: the record is dropped, and no reservation is given back
(log 144, DESIGN CHOICE). -/
def Ctx.post (r : Record) (c : Ctx) : Ctx :=
  if c.alive then { c with evq := c.evq ++ [r], evres := c.evres - 1 } else c
/-- R274, R78: a record posted to an owner's context. -/
def State.postRecord (s : State) (o : Owner) (r : Record) : State := s.modOwner o (Ctx.post r)
/-- R77: a record of a D or G command among those of this cycle: in the order of starts, failed starts last. -/
def insertPost (e : Nat × Owner × Record) : List (Nat × Owner × Record) → List (Nat × Owner × Record)
  | [] => [e]
  | f :: fs => if f.1 ≤ e.1 then f :: insertPost e fs else e :: f :: fs
/-- R77: a record handed in; the cycle's records reach the queues together, before the cycle's bundles issue. -/
def State.handRecord (s : State) (order : Nat) (o : Owner) (r : Record) : State :=
  { s with posts := insertPost (order, o, r) s.posts }
/-- R77: the cycle's records reach their queues. -/
def State.flushPosts (s : State) : State :=
  s.posts.foldl (fun s e => s.postRecord e.2.1 e.2.2) { s with posts := [] }
/-- The reservation of an owner's context given back with no record (R279). -/
def State.unreserve (s : State) (o : Owner) : State := s.modOwner o fun c => { c with evres := c.evres - 1 }
/-- R49, step 5: liens to be released at the end of the cycle. -/
def State.release (s : State) (dev : Nat) (ids : List Nat) : State :=
  { s with releases := s.releases ++ [(dev, ids)] }

/-- R404: a ring after a record that was dropped. -/
def Ring.drop (g : Ring) : Ring := { g with lost := min (g.lost + 1) (ones 16) }
/-- R404: a ring after a record written. -/
def Ring.advance (g : Ring) : Ring := { g with tail := (g.tail + 1) % 256 }

/-- R63, R404: the physical address of the slot a record of a ring is written to; none where it is dropped. -/
def ringSlot (s : State) (dev : Nat) (g : Ring) : Option Nat :=
  let x := s.stall dev (addrStall g.addr)
  if g.addr = 0 || x.id = 0 || !x.live s.tick || (g.tail + 1) % 256 == g.head || addrOffset g.addr + 32 * g.tail + 32 > 64 * x.len then none
  else some (x.at g.addr + 32 * g.tail)

/-- R404, R410: one record to the hypervisor ring, the device in COOKIE; a record written raises the vector of function 0. -/
def State.hypRecord (s : State) (r : Record) : State :=
  match ringSlot s hypDev s.hypq with
  | some a => { s with mem := s.mem.writeN a (natToBytes 32 r), hypq := s.hypq.advance, msix := s.msix ++ [0] }
  | none => { s with hypq := s.hypq.drop }

/-- R404, R410: one record to a device's driver ring, with the vector of its function. -/
def State.drvRecord (s : State) (dev : Nat) (r : Record) : State :=
  let d := s.dev dev
  match ringSlot s dev d.drvq with
  | some a => { s.setDev dev { d with drvq := d.drvq.advance } with
             mem := s.mem.writeN a (natToBytes 32 r), msix := s.msix ++ [dev + 1] }
  | none => s.setDev dev { d with drvq := d.drvq.drop }

/-! ### Liens (R57) -/

/-- One lien more (true) or less on a stall and every ancestor; fuel bounds the chain of parents. -/
def lienChain (up : Bool) : Nat → Device → Nat → Device
  | 0, d, _ => d
  | n + 1, d, id =>
    let x := d.stall id
    if id = 0 || x.id = 0 then d
    else lienChain up n (d.setStall id { x with liens := if up then x.liens + 1 else x.liens - 1 }) x.parent

/-- R57: liens placed on stalls of a device. -/
def State.placeLiens (s : State) (dev : Nat) (ids : List Nat) : State :=
  s.modDev dev fun d => ids.foldl (lienChain true 32768) d
/-- R57: liens released. -/
def State.dropLiens (s : State) (dev : Nat) (ids : List Nat) : State :=
  s.modDev dev fun d => ids.foldl (lienChain false 32768) d

/-- The liens a stall and its ancestors would hold at most after one more. -/
def lienMax (d : Device) : Nat → Nat → Nat
  | 0, _ => 0
  | n + 1, id => let x := d.stall id; if id = 0 || x.id = 0 then 0 else max (x.liens + 1) (lienMax d n x.parent)
/-- R57: no LIENS count would pass 65,535. -/
def lienRoom (d : Device) (ids : List Nat) : Bool :=
  let d' := ids.foldl (lienChain true 32768) d
  ids.all fun id => lienMax d' 32768 id ≤ 65536

/-! ### Loops (R122, R251) -/

/-- R122: ACT, COUNT of a loop. -/
def loopAct (c : Ctx) (n : Nat) : Bool := (c.lcnt.get 0 n).getLsbD 63
def loopCount (c : Ctx) (n : Nat) : Nat := (c.lcnt.get 0 n).toNat % 2 ^ 32
/-- R122: the word of LCNTn. -/
def lcntWord (act : Bool) (count : Nat) : Word := BitVec.ofNat 64 (bnat act * 2 ^ 63 + count % 2 ^ 32)
/-- R389: the ACT bits of lc3 to lc0. -/
def lactBits (c : Ctx) : Nat := (List.range 4).foldl (fun a n => a + bnat (loopAct c n) * 2 ^ n) 0
/-- A loop's ACT set or cleared. -/
def setAct (c : Ctx) (n : Nat) (act : Bool) : Ctx := { c with lcnt := c.lcnt.set 0 n (lcntWord act (loopCount c n)) }
/-- ACT of every loop from four bits. -/
def setActs (c : Ctx) (bits : Nat) : Ctx := (List.range 4).foldl (fun c n => setAct c n (bitAt bits n)) c

/-- R252: a transfer to a target clears ACT of every active loop that does not hold it. -/
def clearOutside (c : Ctx) (target : Word) : Ctx :=
  (List.range 4).foldl (fun c n =>
    if loopAct c n && !((c.lbeg.get 0 n).toNat ≤ target.toNat && target.toNat ≤ (c.lend.get 0 n).toNat)
    then setAct c n false else c) c

/-- R247, R252: the transfer due at the context's present bundle takes effect; an idle run ends there (R127). -/
def Ctx.takeTransfer (c : Ctx) : Ctx :=
  match c.xfers.find? fun t => t.at_ == c.bundle with
  | some t =>
    clearOutside { c with pc := t.target, idleRun := 0, returned := false, xfers := c.xfers.filter fun u => c.bundle < u.at_ }
      t.target
  | none => c

/-- R133, R247: the state as a context's present bundle comes up to issue: the writes due have landed, and the transfer due
has taken effect. -/
def State.arrive (s : State) (key : Nat) : State :=
  let t := s.landDue key
  t.setCtx key (t.ctx key).takeTransfer

/-! ### Traps (R386 to R391) -/

/-- Loads still under way fill their writes with the bytes as they stand; their writes land at a trap's entry with the
rest (R139). -/
def loadBytes (s : State) (segs : List (Nat × Nat)) : List Byte := segs.flatMap fun g => s.mem.readN g.1 g.2

/-- R85: a context's own buffered bytes laid over what it reads. -/
def overlay (bufs : List Buffered) (a : Nat) (b : Byte) : Byte :=
  bufs.foldl (fun acc e => e.2.foldl (fun acc c => if c.1 = a then c.2 else acc) acc) b

/-- The bytes that a context reads from its segments, its buffered stores laid over them (R85). -/
def State.readAs (s : State) (key : Nat) (segs : List (Nat × Nat)) : List Byte :=
  segs.flatMap fun g => (List.range g.2).map fun i => overlay ((s.ctx key).sdue ++ (s.ctx key).sbuf) (g.1 + i) (s.mem.read (g.1 + i))

/-- The writes of a load from its bytes (R263 to R266): a scalar is extended, anything else is the bytes themselves; the
`val` of a destination names the bits taken from memory, and the others are zero. -/
def loadPends (conv : LoadConv) (bs : List Byte) (dests : List Pend) : List Pend :=
  let n := bytesToNat bs
  let v := match conv with
    | .sext w => wrapInt (signExt n w) 64
    | .zext w => n % 2 ^ w
    | .raw => n
  dests.map fun p => { p with val := Nat.land v p.val }

/-- R139, R390: an atomic under way delivers at the context's present bundle, before the handler's first. The spec gives no order among
pending writes of different bundles that land together at a trap's entry: the old value of an atomic lands after all others, even
one due at a later bundle (log 140, DESIGN CHOICE). -/
def landNow (n : Nat) (a : Access) : Access :=
  match a.op with
  | .atom x w o s c dests => { a with op := .atom x w o s c (dests.map fun p => { p with land := min p.land n }) }
  | _ => a

/-- The bytes that an access loads. -/
def AccOp.segs : AccOp → List (Nat × Nat) | .load segs .. => segs | .atom p w .. => [(p, if w then 8 else 4)] | _ => []

/-- R80, R87: the first word with an error that cannot be corrected among the bytes of a load, in which it came after the load was
checked: the address of its granule as the load named it. -/
def lateError (s : State) (a : Access) : Option Word :=
  if s.flips.isEmpty then none
  else (List.range a.op.segs.length).findSome? fun j =>
    let g := a.op.segs.getD j (0, 0)
    ((List.range g.2).find? fun i => uncorrectable s (g.1 + i)).map fun i =>
      BitVec.ofNat 64 (((a.named.getD j (BitVec.ofNat 64 a.ord)).toNat + i) / 64 * 64)

/-- R87, R388: a cause of a context that is entering a trap, where its list has room (log 10). -/
def Ctx.addCause (now code : Nat) (c : Ctx) (a : Word) : Ctx :=
  if c.async.length < 16 then { c with async := c.async ++ [{ cycle := now, code := code, addr := a }] } else c

/-- R139: the loads of a context that have not performed deliver now. -/
def State.flushLoads (s : State) (key : Nat) : State :=
  let mine := s.accesses.filter fun a => a.key == key && a.agent == 0
  let late := mine.filterMap fun a => match a.op with | .load .. => lateError s a | _ => none
  let s := s.scanAll (mine.flatMap fun a => match a.op with | .load segs .. => segs | _ => [])
  let ps := mine.flatMap fun a => match a.op with
    | .load segs conv dests => loadPends conv (s.readAs key segs) dests
    | _ => []
  let keep := s.accesses.filter fun a => !(a.key == key && a.agent == 0 && (match a.op with | .load .. => true | _ => false))
  { s with accesses := keep.map fun (a : Access) => if a.key == key then landNow (s.ctx key).bundle a else a }.modCtx key fun c =>
    late.foldl (Ctx.addCause s.station 0x32) (c.addPend ps)

/-- R390, step 1: every pending write of the context lands. -/
def State.settle (s : State) (key : Nat) : State :=
  let s := s.flushLoads key
  s.landAll key (s.ctx key).pend []

/-- R389: TRAPXA or TRAPXB of a transfer due at a bundle. -/
def xferWord (c : Ctx) (n : Nat) : Word :=
  match c.xfers.find? fun t => t.at_ == n with
  | some t => BitVec.ofNat 64 (t.target.toNat / 2 * 2 + 1)
  | none => 0

/-- R389: TRAPCAUSE. -/
def causeWord (lact : Nat) (ring : CRing) (async : Bool) (orig code : Nat) : Word :=
  BitVec.ofNat 64 (lact * 2 ^ 28 + (match ring with | .user => 0 | .driver => 1) * 2 ^ 24 + bnat async * 2 ^ 16
    + orig * 2 ^ 8 + code)

/-- R389: the bank of a trap taken at the context's present bundle. -/
def trapBank (c : Ctx) (nested : Bool) (r : TrapReq) : TrapBank :=
  { pc := BitVec.ofNat 64 (c.pc.toNat / 2 * 2)
    mask := BitVec.ofNat 64 r.mask
    cause := causeWord (lactBits c) c.ring r.async (if nested then r.code else 0) (if nested then 0x7F else r.code)
    addr := r.addr
    xa := xferWord c (c.bundle + 1)
    xb := xferWord c (c.bundle + 2) }

/-- R127, R390: the context after the bank is written: ACT cleared, IDLEREM set, transfers saved. -/
def Ctx.leave (c : Ctx) : Ctx :=
  setActs { c with idleRem := if c.idleRun = 0 && c.returned then c.idleRem else c.idleRun, idleRun := 0, xfers := []
                   trapReq := none, hold := none, returned := false, watchOff := false } 0

/-- R386: the partition of a device, every core of the paddocks that it holds, halts toward MON; the machine check to the host
carries the cause of code 0x7F. -/
def State.haltPartition (s : State) (dev : Nat) (cause : Word) : State :=
  let held := (List.range 64).filter fun n => s.holders.get none (s.paddocks.get 0 n) == some dev
  held.foldl (fun s n => s.modCore n fun k => { k with halted := some dev })
    { s.modDev dev (fun d => { d with halted := true }) with mchecks := s.mchecks ++ [(dev, cause)] }

/-- R386: the cause of a context stopped toward HYP that is met by another. -/
def checkCause (c : Ctx) (async : Bool) (code : Nat) : Word := causeWord (lactBits c) c.ring async code 0x7F

/-- R386: a record of a context stopped toward HYP. -/
def stopRecord (key dev : Nat) (addr : Word) (station : Nat) : Record :=
  mkRecord addr station dev key 0 7 1 rsOK stOK key

/-- R386, R390: taking a trap. At USER with a handler the context enters DRIVER ring at handler address 0; at USER
without one, or at DRIVER, it stops toward HYP (nested with code 0x7F from DRIVER); a context already stopped toward HYP
halts the partition toward MON. The context's pending writes land first. -/
def State.takeTrap (s : State) (key : Nat) (r : TrapReq) : State :=
  let s := s.settle key
  let c := s.ctx key
  match c.run, c.ring with
  | .stopHyp, _ => s.haltPartition c.dev (checkCause c r.async r.code)
  | _, .user =>
    if (s.dev c.dev).dhimg ≠ 0 && !(s.core (keyCore key)).hcode.isEmpty then
      s.setCtx key { c.leave with trapD := trapBank c false r, ring := .driver, pc := 0 }
    else
      (s.setCtx key { c.leave with trapH := trapBank c false r, run := .stopHyp }).hypRecord
        (stopRecord key c.dev r.addr s.station)
  | _, .driver =>
    (s.setCtx key { c.leave with trapH := trapBank c true r, run := .stopHyp }).hypRecord
      (stopRecord key c.dev r.addr s.station)

/-- R388: a cause that arrives at the full list of a context goes to HYP as 0x7F. -/
def overflowReq (cause : Async) : TrapReq := { code := cause.code, addr := cause.addr, mask := 0, async := true }

/-- R388, R390: a running context whose list is full stops toward HYP: what is due has come about, and the rest lands. -/
def State.overflowAsync (s : State) (key : Nat) (cause : Async) : State :=
  let s := (s.arrive key).settle key
  let c := s.ctx key
  (s.setCtx key { c.leave with trapH := trapBank c true (overflowReq cause), run := .stopHyp }).hypRecord
    (stopRecord key c.dev cause.addr s.station)

/-- R388, R390: the same for a context saved with its core: its writes land on its own registers, and those that are a core's
or the package's as it goes on. -/
def Ctx.overflowSaved (cause : Async) (c : Ctx) : Ctx :=
  let own := fun (p : Pend) => match p.tgt with | .sc _ => false | .csr n => !(0x400 ≤ n && n ≤ 0x409) && n != 0x41A | _ => true
  let put := fun (c : Ctx) (p : Pend) => match p.tgt with | .csr n => c.csrLand n p.val | _ => c.land1 p
  let ps := landingOrder c.pend
  let now := fun (ps : List Pend) => (ps.filter own).foldl put
  let d := (now (ps.filter fun p => decide (p.land ≤ c.bundle)) c).takeTransfer
  let d := now (ps.filter fun p => !decide (p.land ≤ c.bundle)) d
  let d := { d with pend := ps.filter fun p => !own p }
  { d.leave with trapH := trapBank d true (overflowReq cause), run := .stopHyp }

/-- The saved context of an owner, in a lean-to or in the overflow (R394). -/
def savedCtx (s : State) (o : Owner) : Option Ctx :=
  let hit : SavedCore → Bool := fun x => x.core == keyCore o.key && x.launch == o.launch
  ((((s.core (keyCore o.key)).leanTo.toList) ++ s.overflow).find? hit).map fun x => x.ctxs.get {} o.key

/-- R386, R388: an asynchronous cause posted to a context that is saved. -/
def State.postSaved (s : State) (o : Owner) (cause : Async) : State :=
  match savedCtx s o with
  | none => s
  | some c =>
    if !c.alive then s
    else if c.run == .stopHyp then s.haltPartition o.dev (checkCause c true cause.code)
    else if c.async.length < 16 then s.modOwner o fun c => { c with async := c.async ++ [cause] }
    else (s.modOwner o (Ctx.overflowSaved cause)).hypRecord (stopRecord o.key o.dev cause.addr s.station)

/-- R388: an asynchronous cause posted to a context: it waits in the list of 16, or goes to HYP as 0x7F, and one that meets a
context stopped toward HYP halts the partition (R386). The list of a pre-empted context is saved with it, and takes causes as
that of a running one does (log 33). -/
def State.postAsync (s : State) (o : Owner) (code : Nat) (addr : Word) : State :=
  let key := o.key
  let c := s.ctx key
  let cause : Async := { cycle := s.station, code := code, addr := addr }
  if c.launch ≠ o.launch then s.postSaved o cause
  else if !c.alive then s
  else if c.run == .stopHyp then s.haltPartition c.dev (checkCause c true code)
  else if c.async.length < 16 then s.setCtx key { c with async := c.async ++ [cause] }
  else s.overflowAsync key cause

/-- R388: the pending cause that is taken next: the oldest, and the least code within one cycle. -/
def nextAsync : List Async → Option Async
  | [] => none
  | a :: as =>
    match nextAsync as with
    | none => some a
    | some b => if b.cycle < a.cycle || (b.cycle == a.cycle && b.code < a.code) then some b else some a

/-! ### What a syllable does -/

/-- The outcome of one syllable at the issue of its bundle: its effect, a fault with its cause and address (R136, R137),
a watchpoint trap (R363) with the watchpoints hit, or a reason to hold (R138). -/
inductive SlotOut where
  | ok (s : State)
  | trap (code : Nat) (addr : Word)
  | watch (hits : Nat) (addr : Word)
  | hold (why : HoldWhy)
  deriving DecidableEq, Repr

/-- R137: the mask bit of a slot. -/
def slotMaskBit (sl : Slot) : Nat := 2 ^ (12 - slotPrec sl)

/-- R17, R138: the context marked as holding; the first cycle of the hold is kept, and the cycle is counted (R408). -/
def State.markHold (s : State) (key : Nat) (why : HoldWhy) : State :=
  s.modCtx key fun c =>
    { c.countEv 0x02 1 with
      hold := some { why := why, since := match c.hold with | some h => h.since | none => s.station } }

/-- R362: HIT bits set. -/
def State.setHits (s : State) (key hits : Nat) : State :=
  s.modCtx key fun c => { c with wstat := c.wstat ||| BitVec.ofNat 64 (hits * 2 ^ 8) }

/-- The issuing context. -/
def State.me (s : State) : Ctx := s.ctx s.cur

/-- A syllable standing alone in the bundle of the issuing context s.cur: its effect, the trap it takes (R390) or its
hold (R138). -/
def finishSlot (sl : Slot) (s : State) : SlotOut → Host.Outcome State Fault Refusal
  | .ok s' => .next s'
  | .trap code addr => .next ((s.meetPoison s.me.dev code addr).takeTrap s.cur { code := code, addr := addr, mask := slotMaskBit sl, async := false })
  | .watch hits addr =>
    .next ((s.setHits s.cur hits).takeTrap s.cur { code := 0x40, addr := addr, mask := slotMaskBit sl, async := false })
  | .hold why => .next (s.markHold s.cur why)

/-- A passed check continues, a failed one traps. -/
def Chk.slot {α : Type} : Chk α → (α → SlotOut) → SlotOut
  | .ok a, f => f a
  | .bad c a, _ => .trap c a

/-- The issuing core's number. -/
def State.myCore (s : State) : Nat := keyCore s.cur

/-- The issuing context with writes scheduled. -/
def State.sched (s : State) (ps : List Pend) : State := s.modCtx s.cur fun c => c.addPend ps

/-- A write to an x register from a slot (R133), lat bundles later. -/
def State.wrX (s : State) (sl : Slot) (lat : Nat) (d : Nat) (v : Word) : State :=
  s.sched [mkPend s.me sl lat (.x d) (ones 64) v.toNat]

end Sys2Proof.Machine
end

