-- ==== Sys2Proof/Machine/Code.lean ====
section
/-!
DEFINITION. Sys2Proof/Machine/Code.lean: the code stream (R126 to R131, R245, R384): heads, the next head in code
order, and the bundle found at a code address.
-/
namespace Sys2Proof.Machine

/-- R126: the class of a head. -/
inductive Head where
  | dict (n : Nat) | idle (count : Nat) | literal (mask : Nat) | reserved
  deriving DecidableEq, Repr

/-- R126: a head classified. -/
def headOf (p : Nat) : Head :=
  if p < 0x0800 then .dict (p % 2 ^ 11)
  else if 0xC000 ≤ p ∧ p < 0xD000 then .idle (p % 2 ^ 12 + 1)
  else if 0xE000 ≤ p ∧ p < 0xF000 then .literal (p % 2 ^ 12)
  else .reserved

/-- R128: the slots present in a mask, in order. -/
def maskSlots (mask : Nat) : List Slot := Slot.all.filter fun sl => bitAt mask sl.bit

/-- R126: length in parcels of the bundle of a head. -/
def headLen : Head → Nat
  | .literal mask => 1 + (maskSlots mask).foldl (fun a sl => a + sl.parcels) 0
  | _ => 1

/-- R384: the code that a ring fetches from. -/
def codeOf (k : Core) : CRing → List Byte
  | .user => k.code
  | .driver => k.hcode
/-- R130: poisoned granules of the code that a ring fetches from. -/
def codeBadOf (k : Core) : CRing → List Nat
  | .user => k.codeBad
  | .driver => k.hBad

/-- The parcel at a code address (R1); none at an odd address or outside the segment. -/
def parcelAt (code : List Byte) (a : Nat) : Option Nat :=
  if a % 2 = 0 && a + 2 ≤ code.length then some (bytesToNat ((code.drop a).take 2)) else none

/-- The head at a code address; a head that is not read counts as reserved (R126). -/
def headAt (code : List Byte) (a : Word) : Head :=
  match parcelAt code a.toNat with
  | some p => headOf p
  | none => .reserved

/-- R126: the next head in code order. -/
def nextHead (code : List Byte) (a : Word) : Word := a + BitVec.ofNat 64 (2 * headLen (headAt code a))

/-- R249: the head that issues after k more bundles from head a with no transfer; inside an idle run, the head after
the run. -/
def headAfter (code : List Byte) : Nat → Nat → Word → Word
  | 0, _, a => a
  | _ + 1, 0, a => a
  | f + 1, k, a =>
    match headAt code a with
    | .idle m => if k < m then nextHead code a else headAfter code f (k - m) (nextHead code a)
    | _ => headAfter code f (k - 1) (nextHead code a)

/-- R249: the link of a `call` in the bundle at a head. -/
def linkOf (code : List Byte) (h : Word) : Word := headAfter code 3 2 (nextHead code h)

/-- What stands at a code address: an idle run, the syllables of a bundle (nops left out), or a fault of the whole
bundle. -/
inductive Fetched where
  | idle (count : Nat)
  | bundle (words : List (Slot × Nat))
  | bad (code : Nat) (addr : Word)
  deriving DecidableEq, Repr

/-- R128: n parcels from a byte offset as one syllable, the most significant parcel first. -/
def syllableAt (code : List Byte) : Nat → Nat → Nat
  | _, 0 => 0
  | a, n + 1 => bytesToNat ((code.drop a).take 2) * 2 ^ (16 * n) + syllableAt code (a + 2) n

/-- R128: the syllables of the present slots from a byte offset. -/
def literalWords (code : List Byte) : Nat → List Slot → List (Slot × Nat)
  | _, [] => []
  | a, sl :: rest => (sl, syllableAt code a sl.parcels) :: literalWords code (a + 2 * sl.parcels) rest

/-- R131: the syllables of a dictionary entry. -/
def entryWords (e : Nat) : List (Slot × Nat) := Slot.all.map fun sl => (sl, natField e sl.low (16 * sl.parcels))

/-- R130: the first poisoned granule that n bytes from an address touch. -/
def badGranule (bad : List Nat) (a n : Nat) : Option Nat := (List.range n).find? fun i => bad.contains ((a + i) / 64)

/-- R130: the check of n bytes of code from an address: outside the segment first, then poison. -/
def codeCheck (code : List Byte) (bad : List Nat) (a n : Nat) : Option (Nat × Word) :=
  if code.length < a + n then some (0x03, BitVec.ofNat 64 (max a code.length))
  else match badGranule bad a n with
    | some i => some (0x32, BitVec.ofNat 64 ((a + i) / 64 * 64))
    | none => none

/-- R126, R129, R130, R385: the bundle at a code address of a ring. -/
def fetch (k : Core) (ring : CRing) (pc : Word) : Fetched :=
  let code := codeOf k ring
  let a := pc.toNat
  if a % 2 = 1 then .bad 0x03 pc
  else match codeCheck code (codeBadOf k ring) a 2 with
    | some (c, x) => .bad c x
    | none =>
      match headAt code pc, ring with
      | .reserved, _ => .bad 0x01 0
      | .dict _, .driver => .bad 0x01 0
      | .dict n, .user => .bundle ((entryWords (k.dict.get 0 n)).filter fun w => w.2 != 0)
      | .idle n, _ => .idle n
      | .literal mask, _ =>
        match codeCheck code (codeBadOf k ring) a (2 * headLen (.literal mask)) with
        | some (c, x) => .bad c x
        | none => .bundle ((literalWords code (a + 2) (maskSlots mask)).filter fun w => w.2 != 0)

end Sys2Proof.Machine
end

