-- ==== Sys2Proof/Machine/IntLanes.lean ====
section
/-!
DEFINITION. Sys2Proof/Machine/IntLanes.lean: the values of the vector integer and permute operations (R289 to R299) and
the digit codes of weights (R108 to R111), as functions of register values.
-/
namespace Sys2Proof.Machine

/-- Lane values as exact integers. -/
abbrev IntBin := Fmt → Int → Int → Int

/-- R289: a lane operation on exact integers, reduced to w bits. -/
def vecBin (op : IntBin) (f : Fmt) (a b : VReg) (k : KReg) : VRes :=
  laneRes f.width f.lanes k fun i =>
    wrapInt (op f (laneVal f (lane a f.width i)) (laneVal f (lane b f.width i))) f.width

/-- R92, R289: saturation by the signedness of the format. -/
def satFmt (f : Fmt) (v : Int) : Int := if f.signed then satS f.width v else satN f.width v

def intAdd : IntBin := fun _ a b => a + b
def intSub : IntBin := fun _ a b => a - b
def intAddSat : IntBin := fun f a b => satFmt f (a + b)
def intSubSat : IntBin := fun f a b => satFmt f (a - b)
def intMul : IntBin := fun _ a b => a * b
def intMin : IntBin := fun _ a b => min a b
def intMax : IntBin := fun _ a b => max a b

/-- R289: `vmac`. -/
def vecMac (f : Fmt) (d a b : VReg) (k : KReg) : VRes :=
  laneRes f.width f.lanes k fun i =>
    wrapInt (laneVal f (lane d f.width i) + laneVal f (lane a f.width i) * laneVal f (lane b f.width i)) f.width

/-- R289: `vabs`. -/
def intAbs (_ : Fmt) (a : Int) : Int := if a < 0 then -a else a
/-- R289: `vneg`. -/
def intNeg (_ : Fmt) (a : Int) : Int := -a

/-- R289: a one-source lane operation. -/
def vecUn (op : Fmt → Int → Int) (f : Fmt) (a : VReg) (k : KReg) : VRes :=
  laneRes f.width f.lanes k fun i => wrapInt (op f (laneVal f (lane a f.width i))) f.width

/-- R289: a bitwise lane operation on codes. -/
def vecBits (op : Nat → Nat → Nat) (f : Fmt) (a b : VReg) (k : KReg) : VRes :=
  laneRes f.width f.lanes k fun i => op (lane a f.width i) (lane b f.width i)

/-- R290: shifts by the per-lane count. -/
def shlCode (w c n : Nat) : Nat := if n < w then c * 2 ^ n % 2 ^ w else 0
def shrCode (w c n : Nat) : Nat := if n < w then c / 2 ^ n else 0
def sraCode (w c n : Nat) : Nat := wrapInt (signExt c w / (2 ^ (min n w) : Nat)) w

/-- R291: the lanes of a wide result; registers d to d + r - 1 hold source lane i in lane i div r of register i mod r. -/
def groupLane (regs : List VReg) (w r i : Nat) : Nat := lane (regs.getD (i % r) 0) w (i / r)

/-- R291: signed or natural reading of a wide lane. -/
def wideVal (f : Fmt) (w x : Nat) : Int := if f.signed then signExt x w else (x % 2 ^ w : Nat)

/-- R291: `vmulw` and `vmacw`; the addend is none for `vmulw`. -/
def vecWiden (f : Fmt) (wd : Widen) (acc : Option (List VReg)) (a b : VReg) (k : KReg) : VRes :=
  let r := wd.regs
  let w := f.width * r
  spreadRes w f.lanes r k fun i =>
    let p := laneVal f (lane a f.width i) * laneVal f (lane b f.width i)
    let d := match acc with
      | none => 0
      | some regs => wideVal f w (groupLane regs w r i)
    wrapInt (d + p) w

/-- R292: the comparison of two lanes. -/
def cmpInt : VCmpOp → Int → Int → Bool
  | .eq, a, b => a == b
  | .ne, a, b => a != b
  | .lt, a, b => a < b
  | .le, a, b => a ≤ b

/-- A predicate from its bits 0 to n - 1; the bits above are zero. -/
def kOfBits (n : Nat) (f : Nat → Bool) : KReg := BitVec.ofNat 1024 (packLanes 1 (fun i => bnat (f i)) n)

/-- R292: `vcmp`. -/
def vecCmp (cc : VCmpOp) (f : Fmt) (a b : VReg) (k : KReg) : KReg :=
  kOfBits f.lanes fun i =>
    kbit k i && cmpInt cc (laneVal f (lane a f.width i)) (laneVal f (lane b f.width i))

/-- R293: `vsel`. -/
def vecSel (f : Fmt) (a b : VReg) (k : KReg) : VRes :=
  wholeRes (ofLanes f.width f.lanes fun i => if kbit k i then lane a f.width i else lane b f.width i)

/-- The active lanes of a register as exact integers, in lane order. -/
def activeVals (f : Fmt) (a : VReg) (k : KReg) : List Int :=
  ((List.range f.lanes).filter (kbit k)).map fun i => laneVal f (lane a f.width i)

/-- R294: `vredsum`. -/
def vecRedSum (f : Fmt) (a : VReg) (k : KReg) : VRes :=
  wholeRes (BitVec.ofNat 4096 (wrapInt ((activeVals f a k).foldl (· + ·) 0) 32))

/-- R294: least and greatest value of a format. -/
def fmtLeast (f : Fmt) : Int := if f.signed then -(2 ^ (f.width - 1) : Nat) else 0
def fmtGreatest (f : Fmt) : Int := if f.signed then (2 ^ (f.width - 1) : Nat) - 1 else (2 ^ f.width : Nat) - 1

/-- R294: `vredmax` and `vredmin`. -/
def vecRedMax (f : Fmt) (a : VReg) (k : KReg) : VRes :=
  wholeRes (BitVec.ofNat 4096 (wrapInt ((activeVals f a k).foldl max (fmtLeast f)) f.width))
def vecRedMin (f : Fmt) (a : VReg) (k : KReg) : VRes :=
  wholeRes (BitVec.ofNat 4096 (wrapInt ((activeVals f a k).foldl min (fmtGreatest f)) f.width))

/-- R295: `vbcst`, `vrot`, `vperm`. -/
def vecBcst (f : Fmt) (a : VReg) (j : Nat) (k : KReg) : VRes :=
  laneRes f.width f.lanes k fun _ => lane a f.width j
def vecRot (f : Fmt) (a : VReg) (r : Nat) (k : KReg) : VRes :=
  laneRes f.width f.lanes k fun i => lane a f.width ((i + r) % f.lanes)
def vecPerm (f : Fmt) (a b : VReg) (k : KReg) : VRes :=
  let g := min f.lanes (2 ^ f.width)
  laneRes f.width f.lanes k fun i => lane a f.width (g * (i / g) + lane b f.width i % g)

/-- A result over two registers d and d + 1 whose lanes both follow the predicate (R296). -/
def pairRes (w n : Nat) (k : KReg) (f : Nat → Nat → Nat) : VRes :=
  { outs := [0, 1].map fun j =>
      { reg := j, mask := laneMask w n k, val := ofLanes w n fun i => if kbit k i then f j i else 0 }
    flags := 0 }

/-- R296: `vzip`. -/
def vecZip (f : Fmt) (a b : VReg) (k : KReg) : VRes :=
  pairRes f.width f.lanes k fun j i =>
    let m := f.lanes * j + i
    if m % 2 = 0 then lane a f.width (m / 2) else lane b f.width (m / 2)

/-- R296: `vunzip`. -/
def vecUnzip (f : Fmt) (a a1 : VReg) (k : KReg) : VRes :=
  pairRes f.width f.lanes k fun j i =>
    let m := 2 * i + j
    if m < f.lanes then lane a f.width m else lane a1 f.width (m - f.lanes)

/-- R297: `vpack`. -/
def vecPack (f : Fmt) (pm : PackMod) (a a1 : VReg) (k : KReg) : VRes :=
  laneRes f.width f.lanes k fun i =>
    let v := wideVal f (2 * f.width) (groupLane [a, a1] (2 * f.width) 2 i)
    match pm with
    | .wrap => wrapInt v f.width
    | .sats => wrapInt (satS f.width v) f.width
    | .satn => wrapInt (satN f.width v) f.width

/-- R297: `vunpack`. -/
def vecUnpack (f : Fmt) (a : VReg) (k : KReg) : VRes :=
  spreadRes (2 * f.width) f.lanes 2 k fun i => wrapInt (laneVal f (lane a f.width i)) (2 * f.width)

/-- R111: canonical digit p of an integer. -/
def d9Digit : Nat → Int → Int
  | 0, w => (w + 4) % 9 - 4
  | p + 1, w => d9Digit p ((w - ((w + 4) % 9 - 4)) / 9)

/-- R108: the code of a digit from -4 to 4; zero is 0x0. -/
def d9Code (d : Int) : Nat := if d ≥ 0 then d.toNat else 8 + (-d).toNat

/-- R108: the value of a digit code, and whether it is invalid. -/
def d9Val (c : Nat) : Int × Bool :=
  let m := c % 8
  if m > 4 then (0, true) else (if c % 16 < 8 then (m : Int) else -(m : Int), false)

/-- R109: trit i of a TW5 byte, and whether the byte is invalid. -/
def tw5Trit (b i : Nat) : Int × Bool :=
  if b % 256 ≥ 243 then (0, true) else ((b % 256 / 3 ^ i % 3 : Nat) - 1, false)

/-- R109: the byte of five trits. -/
def tw5Byte (t : Nat → Int) : Nat :=
  (List.range 5).foldl (fun acc i => acc + (t i + 1).toNat * 3 ^ i) 0

/-- R298: `vdpack`. -/
def vecDpack (f : Fmt) (a a1 : VReg) (p : Nat) : VRes :=
  wholeRes (ofLanes 4 1024 fun i =>
    let src := if i < 512 then a else a1
    d9Code (d9Digit p (laneVal f (lane src 8 (i % 512)))))

/-- R299: the trit of a weight element. -/
def tritOf (f : Fmt) (x : Nat) : Int :=
  if f.signed then max (-1) (min 1 (laneVal f x)) else min (laneVal f x) 2 - 1

/-- R299: `vtpack`. -/
def vecTpack (f : Fmt) (rows : List VReg) : VRes :=
  wholeRes (ofLanes 8 412 fun i =>
    let row := rows.getD (i / 103) 0
    let j := i % 103
    tw5Byte fun t => if 5 * j + t < 512 then tritOf f (lane row 8 (5 * j + t)) else 0)

end Sys2Proof.Machine
end

