-- ==== Sys2Proof/Machine/Float.lean ====
section
/-!
DEFINITION. Sys2Proof/Machine/Float.lean: floating-point codes (R94, R95), rounding of an exact value (R100), the
conversions (R101 to R104), the arithmetic of R303 to R307 and the block-fixed transforms (R309, R310). Exact values
are integers over a power of two, or quotients of naturals; nothing is approximated.
-/
namespace Sys2Proof.Machine

/-- Rounding modes (R97). -/
inductive RMode where | rne | rtz | rup | rdn
  deriving DecidableEq, Repr

/-- ROUND.MODE (R97). -/
def RMode.ofCode (n : Nat) : RMode :=
  match n % 4 with | 0 => .rne | 1 => .rtz | 2 => .rup | _ => .rdn

/-- R237: the mode of a binary operation. -/
def rndBMode (round : RMode) : RndB → RMode | .mode => round | .rne => .rne | .rtz => .rtz
/-- R237: the mode of a unary operation. -/
def rndUMode (round : RMode) : RndU → RMode
  | .mode => round | .rne => .rne | .rtz => .rtz | .rup => .rup | .rdn => .rdn

/-! ### FLAGS bits (R98) -/
def flagNX : Nat := 1
def flagUF : Nat := 2
def flagOF : Nat := 4
def flagDZ : Nat := 8
def flagNV : Nat := 16
def flagFMT : Nat := 32

/-- A code and the flags it raises. -/
abbrev FRes := Nat × Nat

/-- R94: fraction bits. -/
def fracBits : Fmt → Nat | .f32 => 23 | .f16 => 10 | .bf16 => 7 | .e4m3 => 3 | .e5m2 => 2 | _ => 0
/-- R94: exponent bits. -/
def expBits : Fmt → Nat | .f32 => 8 | .f16 => 5 | .bf16 => 8 | .e4m3 => 4 | .e5m2 => 5 | _ => 0
/-- R94: exponent bias. -/
def fbias : Fmt → Nat | .f32 => 127 | .f16 => 15 | .bf16 => 127 | .e4m3 => 7 | .e5m2 => 15 | _ => 0
/-- R94: whether the format has infinities. -/
def hasInf : Fmt → Bool | .e4m3 => false | _ => true
/-- R95: the magnitude of the largest finite code. -/
def maxCode (f : Fmt) : Nat :=
  if hasInf f then (2 ^ expBits f - 1) * 2 ^ fracBits f - 1 else 2 ^ (f.width - 1) - 2
/-- The sign bit set. -/
def signBit (f : Fmt) (s : Bool) : Nat := if s then 2 ^ (f.width - 1) else 0
/-- R95: the infinity of a sign, for a format that has one. -/
def infCode (f : Fmt) (s : Bool) : Nat := signBit f s + (2 ^ expBits f - 1) * 2 ^ fracBits f
/-- R95: the largest finite code of a sign. -/
def maxFin (f : Fmt) (s : Bool) : Nat := signBit f s + maxCode f
/-- R95: the default NaN. -/
def defNaN (f : Fmt) : Nat :=
  if hasInf f then (2 ^ expBits f - 1) * 2 ^ fracBits f + 2 ^ (fracBits f - 1) else 0x7f

/-- The magnitude bits of a code. -/
def magBits (f : Fmt) (c : Nat) : Nat := c % 2 ^ (f.width - 1)
/-- The sign of a code. -/
def fsign (f : Fmt) (c : Nat) : Bool := bitAt c (f.width - 1)
/-- R95: a NaN code. -/
def isNaN (f : Fmt) (c : Nat) : Bool :=
  if hasInf f then magBits f c > (2 ^ expBits f - 1) * 2 ^ fracBits f else magBits f c == 0x7f
/-- R95: an infinity. -/
def isInf (f : Fmt) (c : Nat) : Bool := hasInf f && magBits f c == (2 ^ expBits f - 1) * 2 ^ fracBits f
/-- R95: a signalling NaN; E4M3 has none. -/
def isSNaN (f : Fmt) (c : Nat) : Bool := isNaN f c && hasInf f && !bitAt c (fracBits f - 1)
/-- A zero of either sign. -/
def isZero (f : Fmt) (c : Nat) : Bool := magBits f c == 0
/-- R96: a NaN code with its quiet bit set. -/
def quiet (f : Fmt) (c : Nat) : Nat :=
  if bitAt c (fracBits f - 1) then c else c + 2 ^ (fracBits f - 1)

/-- The scale of exact values: every finite value of every format is an integer over 2^149 (R94). -/
def fscale : Nat := 149

/-- R94: the exact value of a finite code, times 2^149. -/
def fval (f : Fmt) (c : Nat) : Int :=
  let e := magBits f c / 2 ^ fracBits f
  let fr := magBits f c % 2 ^ fracBits f
  let sh := fscale + 1 - fbias f - fracBits f
  let m : Nat := if e = 0 then fr * 2 ^ sh else (2 ^ fracBits f + fr) * 2 ^ (sh + e - 1)
  if fsign f c then -m else m

/-- floor(log2 (num / den)) for positive num and den. -/
def floorLog2 (num den : Nat) : Int :=
  let l : Int := (Nat.log2 num : Int) - (Nat.log2 den : Int)
  if den * 2 ^ l.toNat ≤ num * 2 ^ (-l).toNat then l else l - 1

/-- Rounding of a quotient num / den to an integer by sign and mode: the integer and whether it is inexact (R100). -/
def roundQuot (s : Bool) (num den : Nat) (mode : RMode) : Nat × Bool :=
  let lo := num / den
  let r := num % den
  let up := match mode with
    | .rne => 2 * r > den || (2 * r == den && lo % 2 == 1)
    | .rtz => false
    | .rup => r > 0 && !s
    | .rdn => r > 0 && s
  (if up then lo + 1 else lo, r > 0)

/-- num / den divided by 2^e. -/
def scaleDown (num den : Nat) (e : Int) : Nat × Nat := (num * 2 ^ (-e).toNat, den * 2 ^ e.toNat)

/-- R100: RoundMode of the magnitude num / den with sign s. -/
def roundRat (f : Fmt) (s : Bool) (num den : Nat) (mode : RMode) : FRes :=
  if num = 0 then (signBit f s, 0)
  else
    let emin : Int := 1 - (fbias f : Int)
    let e0 := floorLog2 num den
    let e := max e0 emin
    let m : Int := fracBits f
    let q := scaleDown num den (e - m)
    let (k, inex) := roundQuot s q.1 q.2 mode
    let code := (e + (fbias f : Int) - 1).toNat * 2 ^ fracBits f + k
    let nx := if inex then flagNX else 0
    if code > maxCode f then
      let fl := flagOF + flagNX
      if !hasInf f then (maxFin f s, fl)
      else match mode with
        | .rne => (infCode f s, fl)
        | .rtz => (maxFin f s, fl)
        | .rup => (if s then maxFin f s else infCode f s, fl)
        | .rdn => (if s then infCode f s else maxFin f s, fl)
    else
      let qt := scaleDown num den (e0 - m)
      let kt := (roundQuot s qt.1 qt.2 mode).1
      let tiny := e0 < emin && !(e0 == emin - 1 && kt == 2 ^ (fracBits f + 1))
      (signBit f s + code, nx + (if inex && tiny then flagUF else 0))

/-- RoundMode of the exact value v / 2^k, with the given sign for zero. -/
def roundScaled (f : Fmt) (zs : Bool) (v : Int) (k : Nat) (mode : RMode) : FRes :=
  if v = 0 then (signBit f zs, 0) else roundRat f (v < 0) v.natAbs (2 ^ k) mode

/-! ### Conversions -/

/-- R101: a code of FP16, BF16, E4M3 or E5M2 as FP32; FP32 itself is unchanged. -/
def toFP32 (f : Fmt) (c : Nat) : Nat :=
  match f with
  | .f32 => c
  | _ =>
    let s := if fsign f c then 2 ^ 31 else 0
    if isNaN f c then
      if f = .e4m3 then s + 0x7fc00000
      else s + 0x7f800000 + c % 2 ^ fracBits f * 2 ^ (23 - fracBits f)
    else if isInf f c then s + 0x7f800000
    else (roundScaled .f32 (fsign f c) (fval f c) fscale .rne).1

/-- R102: an FP32 code as FP16, BF16, E4M3 or E5M2. -/
def fromFP32 (f : Fmt) (c : Nat) (mode : RMode) : FRes :=
  match f with
  | .f32 => (c, 0)
  | _ =>
    let s := fsign .f32 c
    if isNaN .f32 c then
      let nv := if bitAt c 22 then 0 else flagNV
      if f = .e4m3 then (signBit f s + 0x7f, nv)
      else
        let top := c % 2 ^ 23 / 2 ^ (23 - fracBits f)
        (quiet f (infCode f s + top), nv)
    else if isInf .f32 c then
      if hasInf f then (infCode f s, 0) else (maxFin f s, flagOF + flagNX)
    else roundScaled f s (fval .f32 c) fscale mode

/-- R308: a conversion between two float formats. -/
def cvtFloat (t f : Fmt) (c : Nat) (mode : RMode) : FRes := fromFP32 t (toFP32 f c) mode

/-- R104: an integer as a float. -/
def cvtFromInt (t : Fmt) (v : Int) (mode : RMode) : FRes := roundScaled t false v 0 mode

/-- R104: the exact value v / 2^k as an integer of format t. -/
def roundToInt (t : Fmt) (v : Int) (k : Nat) (mode : RMode) : FRes :=
  let (q, inex) := roundQuot (v < 0) v.natAbs (2 ^ k) mode
  let r : Int := if v < 0 then -(q : Int) else q
  let sat := satFmt t r
  if sat = r then (wrapInt r t.width, if inex then flagNX else 0)
  else (wrapInt sat t.width, flagNV)

/-- R104: a float code as an integer of format t. -/
def cvtToInt (t f : Fmt) (c : Nat) (mode : RMode) : FRes :=
  if isNaN f c then (0, flagNV)
  else if isInf f c then
    (wrapInt (if fsign f c then fmtLeast t else fmtGreatest t) t.width, flagNV)
  else roundToInt t (fval f c) fscale mode

/-- R308: one element converted from f to t. -/
def cvtElem (t f : Fmt) (c : Nat) (mode : RMode) : FRes :=
  if f.isInt then cvtFromInt t (laneVal f c) mode
  else if t.isInt then cvtToInt t f c mode
  else cvtFloat t f c mode

/-! ### Arithmetic -/

/-- R96: the first NaN of the operands, quietened, and NV if any operand is signalling. -/
def nanResult (f : Fmt) (cs : List Nat) : Option FRes :=
  match cs.find? (isNaN f) with
  | some c => some (quiet f c, if cs.any (isSNaN f) then flagNV else 0)
  | none => none

/-- R96: the sign of an exact zero sum of two addends of the given signs. -/
def zeroSumSign (sa sb : Bool) (mode : RMode) : Bool := if sa = sb then sa else mode == .rdn

/-- R303: A + B. -/
def fadd (f : Fmt) (mode : RMode) (a b : Nat) : FRes :=
  match nanResult f [a, b] with
  | some r => r
  | none =>
    if isInf f a && isInf f b && fsign f a != fsign f b then (defNaN f, flagNV)
    else if isInf f a then (a, 0)
    else if isInf f b then (b, 0)
    else roundScaled f (zeroSumSign (fsign f a) (fsign f b) mode) (fval f a + fval f b) fscale mode

/-- A code with its sign inverted. -/
def fnegCode (f : Fmt) (c : Nat) : Nat := if fsign f c then c - 2 ^ (f.width - 1) else c + 2 ^ (f.width - 1)

/-- R303: A - B. -/
def fsub (f : Fmt) (mode : RMode) (a b : Nat) : FRes :=
  match nanResult f [a, b] with
  | some r => r
  | none => fadd f mode a (fnegCode f b)

/-- R303: A × B. -/
def fmul (f : Fmt) (mode : RMode) (a b : Nat) : FRes :=
  match nanResult f [a, b] with
  | some r => r
  | none =>
    let s := fsign f a != fsign f b
    if (isInf f a && isZero f b) || (isZero f a && isInf f b) then (defNaN f, flagNV)
    else if isInf f a || isInf f b then (infCode f s, 0)
    else roundScaled f s (fval f a * fval f b) (2 * fscale) mode

/-- R303: D + A × B, or D - A × B with neg. The product's invalid case raises NV even beside a NaN addend. -/
def ffma (f : Fmt) (neg : Bool) (mode : RMode) (a b d : Nat) : FRes :=
  let invMul := (isInf f a && isZero f b) || (isZero f a && isInf f b)
  match nanResult f [a, b, d] with
  | some r => (r.1, if invMul then flagNV else r.2)
  | none =>
    let sp := (fsign f a != fsign f b) != neg
    if invMul then (defNaN f, flagNV)
    else if isInf f a || isInf f b then
      if isInf f d && fsign f d != sp then (defNaN f, flagNV) else (infCode f sp, 0)
    else if isInf f d then (d, 0)
    else
      let p := fval f a * fval f b
      let x := fval f d * 2 ^ fscale + (if neg then -p else p)
      roundScaled f (zeroSumSign (fsign f d) sp mode) x (2 * fscale) mode

/-- R304: a key whose order ranks the non-NaN codes with -0 below +0. -/
def fkey (f : Fmt) (c : Nat) : Int := if fsign f c then -(magBits f c : Int) - 1 else magBits f c

/-- R304: `vfmin` and `vfmax`. -/
def fminmax (f : Fmt) (isMax : Bool) (a b : Nat) : FRes :=
  match nanResult f [a, b] with
  | some r => r
  | none =>
    let ka := fkey f a
    let kb := fkey f b
    (if isMax then (if kb > ka then b else a) else (if kb < ka then b else a), 0)

/-- R306: a comparison and its flags. -/
def fcmp (f : Fmt) (cc : VFCmpOp) (a b : Nat) : Bool × Nat :=
  let nan := isNaN f a || isNaN f b
  let snan := isSNaN f a || isSNaN f b
  let nvS := if snan then flagNV else 0
  let nvN := if nan then flagNV else 0
  -- infinities compare by their keys; a zero of either sign counts as 0
  let key := fun c => if isZero f c then (0 : Int) else if fsign f c then -(magBits f c : Int) else magBits f c
  match cc with
  | .eq => (!nan && key a == key b, nvS)
  | .lt => (!nan && key a < key b, nvN)
  | .le => (!nan && key a ≤ key b, nvN)
  | .un => (nan, nvS)

/-- The flags of the active lanes ORed together (R98, R301). -/
def orFlags (n : Nat) (k : KReg) (f : Nat → Nat) : Nat :=
  (List.range n).foldl (fun acc i => if kbit k i then acc ||| f i else acc) 0

/-- A float lane operation (R287, R301). -/
def fLaneRes (f : Fmt) (k : KReg) (op : Nat → FRes) : VRes :=
  { laneRes f.width f.lanes k (fun i => (op i).1) with flags := orFlags f.lanes k fun i => (op i).2 }

def vecFadd (f : Fmt) (mode : RMode) (a b : VReg) (k : KReg) : VRes :=
  fLaneRes f k fun i => fadd f mode (lane a f.width i) (lane b f.width i)
def vecFsub (f : Fmt) (mode : RMode) (a b : VReg) (k : KReg) : VRes :=
  fLaneRes f k fun i => fsub f mode (lane a f.width i) (lane b f.width i)
def vecFmul (f : Fmt) (mode : RMode) (a b : VReg) (k : KReg) : VRes :=
  fLaneRes f k fun i => fmul f mode (lane a f.width i) (lane b f.width i)
def vecFma (f : Fmt) (neg : Bool) (mode : RMode) (d a b : VReg) (k : KReg) : VRes :=
  fLaneRes f k fun i => ffma f neg mode (lane a f.width i) (lane b f.width i) (lane d f.width i)
def vecFminmax (f : Fmt) (isMax : Bool) (a b : VReg) (k : KReg) : VRes :=
  fLaneRes f k fun i => fminmax f isMax (lane a f.width i) (lane b f.width i)

/-- R305: `vfabs` and `vfneg` act on the code alone. -/
def vecFabs (f : Fmt) (a : VReg) (k : KReg) : VRes :=
  laneRes f.width f.lanes k fun i => magBits f (lane a f.width i)
def vecFneg (f : Fmt) (a : VReg) (k : KReg) : VRes :=
  laneRes f.width f.lanes k fun i => fnegCode f (lane a f.width i)

/-- R306: `vfcmp`: the predicate and the flags. -/
def vecFcmp (cc : VFCmpOp) (f : Fmt) (a b : VReg) (k : KReg) : KReg × Nat :=
  (kOfBits f.lanes fun i => kbit k i && (fcmp f cc (lane a f.width i) (lane b f.width i)).1,
   orFlags f.lanes k fun i => (fcmp f cc (lane a f.width i) (lane b f.width i)).2)

/-- R114: one level of the tree, an absent lane being none. -/
def treeLevel (op : Nat → Nat → FRes) : List (Option Nat) → List (Option Nat) × Nat
  | x :: y :: rest =>
    let (r, fl) := treeLevel op rest
    match x, y with
    | some a, some b => let z := op a b; (some z.1 :: r, z.2 ||| fl)
    | some a, none => (some a :: r, fl)
    | none, o => (o :: r, fl)
  | l => (l, 0)

/-- R114: the tree over 2^n lanes. -/
def treeReduce (op : Nat → Nat → FRes) : Nat → List (Option Nat) → Nat → Option Nat × Nat
  | 0, l, fl => ((l.getD 0 none), fl)
  | n + 1, l, fl =>
    let (l', f') := treeLevel op l
    treeReduce op n l' (fl ||| f')

/-- R307: `vfredsum`. -/
def vecFredsum (f : Fmt) (mode : RMode) (a : VReg) (k : KReg) : VRes :=
  let ls := (List.range f.lanes).map fun i => if kbit k i then some (lane a f.width i) else none
  let (r, fl) := treeReduce (fadd f mode) (Nat.log2 f.lanes) ls 0
  { wholeRes (BitVec.ofNat 4096 (r.getD 0)) with flags := fl }

/-- R308: `vcvt` from the source registers. -/
def vecCvt (t f : Fmt) (mode : RMode) (regs : List VReg) (k : KReg) : VRes :=
  let e := max f.lanes t.lanes
  let rs := e / f.lanes
  let rt := e / t.lanes
  let el := fun i => cvtElem t f (groupLane regs f.width rs i) mode
  { spreadRes t.width e rt k (fun i => (el i).1) with flags := orFlags e k fun i => (el i).2 }

/-! ### Block-fixed data (R106, R309, R310) -/

/-- R309: the magnitude of the greatest active finite lane of block j, times 2^149. -/
def blockMax (a : VReg) (k : KReg) (j : Nat) : Nat :=
  (List.range 32).foldl (fun m i =>
    let c := lane a 32 (32 * j + i)
    if kbit k (32 * j + i) && !isNaN .f32 c && !isInf .f32 c then max m (fval .f32 c).natAbs else m) 0

/-- R309: whether an active lane of block j is a NaN. -/
def blockNaN (a : VReg) (k : KReg) (j : Nat) : Bool :=
  (List.range 32).any fun i => kbit k (32 * j + i) && isNaN .f32 (lane a 32 (32 * j + i))

/-- R309: the exponent chosen for block j. -/
def blockExp (keep : Bool) (a d1 : VReg) (k : KReg) (j : Nat) : Nat :=
  if keep then lane d1 8 j
  else if blockNaN a k j then 255
  else
    let m := blockMax a k j
    if m = 0 then 0 else (min 254 (max 0 (floorLog2 m (2 ^ fscale) + 104))).toNat

/-- R309: lane i converted with exponent e. -/
def bfixElem (mode : RMode) (e c : Nat) : FRes :=
  if e = 255 then (0, flagNV)
  else if isNaN .f32 c then (0, flagNV)
  else if isInf .f32 c then (wrapInt (if fsign .f32 c then fmtLeast .i32 else fmtGreatest .i32) 32, flagNV)
  else roundToInt .i32 (fval .f32 c * 2 ^ (381 - e)) (fscale + 254) mode

/-- R309: `vbfix`. -/
def vecBfix (keep : Bool) (mode : RMode) (a d1 : VReg) (k : KReg) : VRes :=
  let e := blockExp keep a d1 k
  let el := fun i => bfixElem mode (e (i / 32)) (lane a 32 i)
  let nvBlock := if !keep && (List.range 4).any (blockNaN a k) then flagNV else 0
  let r := laneRes 32 128 k fun i => (el i).1
  { outs := r.outs ++ [{ reg := 1, mask := fullMask, val := ofLanes 8 4 e }]
    flags := orFlags 128 k (fun i => (el i).2) ||| nvBlock }

/-- R310: `vbflt`. -/
def vecBflt (mode : RMode) (a a1 : VReg) (k : KReg) : VRes :=
  fLaneRes .f32 k fun i =>
    let e := lane a1 8 (i / 32)
    if e = 255 then (defNaN .f32, flagNV)
    else roundScaled .f32 false (signExt (lane a 32 i) 32 * 2 ^ e) 127 mode

/-- R107: OrdKey as a 32-bit code. -/
def ordKey (c : Nat) : Int := signExt (if bitAt c 31 then Nat.xor (c % 2 ^ 32) 0x7fffffff else c) 32

end Sys2Proof.Machine
end

