-- ==== Sys2Proof/Machine/Flags.lean ====
section
/-!
DEFINITION. Sys2Proof/Machine/Flags.lean: FLAGS (R97 to R99, R301): the rounding mode that an operation reads at its
issue, and the raising of flags as a pending write that is ORed in at the landing bundle.
-/
namespace Sys2Proof.Machine

/-- R97, R300: ROUND.MODE of a context as landed. -/
def Ctx.mode (c : Ctx) : RMode := RMode.ofCode c.round

/-- R300: the mode of a binary or ternary operation. -/
def Ctx.modeB (c : Ctx) (r : RndB) : RMode := rndBMode c.mode r
/-- R300: the mode of a unary operation. -/
def Ctx.modeU (c : Ctx) (r : RndU) : RMode := rndUMode c.mode r

/-- R98, R301: flags raised by an operation of the present bundle, ORed into FLAGS lat bundles later. -/
def flagPends (c : Ctx) (sl : Slot) (lat flags : Nat) : List Pend :=
  if flags = 0 then [] else [mkPend c sl lat .flags (ones 6) flags]

end Sys2Proof.Machine
end

