-- ==== Sys2Proof/Machine/Operands.lean ====
section
/-!
DEFINITION. Sys2Proof/Machine/Operands.lean: the operand forms: immediates (R253 to R256), effective addresses (R262),
vector sources, pairs and quads (R123, R287), and where the result of a unit lands (R124, R125, R134, R253).
-/
namespace Sys2Proof.Machine

/-- R253: a signed 13-bit immediate. -/
def imm13 (i : BitVec 13) : Word := i.signExtend 64
/-- R256, R261: a signed 19-bit immediate. -/
def imm19 (i : BitVec 19) : Word := i.signExtend 64
/-- R246: a signed parcel offset as a byte distance. -/
def off25 (i : BitVec 25) : Word := i.signExtend 64 <<< (1 : Nat)
/-- R262: EA := base + SignExt(offset). -/
def ea (c : Ctx) (base : XNum) (off : BitVec 20) : Word := c.xr base + off.signExtend 64

/-- R124: the port of a scalar slot. -/
def sPort : SSlot → Tgt | .s0 => .pS0 | .s1 => .pS1
/-- R124: the port of a vector slot. -/
def vPort : VSlot → Tgt | .v0 => .pV0 | .v1 => .pV1 | .v2 => .pV2

/-- R253: an S-slot result in xd and in the slot's port, lat bundles later. -/
def sWrite (sl : SSlot) (lat : Nat) (d : XNum) (v : Word) (s : State) : SlotOut :=
  .ok (s.sched [mkPend s.me sl.slot lat (.x d.toNat) (ones 64) v.toNat,
    mkPend s.me sl.slot lat (sPort sl) (ones 64) v.toNat])

/-- R259: a condition, at latency 1. -/
def cWrite (sl : SSlot) (c : BitVec 3) (b : Bool) (s : State) : SlotOut :=
  .ok (s.sched [mkPend s.me sl.slot 1 (.c c.toNat) 1 (bnat b)])

/-- R123: the registers code to code + r - 1 of a pair or quad. -/
def Ctx.group (c : Ctx) (code : VCode) (r : Nat) : List VReg := (List.range r).map fun j => c.vr (code.toNat + j)

/-- R308: the registers of a group of r, a single one being any source code read at lane width w. -/
def Ctx.groupSrc (c : Ctx) (w : Nat) (code : VCode) (r : Nat) : List VReg :=
  if r = 1 then [c.vsrc w code] else c.group code r

/-- R123, R124, R301: where the result of a unit lands: the registers from d, the unit's port (which takes the first
register only), and the flags; code 774 discards all but the flags. -/
def resultPends (c : Ctx) (sl : Slot) (port : Tgt) (lat : Nat) (d : VCode) (r : VRes) : List Pend :=
  (if d.toNat < 768 then r.outs.map fun o => mkPend c sl lat (.v (d.toNat + o.reg)) o.mask.toNat o.val.toNat else [])
  ++ (if d.toNat = 774 then [] else (r.outs.take 1).map fun o => mkPend c sl lat port (ones 4096) o.val.toNat)
  ++ flagPends c sl lat r.flags

/-- A vector operation's result. -/
def vWrite (sl : VSlot) (lat : Nat) (d : VCode) (r : VRes) (s : State) : SlotOut :=
  .ok (s.sched (resultPends s.me sl.slot (vPort sl) lat d r))

/-- R292, R306: a compare's predicate and its flags. -/
def kWrite (sl : VSlot) (lat : Nat) (kd : KNum) (v : KReg) (flags : Nat) (s : State) : SlotOut :=
  .ok (s.sched ([mkPend s.me sl.slot lat (.k kd.toNat) (ones 1024) v.toNat] ++ flagPends s.me sl.slot lat flags))

/-- R134: the latency rows. -/
def latS : Nat := 1
def latMul : Nat := 3
def latDiv : Nat := 12
def latVInt : Nat := 2
def latVFloat : Nat := 4
def latPerm : Nat := 3
def latSpecial : Nat := 8
def latWit : Nat := 6

end Sys2Proof.Machine
end

