-- ==== Sys2Proof/Machine/Array.lean ====
section
/-!
DEFINITION. Sys2Proof/Machine/Array.lean: the M slot (R314 to R318) and the engine queue: the start of routines and what
can prevent it (R148, R149, R355, R357), how routines end (R150, R160), the drain slot (R154) and `mload` (R317).
-/
namespace Sys2Proof.Machine

/-! ### What an engine command waits for (R355, R357) -/

/-- Where two byte ranges meet. -/
def rangesMeet (a b : Range) : Bool := a.lo < b.hi && b.lo < a.hi
/-- Some range of one list meets some range of another. -/
def anyMeet (as bs : List Range) : Bool := as.any fun a => bs.any fun b => rangesMeet a b
/-- A write among near accesses; an atomic counts as one. -/
def AccOp.isWrite : AccOp → Bool | .load .. => false | _ => true

/-- The context of an owner, where it runs or where it is saved. -/
def State.ownerCtx (s : State) (o : Owner) : Ctx :=
  let c := s.ctx o.key
  if c.launch = o.launch then c
  else
    match ((s.core (keyCore o.key)).leanTo.toList ++ s.overflow).find? fun x => x.core == keyCore o.key && x.launch == o.launch with
    | some x => x.ctxs.get {} o.key
    | none => {}

/-- R355: every write that the owner issued before the access named `mark` has performed, and no buffered one is left in
the ranges the command names. -/
def earlierDone (s : State) (o : Owner) (mark : Nat) (rs : List Range) : Bool :=
  (!s.accesses.any fun a => a.key == o.key && a.agent == 0 && a.id < mark && a.op.isWrite)
  && !((s.ownerCtx o).sdue ++ (s.ownerCtx o).sbuf).any fun b => b.1 < mark && b.2.any fun c => rs.any fun r => r.lo ≤ c.1 && c.1 < r.hi

/-- R70: the D and G commands of a core whose ranges stand in the way: those running, and those that post in this cycle. -/
def runningCmds (s : State) (core : Nat) : List Cmd :=
  s.cmds.filterMap fun e => match e.2 with
    | some c => if (c.stage == .running || c.stage == .posted) && keyCore c.own.key == core then some c else none
    | none => none

/-- R148: the snapshot values that name stalls. -/
def stallParams (snap : List Word) : List Word := snap.filter fun v => isStallAddr v && addrStall v != 0

/-- The bytes of the stalls that a snapshot names (R357). -/
def snapRanges (s : State) (dev : Nat) (snap : List Word) : List Range :=
  (stallParams snap).map fun v => ((s.view dev).stall (addrStall v)).range

/-- R26: the reason for which a stall fails as a near stall of a core at one of the levels given, or the stall. -/
def engineStall (s : State) (core dev : Nat) (levels : List Nat) (a : Word) : Except Nat Stall :=
  let x := (s.view dev).stall (addrStall a)
  if !isStallAddr a then .error rsWRONGLEVEL
  else if x.id = 0 then .error rsOUTSIDE
  else if !levels.contains x.level || x.core ≠ core then .error rsWRONGLEVEL
  else if !x.live s.tick then .error rsEXPIRED
  else .ok x

/-- R148: the start checks in mp order: the first failing value with its reason, or the stalls to lien. -/
def startChecks (s : State) (core dev : Nat) : List Word → Except (Nat × Word) (List Nat)
  | [] => .ok []
  | v :: vs =>
    match engineStall s core dev [0, 1] v with
    | .error r => .error (r, v)
    | .ok x =>
      match startChecks s core dev vs with
      | .ok ids => .ok (x.id :: ids)
      | .error e => .error e

/-! ### Records and the queue -/

/-- R426: a record of the array engine. -/
def engRecord (o : Owner) (cmd count start : Nat) (addr : Word) (reason status : Nat) : Record :=
  mkRecord addr start 0 count 0 1 cmd reason status o.key

/-- R148: the head of the queue finishes in this cycle. -/
def State.popEntry (s : State) (n : Nat) : State :=
  s.modEng n fun e => { e with queue := e.queue.drop 1, finished := s.station }

/-- No unit is busy and no add is pending (R150, R154). -/
def Engine.idle (e : Engine) : Bool :=
  e.loader.isNone && e.stream.isNone && e.drain.isNone && e.mload.isNone && e.adds.isEmpty && e.replay.isEmpty

/-- R36, R76: REASON and ADDR of a record of the array engine: the first poisoned granule read, where nothing else failed. -/
def readReason (bad : Option Word) (reason : Nat) (addr : Word) : Nat × Word :=
  match bad with
  | some a => if reason = rsOK then (rsPOISON, a) else (reason, addr)
  | none => (reason, addr)

/-- R36, R150, R152, R318: a routine ends in this cycle: its liens are released and its record is posted. -/
def State.endRoutine (s : State) (n : Nat) (r : Routine) (reason status : Nat) (addr : Word) : State :=
  let e := readReason r.bad reason addr
  (((s.modEng n fun e => { e with routine := none }).popEntry n).release r.own.dev r.liens).postRecord r.own
    (engRecord r.own 1 r.idx r.start e.2 e.1 status)

/-- R147: the core's queue is full; a routine or `mload` in progress keeps its entry. -/
def engFull (s : State) : Bool := 4 ≤ (s.core s.myCore).eng.queue.length

/-- An entry accepted. -/
def State.enqueueM (s : State) (e : MEntry) : State :=
  s.modEng s.myCore fun g => { g with queue := g.queue ++ [e] }

/-- R148: the snapshot of mp0 to mp7. -/
def mpSnap (s : State) : List Word := (List.range 8).map fun i => (s.core s.myCore).mp.get 0 i

/-- R147, R148: acceptance of an entry that reserves a place in the event queue. -/
def acceptM (e : MEntry) (s : State) : SlotOut :=
  if engFull s || !s.me.evRoom then .hold .queue else .ok ((s.modCtx s.cur Ctx.reserve).enqueueM e)

/-! ### The M slot -/

/-- R315: an untimed `mcall`. -/
def slotMcall (idx : BitVec 10) (s : State) : SlotOut :=
  acceptM (.call s.owner idx.toNat (mpSnap s) false 0 s.station s.nextId) s
def execMcall (idx : BitVec 10) (s : State) : Host.Outcome State Fault Refusal := finishSlot .M s (slotMcall idx s)

/-- R149: the base of a timed `mcall`. -/
def mcallBase (c : Ctx) : Nat := match c.mbase with | some b => b | none => c.tstart

/-- R149, R315: a timed `mcall`. -/
def slotMcallT (idx : BitVec 10) (off : BitVec 16) (s : State) : SlotOut :=
  let start := mcallBase s.me + off.toNat
  match acceptM (.call s.owner idx.toNat (mpSnap s) true start s.station s.nextId) s with
  | .ok t => .ok (t.modCtx t.cur fun c => { c with mbase := some start })
  | r => r
def execMcallT (idx : BitVec 10) (off : BitVec 16) (s : State) : Host.Outcome State Fault Refusal :=
  finishSlot .M s (slotMcallT idx off s)

/-- R316: the MFMT bits that an `mcfg` carries. -/
def mcfgBits (w : McfgW) (nat sat : Bool) : Nat := bnat sat * 16 + bnat nat * 4 + w.code

/-- R316: `mcfg` reserves no entry of the event queue. -/
def slotMcfg (w : McfgW) (nat sat : Bool) (s : State) : SlotOut :=
  if engFull s then .hold .queue else .ok (s.enqueueM (.cfg (mcfgBits w nat sat) s.station))
def execMcfg (w : McfgW) (nat sat : Bool) (s : State) : Host.Outcome State Fault Refusal :=
  finishSlot .M s (slotMcfg w nat sat s)

/-- R317: `mload code`. -/
def slotMloadCode (s : State) : SlotOut := acceptM (.load s.owner false (mpSnap s) s.station) s
def execMloadCode (s : State) : Host.Outcome State Fault Refusal := finishSlot .M s (slotMloadCode s)
/-- R317: `mload table`. -/
def slotMloadTable (s : State) : SlotOut := acceptM (.load s.owner true (mpSnap s) s.station) s
def execMloadTable (s : State) : Host.Outcome State Fault Refusal := finishSlot .M s (slotMloadTable s)

/-- R318: the queue positions of the `mcall` entries that an owner's `mhalt` removes; the entry of a routine in progress is
not among them. -/
def haltRemoves (e : Engine) (o : Owner) (i : Nat) : Bool :=
  match e.queue[i]? with
  | some (.call own ..) => own.key == o.key && own.launch == o.launch && !(i == 0 && e.routine.isSome)
  | _ => false

/-- R318: a routine of the owner marked for halt. -/
def Routine.markHalt (o : Owner) (now : Nat) (r : Routine) : Routine :=
  if r.own.key == o.key && r.own.launch == o.launch && r.marked.isNone then { r with marked := some now } else r

/-- R318: the record of an `mcall` removed before it starts. -/
def removedRecord (now : Nat) : MEntry → List Record
  | .call own idx .. => [engRecord own 1 idx now 0 rsOK stNONE]
  | _ => []

/-- R160, R318: `mhalt` as it is accepted: the owner's waiting routines are removed, each posting STATUS NONE, and its
running one is marked. -/
def State.haltRoutines (s : State) : State :=
  let o := s.owner
  let e := (s.core s.myCore).eng
  let idx := List.range e.queue.length
  let gone := (idx.filter (haltRemoves e o)).filterMap fun i => e.queue[i]?
  let kept := (idx.filter fun i => !haltRemoves e o i).filterMap fun i => e.queue[i]?
  let s := s.modEng s.myCore fun e =>
    { e with queue := kept ++ [.halt o s.station], routine := e.routine.map (Routine.markHalt o s.station) }
  (gone.flatMap (removedRecord s.station)).foldl (fun s r => s.postRecord o r) s

def slotMhalt (s : State) : SlotOut := if engFull s then .hold .queue else .ok s.haltRoutines
def execMhalt (s : State) : Host.Outcome State Fault Refusal := finishSlot .M s (slotMhalt s)

/-! ### Starting a routine (R148, R149) -/

/-- R57: room for the liens of a snapshot. -/
def snapRoom (s : State) (dev : Nat) (snap : List Word) : Bool :=
  lienRoom (s.dev dev) ((stallParams snap).map addrStall)

/-- R148, R149, R355, R357: a routine at the head of the queue of core n can start in this cycle. -/
def callReady (s : State) (n : Nat) (own : Owner) (snap : List Word) (accepted mark : Nat) : Bool :=
  let e := (s.core n).eng
  e.routine.isNone && e.mload.isNone && e.finished < s.station && accepted < s.station && !(s.core n).stopping
  && earlierDone s own mark (snapRanges s own.dev snap)
  && (!(runningCmds s n).any fun c => anyMeet c.writes (snapRanges s own.dev snap))
  && snapRoom s own.dev snap

/-- R148: the head of core n's queue starts now; none where it does not. -/
def startingCall (s : State) (n : Nat) : Option (Owner × Nat × List Word) :=
  match (s.core n).eng.queue with
  | .call own idx snap timed at_ accepted mark :: _ =>
    if callReady s n own snap accepted mark && (!timed || (at_ == s.station && accepted < at_)) then some (own, idx, snap)
    else none
  | _ => none

/-- R146: V of a routine-table entry. What becomes of an entry whose reserved bits are not zero the spec leaves open: the model takes
it as invalid (log 136, DESIGN CHOICE). -/
def tableValid (w : Nat) : Bool := w % 2 ^ 16 / 2 ^ 10 == 32

/-- R26, R148: a start that fails: the record is posted, and the entry finishes. -/
def State.failCall (s : State) (n : Nat) (own : Owner) (idx : Nat) (addr : Word) (reason : Nat) : State :=
  (s.popEntry n).postRecord own (engRecord own 1 idx s.station addr reason stOK)

/-- R148: ROUTINE_START. -/
def execRoutineStart (s : State) : Host.Outcome State Fault Refusal :=
  let core := s.myCore
  match startingCall s core with
  | none => .next s
  | some (own, idx, snap) =>
    match startChecks s core own.dev (stallParams snap) with
    | .error (reason, v) => .next (s.failCall core own idx v reason)
    | .ok ids =>
      let w := (s.core core).eng.table.get 0 idx
      if tableValid w then
        .next ((s.placeLiens own.dev ids).modEng core fun e =>
          { e with routine := some { own := own, idx := idx, snap := snap, start := s.station, pc := w % 2 ^ 10, liens := ids
                                     issued := s.station } })
      else .next ((s.failCall core own idx (BitVec.ofNat 64 idx) rsENGINE).postAsync own 0x21 (BitVec.ofNat 64 idx))

/-- R149, R78: the entry at position i of core n's queue is a timed `mcall` that fails in this cycle. -/
def callLate (s : State) (n i : Nat) : Bool :=
  let e := (s.core n).eng
  match e.queue[i]? with
  | some (.call own _ snap true at_ accepted mark) =>
    let head := i == 0 && e.routine.isNone && e.mload.isNone
    if i == 0 && e.routine.isSome then false
    else if at_ ≤ accepted then accepted < s.station && !(s.core n).stopping
    else if at_ < s.station then head && !(s.core n).stopping
    else at_ == s.station && !(s.core n).stopping && !(head && callReady s n own snap accepted mark)
  | _ => false

/-- The position of the first such entry. -/
def lateIndex (s : State) (n : Nat) : Option Nat :=
  (List.range (s.core n).eng.queue.length).find? fun i => callLate s n i

/-- R149: ROUTINE_TIMING_FAILURE: START holds the stated start cycle, and the context takes cause 0x20. -/
def execRoutineTimingFailure (s : State) : Host.Outcome State Fault Refusal :=
  let core := s.myCore
  match lateIndex s core with
  | none => .next s
  | some i =>
    match (s.core core).eng.queue[i]? with
    | some (.call own idx _ _ at_ _ _) =>
      let t := s.modEng core fun e =>
        { e with queue := e.queue.eraseIdx i, finished := if i = 0 then s.station else e.finished }
      .next ((t.postRecord own (engRecord own 1 idx at_ 0 rsTIMING stOK)).postAsync own 0x20 0)
    | _ => .next s

/-! ### Other endings -/

/-- R150, R158: ROUTINE_ENGINE_ENDING, once every unit is idle and no add is pending. R158 gives no cycle to the record of a routine that a
refused row ends: the model posts it by the rule of R150 too (log 143, DESIGN CHOICE). -/
def execRoutineEngineEnding (s : State) : Host.Outcome State Fault Refusal :=
  let core := s.myCore
  let e := (s.core core).eng
  match e.routine with
  | none => .next s
  | some r =>
    match r.ending with
    | none => .next s
    | some w =>
      if !e.idle then .next s
      else match w with
        | .engine a =>
          .next ((s.endRoutine core r rsENGINE stOK (BitVec.ofNat 64 a)).postAsync r.own 0x21 (BitVec.ofNat 64 a))
        | .timing => .next ((s.endRoutine core r rsTIMING stOK 0).postAsync r.own 0x20 0)

/-- R318: the `mhalt` entries of an owner removed from a queue. -/
def dropHalts (o : Owner) (q : List MEntry) : List MEntry :=
  q.filter fun e => match e with | .halt own _ => !(own.key == o.key && own.launch == o.launch) | _ => true

/-- R318: a marked routine may end: no unit is busy but the loader, whose work is abandoned. -/
def Engine.haltDone (e : Engine) (now : Nat) (r : Routine) : Bool :=
  (match r.marked with | some m => m < now | none => false) && e.stream.isNone && e.drain.isNone && e.adds.isEmpty

/-- 512 free digits. -/
def freeRow (ctr : Nat) : Nat := packLanes 4 (fun n => (Config.freeDigit (ctr + n)).toNat) 512
/-- R318: the layer that an abandoned `ldst` was loading holds free digits. -/
def freeLayer (ctr : Nat) : Layer := (List.range 512).foldl (fun l k => l.set 0 k (freeRow (ctr + 512 * k))) []

/-- R318: the `ldst` of the loader is abandoned: no source builds its layer any longer. -/
def State.abandonLoad (s : State) (n : Nat) : State :=
  match (s.core n).eng.loader with
  | none => s
  | some l =>
    { s with freeCtr := s.freeCtr + 2 ^ 18 }.modEng n fun e =>
      { e with loader := none, shadow := e.shadow.set [] l.layer (freeLayer s.freeCtr), shaSrc := e.shaSrc.set 0 l.layer 0 }

/-- R318: an `mhalt` entry that leaves with no routine of its context running: in the cycle after its acceptance. -/
def haltLeaves (e : Engine) (now : Nat) : MEntry → Bool
  | .halt own accepted =>
    accepted < now && !(match e.routine with | some r => r.own.key == own.key && r.own.launch == own.launch | none => false)
  | _ => false

/-- R318: ROUTINE_HALTED: a marked routine ends with STATUS NONE, and its `mhalt` leaves the queue; an `mhalt` with no
routine of its context leaves by itself. -/
def execRoutineHalted (s : State) : Host.Outcome State Fault Refusal :=
  let core := s.myCore
  let e := (s.core core).eng
  match e.routine with
  | some r =>
    if e.haltDone s.station r then
      .next (((s.abandonLoad core).endRoutine core r rsOK stNONE 0).modEng core fun e =>
        { e with queue := dropHalts r.own e.queue })
    else if e.queue.any (haltLeaves e s.station) then
      .next (s.modEng core fun e => { e with queue := e.queue.filter fun q => !haltLeaves e s.station q })
    else .next s
  | none =>
    if e.queue.any (haltLeaves e s.station) then
      .next (s.modEng core fun e =>
        { e with queue := e.queue.filter fun q => !haltLeaves e s.station q, finished := s.station })
    else .next s

/-! ### The drain slot (R154, R317) -/

/-- R317: an `mload`'s parameters: first index and count, or none where they are outside the limits. -/
def mloadParams (table : Bool) (mp1 : Word) : Option (Nat × Nat) :=
  let first := natField mp1.toNat 0 10
  let count := natField mp1.toNat 16 11
  let size := if table then 64 else 1024
  if count = 0 || size < first + count || mp1.toNat / 2 ^ 27 ≠ 0 || natField mp1.toNat 10 6 ≠ 0 then none
  else some (first, count)

/-- R317: bytes of an entry. -/
def mloadSize (table : Bool) : Nat := if table then 2 else 8

/-- R317: the source of an `mload` that can start, with its first index and count, or REASON and ADDR of its failure. -/
def mloadSource (s : State) (n : Nat) (own : Owner) (table : Bool) (snap : List Word) : Except (Nat × Word) (Stall × Nat × Nat) :=
  let a := snap.getD 0 0
  match mloadParams table (snap.getD 1 0) with
  | none => .error (rsBADPARAM, 0)
  | some (first, count) =>
    match engineStall s n own.dev [1] a with
    | .error r => .error (r, a)
    | .ok x => if 64 * x.len < addrOffset a + count * mloadSize table then .error (rsOUTSIDE, a) else .ok (x, first, count)

/-- R57, R317: an `mload` waits at its drain slot for room for its lien. -/
def loadWaits (s : State) (n : Nat) (own : Owner) (table : Bool) (snap : List Word) : Bool :=
  match mloadSource s n own table snap with
  | .error _ => false
  | .ok x => !lienRoom (s.dev own.dev) [x.1.id]

/-- R317: an `mload` at its drain slot: its start, or the record of its failure with REASON and ADDR. -/
def State.startLoad (s : State) (n : Nat) (own : Owner) (table : Bool) (snap : List Word) : State :=
  match mloadSource s n own table snap with
  | .error e => (s.popEntry n).postRecord own (engRecord own 3 0 s.station e.2 e.1 stOK)
  | .ok (x, first, count) =>
    (s.placeLiens own.dev [x.id]).modEng n fun e =>
      { e with mload := some { own := own, table := table, src := x.at (snap.getD 0 0), first := first, count := count
                               start := s.station, lien := x.id } }

/-- R154: the drain slot of the entry at the head of core n's queue: every earlier entry has finished, no unit is busy and no
add is pending. It does not come before the cycle after the entry's acceptance (log 27). -/
def drainNow (s : State) (n : Nat) : Bool :=
  let e := (s.core n).eng
  e.routine.isNone && e.idle && !(s.core n).stopping && (match e.queue with
    | .cfg _ accepted :: _ => accepted < s.station
    | .load own table snap accepted :: _ => accepted < s.station && !loadWaits s n own table snap
    | _ => false)

/-- R154: DRAIN_SLOT: the `mcfg` or `mload` at the head takes effect. -/
def execDrainSlot (s : State) : Host.Outcome State Fault Refusal :=
  let core := s.myCore
  if !drainNow s core then .next s
  else match (s.core core).eng.queue with
    | .cfg m _ :: _ => .next ((s.popEntry core).modEng core fun e => { e with mfmt := m })
    | .load own table snap _ :: _ => .next (s.startLoad core own table snap)
    | _ => .next s

/-- R317: entry i of an `mload`, read from near storage. -/
def mloadEntry (s : State) (l : MLoad) (i : Nat) : Nat :=
  bytesToNat (s.mem.readN (l.src + i * mloadSize l.table) (mloadSize l.table))

/-- R317: one cycle of an `mload`: 64 bytes are read, and each entry whose last byte is among them is written. -/
def State.loadStep (s : State) (n : Nat) (l : MLoad) : State :=
  let per := 64 / mloadSize l.table
  let now := (List.range per).filterMap fun j => if l.done + j < l.count then some (l.done + j) else none
  s.modEng n fun e =>
    let e := if l.table
      then { e with table := now.foldl (fun t i => t.set 0 (l.first + i) (mloadEntry s l i)) e.table }
      else { e with store := now.foldl (fun t i => t.set 0 (l.first + i) (BitVec.ofNat 64 (mloadEntry s l i))) e.store }
    { e with mload := some { l with done := l.done + now.length } }

/-- R317: MLOAD_COMPLETE, in the cycle after the last write. -/
def execMloadComplete (s : State) : Host.Outcome State Fault Refusal :=
  let core := s.myCore
  match (s.core core).eng.mload with
  | some l =>
    if l.done < l.count then .next s
    else
      let e := readReason l.bad rsOK 0
      .next ((((s.modEng core fun e => { e with mload := none }).popEntry core).release l.own.dev [l.lien]).postRecord l.own
        (engRecord l.own 3 l.count l.start e.2 e.1 stOK))
  | none => .next s

/-- R120, R261: staged mp and rt take effect in the next cycle. -/
def Core.landStg (k : Core) : Core :=
  k.stg.foldl (fun k e => if e.1 then { k with rt := k.rt.set 0 e.2.1 e.2.2 } else { k with mp := k.mp.set 0 e.2.1 e.2.2 }) { k with stg := [] }

end Sys2Proof.Machine
end

