-- ==== Sys2Proof/Machine/Branch.lean ====
section
/-!
DEFINITION. Sys2Proof/Machine/Branch.lean: the B slot (R245 to R252): targets, transfers, the link of `call` and hardware
loops. The pc of the issuing context is the head of the bundle.
-/
namespace Sys2Proof.Machine

/-- R247: a taken transfer of the present bundle takes effect three bundles later; it is counted as an event (R408). -/
def State.transferAs (s : State) (ev : Nat) (target : Word) : State :=
  s.modCtx s.cur fun c => { c.countEv ev 1 with xfers := c.xfers ++ [{ at_ := c.bundle + 3, target := target }] }
/-- R247, R408: a taken transfer other than `ret`. -/
def State.transfer (s : State) (target : Word) : State := s.transferAs 0x03 target

/-- The code that the issuing context runs. -/
def State.myCode (s : State) : List Byte := codeOf (s.core s.myCore) s.me.ring

/-- R250: the writes of lcn, from slot B at latency 1. -/
def loopPends (c : Ctx) (n : Nat) (beg last : Word) (count : Nat) : List Pend :=
  [mkPend c .B 1 (.lbeg n) (ones 64) beg.toNat, mkPend c .B 1 (.lend n) (ones 64) last.toNat,
   mkPend c .B 1 (.lcnt n) (ones 64) (lcntWord true (count - 1)).toNat]

/-- R250: opening loop n with count N and a last bundle off parcels from the head H. With N = 0 the bundle after the body
is the next one. -/
def openLoop (n N off : Nat) (s : State) : SlotOut :=
  let h := s.me.pc
  let hn := nextHead s.myCode h
  let e := h + BitVec.ofNat 64 (2 * off)
  if e.toNat < hn.toNat then .trap 0x02 0
  else if N = 0 then
    .ok ((s.sched [mkPend s.me .B 1 (.lcnt n) (ones 64) 0]).modCtx s.cur fun c => { c with skipTo := some (nextHead s.myCode e) })
  else .ok (s.sched (loopPends s.me n hn e N))

/-- R246: `ptg`. -/
def slotPtg (t : BitVec 2) (off : BitVec 25) (s : State) : SlotOut := 
  .ok (s.sched [mkPend s.me .B 1 (.t t.toNat) (ones 64) (s.me.pc + off25 off).toNat])
def execPtg (t : BitVec 2) (off : BitVec 25) (s : State) : Host.Outcome State Fault Refusal := finishSlot .B s (slotPtg t off s)
/-- R248: `br`. -/
def slotBr (c : BitVec 3) (t : BitVec 2) (s : State) : SlotOut := 
  .ok (if s.me.cr c then s.transfer (s.me.tr t) else s)
def execBr (c : BitVec 3) (t : BitVec 2) (s : State) : Host.Outcome State Fault Refusal := finishSlot .B s (slotBr c t s)
/-- R248: `bra`. -/
def slotBra (t : BitVec 2) (s : State) : SlotOut := .ok (s.transfer (s.me.tr t))
def execBra (t : BitVec 2) (s : State) : Host.Outcome State Fault Refusal := finishSlot .B s (slotBra t s)
/-- R248: `brx`. -/
def slotBrx (x : XNum) (s : State) : SlotOut := .ok (s.transfer (s.me.xr x))
def execBrx (x : XNum) (s : State) : Host.Outcome State Fault Refusal := finishSlot .B s (slotBrx x s)
/-- R249: `call`; no port receives the link. -/
def slotCall (x : XNum) (t : BitVec 2) (s : State) : SlotOut := 
  .ok ((s.transfer (s.me.tr t)).sched [mkPend s.me .B 1 (.x x.toNat) (ones 64) (linkOf s.myCode s.me.pc).toNat])
def execCall (x : XNum) (t : BitVec 2) (s : State) : Host.Outcome State Fault Refusal := finishSlot .B s (slotCall x t s)
/-- R248: `ret`, to the performance counters another operation than `brx`. -/
def slotRet (x : XNum) (s : State) : SlotOut := .ok (s.transferAs 0x04 (s.me.xr x))
def execRet (x : XNum) (s : State) : Host.Outcome State Fault Refusal := finishSlot .B s (slotRet x s)
/-- R250: `loop`. -/
def slotLoop (lc : BitVec 2) (x : XNum) (off : BitVec 19) (s : State) : SlotOut := 
  openLoop lc.toNat ((s.me.xr x).toNat % 2 ^ 32) off.toNat s
def execLoop (lc : BitVec 2) (x : XNum) (off : BitVec 19) (s : State) : Host.Outcome State Fault Refusal := finishSlot .B s (slotLoop lc x off s)
/-- R250: `loopi`; the count 0 is reserved (R243). -/
def slotLoopi (lc : BitVec 2) (count : BitVec 13) (off : BitVec 12) (s : State) : SlotOut := 
  if count = 0 then .trap 0x02 0 else openLoop lc.toNat count.toNat off.toNat s
def execLoopi (lc : BitVec 2) (count : BitVec 13) (off : BitVec 12) (s : State) : Host.Outcome State Fault Refusal := finishSlot .B s (slotLoopi lc count off s)

end Sys2Proof.Machine
end

