-- ==== Sys2Proof/Machine/Csr.lean ====
section
/-!
DEFINITION. Sys2Proof/Machine/Csr.lean: control registers as `csrr` and `csrw` see them: which numbers exist (R121 and
the chapters that give each map), what a read returns (R260), and the counters of R408.
-/
namespace Sys2Proof.Machine

/-- R121: the least privileged ring of a number: 0 USER, 1 DRIVER, 2 HYP, 3 MON. -/
def csrRing (n : Nat) : Nat := n / 2 ^ 10 % 4

/-- The numbers that some chapter assigns. -/
def csrAssigned (n : Nat) : Bool :=
  n ≤ 0x003 || (0x008 ≤ n && n ≤ 0x00A) || (0x010 ≤ n && n ≤ 0x01C) || (0x020 ≤ n && n ≤ 0x02E)
    || (0x030 ≤ n && n ≤ 0x038) || (0x400 ≤ n && n ≤ 0x409) || (0x410 ≤ n && n ≤ 0x41A)
    || (0x800 ≤ n && n ≤ 0x81D) || (0x820 ≤ n && n ≤ 0x823) || n == 0x825 || n == 0x826
    || (0x830 ≤ n && n ≤ 0x834) || n == 0xC10

/-- R384: the ring of a context as a number. -/
def ringNat : CRing → Nat | .user => 0 | .driver => 1

/-- R260: the check of `csrr` and `csrw`: cause 0x02 for an unassigned number at any ring, 0x04 for a ring that may not
access it. -/
def csrCheck (ring : CRing) (n : Nat) : Option Nat :=
  if !csrAssigned n then some 0x02 else if ringNat ring < csrRing n then some 0x04 else none

/-- R11: COREID of a context. -/
def coreId (key : Nat) (elastic : Bool) : Nat := bnat elastic * 2 ^ 8 + key % 4 * 2 ^ 6 + keyCore key

/-- R408: whether the allow-list permits an event. -/
def pmAllowed (d : Device) (ev : Nat) : Bool := (d.pmallow.get 0 (ev / 64)).getLsbD (ev % 64)

/-- R408: whether a read or write of counter n of a context is denied. -/
def pmDenied (s : State) (c : Ctx) (n : Nat) : Bool := !pmAllowed (s.prior.get {} c.dev) (c.pmev.get 0 n)

/-- R260: the value a `csrr` of a context reads. Its own writes that have landed are included; a write from outside its
bundles in this very cycle is not, so registers of the package, the core and the device, WSTAT and the counters are read from the
values of the cycle's start, with its own landings. -/
def csrRead (s : State) (key n : Nat) : Word :=
  let c := s.ctx key
  let nat : Nat → Word := fun v => BitVec.ofNat 64 v
  if n = 0x000 then nat s.station
  else if n = 0x001 then nat (coreId key c.elastic)
  else if n = 0x002 then nat c.tstart
  else if n = 0x003 then BitVec.ofInt 64 ((s.prior.get {} c.dev).accts.get 0 c.acct)
  else if n = 0x008 then nat c.round
  else if n = 0x009 then nat c.flags
  else if n = 0x00A then nat c.wgen
  else if n = 0x01C then nat c.idleRem
  else if 0x010 ≤ n ∧ n ≤ 0x013 then c.lcnt.get 0 (n - 0x010)
  else if 0x014 ≤ n ∧ n ≤ 0x017 then c.lbeg.get 0 (n - 0x014)
  else if 0x018 ≤ n ∧ n ≤ 0x01B then c.lend.get 0 (n - 0x018)
  else if n = 0x020 then s.priorReg.get 0 (0x1000 + keyCore key)
  else if n = 0x021 then nat c.mstat
  else if n = 0x022 then nat c.gfmt
  else if n = 0x023 then nat s.pkgid
  else if 0x024 ≤ n ∧ n ≤ 0x027 then c.waddr.get 0 (n - 0x024)
  else if 0x028 ≤ n ∧ n ≤ 0x02B then c.wctl.get 0 (n - 0x028)
  else if n = 0x02C then c.wstat0
  else if n = 0x02D then nat (s.shedCount * 2 ^ 48 + s.shedGap)
  else if n = 0x02E then nat (s.prior.get {} c.dev).runtime
  else if 0x030 ≤ n ∧ n ≤ 0x033 then nat (c.pmev.get 0 (n - 0x030))
  else if 0x034 ≤ n ∧ n ≤ 0x037 then (if pmDenied s c (n - 0x034) then 0 else c.pmcnt0.get 0 (n - 0x034))
  else if n = 0x038 then nat c.pmstat
  else if 0x400 ≤ n ∧ n ≤ 0x409 then s.seenReg key n
  else if n = 0x410 then c.trapD.pc
  else if n = 0x411 then c.trapD.mask
  else if n = 0x412 then c.trapD.cause
  else if n = 0x413 then c.trapD.addr
  else if n = 0x414 then c.trapD.xa
  else if n = 0x415 then c.trapD.xb
  else if 0x416 ≤ n ∧ n ≤ 0x419 then c.dscr.get 0 (n - 0x416)
  else if n = 0x41A then s.seenReg key n
  else 0

/-- R260: `csrr`. A denied counter reads 0 and sets PMSTAT.DENIED as the read lands (R408). -/
def slotCsrr (sl : SSlot) (d : XNum) (num : BitVec 12) (s : State) : SlotOut :=
  match csrCheck s.me.ring num.toNat with
  | some code => .trap code 0
  | none =>
    let v := csrRead s s.cur num.toNat
    let den := 0x034 ≤ num.toNat && num.toNat ≤ 0x037 && pmDenied s s.me (num.toNat - 0x034)
    let port : Tgt := match sl with | .s0 => .pS0 | .s1 => .pS1
    .ok (s.sched ([mkPend s.me sl.slot 1 (.x d.toNat) (ones 64) v.toNat, mkPend s.me sl.slot 1 port (ones 64) v.toNat]
      ++ if den then [mkPend s.me sl.slot 1 .denied 1 1] else []))

/-- R260: `csrw`; a denied counter ignores it (R408), and so does an RO register (R6). -/
def slotCsrw (sl : SSlot) (num : BitVec 12) (a : XNum) (s : State) : SlotOut :=
  match csrCheck s.me.ring num.toNat with
  | some code => .trap code 0
  | none =>
    if 0x034 ≤ num.toNat && num.toNat ≤ 0x037 && pmDenied s s.me (num.toNat - 0x034) then .ok s
    else .ok (s.sched [mkPend s.me sl.slot 1 (.csr num.toNat) (ones 64) (s.me.xr a).toNat])

def execCsrr (sl : SSlot) (d : XNum) (num : BitVec 12) (s : State) : Host.Outcome State Fault Refusal :=
  finishSlot sl.slot s (slotCsrr sl d num s)
def execCsrw (sl : SSlot) (num : BitVec 12) (a : XNum) (s : State) : Host.Outcome State Fault Refusal :=
  finishSlot sl.slot s (slotCsrw sl num a s)

end Sys2Proof.Machine
end

