-- ==== Sys2Proof/Machine/Special.lean ====
section
/-!
DEFINITION. Sys2Proof/Machine/Special.lean: the seven special functions of V2 (R115, R116, R311). Reciprocal and roots
are rounded from exact quotients and integer roots. The others are irrational at every input that R311 does not list:
they are enclosed between two rationals until both ends round alike, which is then the rounding of the exact value.
-/
namespace Sys2Proof.Machine

/-- R115, R311: the last steps, from the rounded code to the cleared code. `exact z` says whether the cleared code's
value is the exact result. -/
def clearLow (y : FRes) (exact : Nat → Bool) : FRes :=
  let z := y.1 / 512 * 512
  let nx := if z ≠ y.1 then flagNX else 0
  let uf := if magBits .f32 z < 2 ^ 23 && !exact z then flagUF else 0
  (z, y.2 ||| nx ||| uf)

/-- R311: the finish for an exact magnitude num / den with sign s. -/
def finishExact (s : Bool) (num den : Nat) (mode : RMode) : FRes :=
  if num * 2 ^ fscale > den * (fval .f32 (maxCode .f32)).natAbs then (infCode .f32 s, flagOF + flagNX)
  else
    clearLow (roundRat .f32 s num den mode) fun z => (fval .f32 z).natAbs * den == num * 2 ^ fscale

/-- R115: NaN inputs. -/
def specialNaN (c : Nat) : FRes := (quiet .f32 c, if bitAt c 22 then 0 else flagNV)

/-- R115: `vrcp` of one code. -/
def rcpCode (mode : RMode) (c : Nat) : FRes :=
  let s := fsign .f32 c
  if isNaN .f32 c then specialNaN c
  else if isZero .f32 c then (infCode .f32 s, flagDZ)
  else if isInf .f32 c then (signBit .f32 s, 0)
  else finishExact s (2 ^ fscale) (fval .f32 c).natAbs mode

/-- Integer square root by the digit method: fuel binary digits from the top. -/
def isqrtAux : Nat → Nat → Nat → Nat
  | 0, _, r => r
  | k + 1, n, r => let t := r + 2 ^ k; isqrtAux k n (if t * t ≤ n then t else r)
/-- floor of the square root of a natural. -/
def isqrt (n : Nat) : Nat := isqrtAux (Nat.log2 n / 2 + 1) n 0

/-- The root of num / den to 2^-p, with a last bit set where the root is not exact (a value that every rounding to
fewer bits treats like the root): numerator over 2^p. -/
def stickyRoot (num den p : Nat) : Nat × Bool :=
  let q := num * 2 ^ (2 * p) / den
  let r := isqrt q
  let exact := r * r * den == num * 2 ^ (2 * p)
  (if exact then 2 * r else 2 * r + 1, exact)

/-- R116: the finish for a root. -/
def finishRoot (num den : Nat) (mode : RMode) : FRes :=
  let p := 200
  let (r, ex) := stickyRoot num den p
  let y := roundRat .f32 false r (2 ^ (p + 1)) mode
  clearLow y fun z => ex && (fval .f32 z).natAbs * 2 ^ (p + 1) == r * 2 ^ fscale

/-- R116: `vrsq` and `vsqrt` of one code. -/
def rsqCode (mode : RMode) (c : Nat) : FRes :=
  let s := fsign .f32 c
  if isNaN .f32 c then specialNaN c
  else if isZero .f32 c then (infCode .f32 s, flagDZ)
  else if s then (defNaN .f32, flagNV)
  else if isInf .f32 c then (0, 0)
  else finishRoot (2 ^ fscale) (fval .f32 c).natAbs mode
def sqrtCode (mode : RMode) (c : Nat) : FRes :=
  let s := fsign .f32 c
  if isNaN .f32 c then specialNaN c
  else if isZero .f32 c then (c, 0)
  else if s then (defNaN .f32, flagNV)
  else if isInf .f32 c then (c, 0)
  else finishRoot (fval .f32 c).natAbs (2 ^ fscale) mode

/-! ### Enclosures of the irrational functions. Fixed-point numbers have P fractional bits; every lower bound is a sum of
floors of positive terms, and an upper bound adds a margin far above the number of floors taken. -/

/-- Σ 1 / (k 2^k) for k from 1 to n: a lower bound of ln 2. -/
def ln2Lo (p : Nat) : Nat → Nat
  | 0 => 0
  | n + 1 => ln2Lo p n + 2 ^ p / ((n + 1) * 2 ^ (n + 1))

/-- The Taylor series of e^y, y < 1 in fixed point: a lower bound. -/
def expLoAux (p y : Nat) : Nat → Nat → Nat → Nat → Nat
  | 0, _, _, acc => acc
  | n + 1, i, t, acc => let t' := t * y / 2 ^ p / i; expLoAux p y n (i + 1) t' (acc + t')
def expLo (p y : Nat) : Nat := expLoAux p y p 1 (2 ^ p) (2 ^ p)

/-- The margin, in units of 2^-p. -/
def margin (p : Nat) : Nat := 1024 * p

/-- 2^(t / 2^p) for an integer t: the exponent and a mantissa interval in units of 2^-p. -/
def exp2Fix (p : Nat) (t : Int) : Int × Nat × Nat :=
  let n := t / (2 ^ p : Nat)
  let fr := (t % (2 ^ p : Nat)).toNat
  let lo := expLo p (fr * ln2Lo p p / 2 ^ p)
  (n, lo - margin p, lo + margin p)

/-- m · 2^n / 2^p as a quotient. -/
def scaleUp (m : Nat) (n : Int) (p : Nat) : Nat × Nat := (m * 2 ^ n.toNat, 2 ^ p * 2 ^ (-n).toNat)

/-- floor of (v / 2^149) · 2^p. -/
def toFix (v : Int) (p : Nat) : Int := v * (2 ^ p : Nat) / (2 ^ fscale : Nat)

/-- e^(v / 2^149), enclosed by two quotients, for |v / 2^149| ≤ 256. -/
def expEncl (p : Nat) (v : Int) : (Nat × Nat) × (Nat × Nat) :=
  let t := toFix v p * (2 ^ p : Nat) / (ln2Lo p p : Int)
  let (n, lo, hi) := exp2Fix p t
  (scaleUp lo n p, scaleUp hi n p)

/-- The series of 2 artanh z, z in fixed point: a lower bound of ln((1 + z) / (1 - z)). -/
def atanhAux (p z2 : Nat) : Nat → Nat → Nat → Nat → Nat
  | 0, _, _, acc => acc
  | n + 1, i, t, acc => let t' := t * z2 / 2 ^ p; atanhAux p z2 n (i + 2) t' (acc + t' / i)
def lnLo (p z : Nat) : Nat := 2 * atanhAux p (z * z / 2 ^ p) p 3 z z

/-- Try precisions until both ends of the enclosure round alike; the last try's lower end otherwise. -/
def zivRound (s : Bool) (mode : RMode) (encl : Nat → (Nat × Nat) × (Nat × Nat)) : List Nat → FRes
  | [] => (0, 0)
  | p :: ps =>
    let (lo, hi) := encl p
    let a := roundRat .f32 s lo.1 lo.2 mode
    let b := roundRat .f32 s hi.1 hi.2 mode
    if a == b then a else
    match ps with
    | [] => a
    | _ => zivRound s mode encl ps

/-- The precisions tried. -/
def zivPrec : List Nat := [96, 224]

/-- R311: the finish for an irrational result: it is inexact, and no code is exact. -/
def finishIrr (y : FRes) : FRes := let r := clearLow y fun _ => false; (r.1, r.2 ||| flagNX)

/-- A rounding of a value strictly between 0 and every representable step beside the quotient: any such value rounds as
this one does. -/
def proxyRound (s : Bool) (num den : Nat) (mode : RMode) : FRes := finishIrr (roundRat .f32 s num den mode)

/-- R311: `vexp2` of one code. -/
def exp2Code (mode : RMode) (c : Nat) : FRes :=
  let s := fsign .f32 c
  if isNaN .f32 c then specialNaN c
  else if isZero .f32 c then (0x3f800000, 0)
  else if isInf .f32 c then (if s then 0 else infCode .f32 false, 0)
  else
    let v := fval .f32 c
    let one : Int := (2 ^ fscale : Nat)
    if v ≥ 128 * one then (infCode .f32 false, flagOF + flagNX)
    else if v % one = 0 then
      -- an integer: 2^n exactly, far below the least subnormal for n < -200
      let n := max (v / one) (-200)
      finishExact false (2 ^ n.toNat) (2 ^ (-n).toNat) mode
    else if v < -200 * one then proxyRound false 1 (2 ^ 200) mode
    else if v.natAbs * 2 ^ 30 < 2 ^ fscale then
      -- within 2^-30 of 0: the result lies beside 1
      proxyRound false (if s then 2 ^ 40 - 1 else 2 ^ 40 + 1) (2 ^ 40) mode
    else
      finishIrr (zivRound false mode (fun p =>
        let (n, lo, hi) := exp2Fix p (toFix v p)
        (scaleUp lo n p, scaleUp hi n p)) zivPrec)

/-- R311: `vlog2` of one code. -/
def log2Code (mode : RMode) (c : Nat) : FRes :=
  let s := fsign .f32 c
  if isNaN .f32 c then specialNaN c
  else if isZero .f32 c then (infCode .f32 true, flagDZ)
  else if s then (defNaN .f32, flagNV)
  else if isInf .f32 c then (c, 0)
  else
    let v := (fval .f32 c).natAbs
    let e := Nat.log2 v
    if v = 2 ^ e then
      let n : Int := (e : Int) - fscale
      finishExact (n < 0) n.natAbs 1 mode
    else
      -- v = 2^e · (1 + z)/(1 - z), z = (v - 2^e)/(v + 2^e) < 1/3
      let neg := e < fscale
      finishIrr (zivRound neg mode (fun p =>
        let z := (v - 2 ^ e) * 2 ^ p / (v + 2 ^ e)
        let lo : Int := (lnLo p z * 2 ^ p / ln2Lo p p : Nat) - (margin p : Int)
        let hi : Int := lo + 2 * margin p
        let base : Int := ((e : Int) - fscale) * (2 ^ p : Nat)
        let a := (base + lo).natAbs
        let b := (base + hi).natAbs
        if neg then ((b, 2 ^ p), (a, 2 ^ p)) else ((a, 2 ^ p), (b, 2 ^ p))) zivPrec)

/-- R311: `vtanh` of one code. -/
def tanhCode (mode : RMode) (c : Nat) : FRes :=
  let s := fsign .f32 c
  if isNaN .f32 c then specialNaN c
  else if isZero .f32 c then (c, 0)
  else if isInf .f32 c then (signBit .f32 s + 0x3f800000, 0)
  else
    let v := (fval .f32 c).natAbs
    if v * 2 ^ 13 < 2 ^ fscale then
      -- below 2^-13: x (1 - 2^-27) < tanh x < x
      proxyRound s (v * (2 ^ 40 - 1)) (2 ^ fscale * 2 ^ 40) mode
    else if v ≥ 64 * 2 ^ fscale then proxyRound s (2 ^ 90 - 1) (2 ^ 90) mode
    else
      finishIrr (zivRound s mode (fun p =>
        let (lo, hi) := expEncl p (2 * v)
        ((lo.1 - lo.2, lo.1 + lo.2), (hi.1 - hi.2, hi.1 + hi.2))) zivPrec)

/-- R311: `vsigm` of one code. -/
def sigmCode (mode : RMode) (c : Nat) : FRes :=
  let s := fsign .f32 c
  if isNaN .f32 c then specialNaN c
  else if isZero .f32 c then (0x3f000000, 0)
  else if isInf .f32 c then (if s then 0 else 0x3f800000, 0)
  else
    let v := (fval .f32 c).natAbs
    if v * 2 ^ 30 < 2 ^ fscale then
      -- beside 1/2
      proxyRound false (if s then 2 ^ 39 - 1 else 2 ^ 39 + 1) (2 ^ 40) mode
    else if s && v ≥ 128 * 2 ^ fscale then proxyRound false 1 (2 ^ 180) mode
    else if !s && v ≥ 64 * 2 ^ fscale then proxyRound false (2 ^ 90 - 1) (2 ^ 90) mode
    else
      finishIrr (zivRound false mode (fun p =>
        let (lo, hi) := expEncl p v
        if s then ((hi.2, hi.1 + hi.2), (lo.2, lo.1 + lo.2))
        else ((lo.1, lo.1 + lo.2), (hi.1, hi.1 + hi.2))) zivPrec)

/-- R311: a special function over the active lanes. -/
def vecSpecial (fn : RMode → Nat → FRes) (mode : RMode) (a : VReg) (k : KReg) : VRes :=
  fLaneRes .f32 k fun i => fn mode (lane a 32 i)

end Sys2Proof.Machine
end

