-- ==== Sys2Proof/Machine/Watch.lean ====
section
/-!
DEFINITION. Sys2Proof/Machine/Watch.lean: watched ranges (R360, R361), foreign writes (R362, R364), and stores that clear
poison marks (R36).
-/
namespace Sys2Proof.Machine

/-- R360, R361: the watched range of watchpoint n. -/
def watchRange (c : Ctx) (n : Nat) : Nat × Nat :=
  let size := 2 ^ (natField (c.wctl.get 0 n).toNat 12 4 + 3)
  let lo := (c.waddr.get 0 n).toNat / size * size
  (lo, lo + size)

/-- A byte among n from an address lies in a watched range. -/
def inWatch (c : Ctx) (w : Nat) (a : Word) (n : Nat) : Bool :=
  let r := watchRange c w
  a.toNat < r.2 && r.1 < a.toNat + n

/-- R364: the record of a watch event. -/
def watchRecord (key n : Nat) (a : Word) (kind station : Nat) : Record := mkRecord a station kind n 0 5 1 rsOK stOK key

/-- R364: one watchpoint of a context meets a foreign write of n bytes at an address. -/
def Ctx.meetForeign (key station : Nat) (a : Word) (n kind : Nat) (c : Ctx) (w : Nat) : Ctx :=
  let k := c.wctl.get 0 w
  if k.getLsbD 3 && inWatch c w a n then
    let st := c.wstat.toNat
    let c := { c with wstat := BitVec.ofNat 64 (Nat.lor (mergeNat st (ones 8 * 2 ^ 24) (kind * 2 ^ 24)) (2 ^ w)) }
    if !k.getLsbD 4 then c
    else if c.evRoom then
      { c with evq := c.evq ++ [watchRecord key w (BitVec.ofNat 64 (max a.toNat (watchRange c w).1)) kind station] }
    else { c with wstat := c.wstat ||| BitVec.ofNat 64 (2 ^ (16 + w)) }
  else c

/-- R364: a context, by its key, meets a foreign write of n bytes at an address of a device. -/
def meetWatches (station dev : Nat) (a : Word) (n kind : Nat) (e : Nat × Ctx) : Nat × Ctx :=
  if e.2.dev == dev && e.2.alive then (e.1, (List.range 4).foldl (Ctx.meetForeign e.1 station a n kind) e.2) else e

/-- R364: a foreign write of n bytes at a device address of a device, for contexts where they run and where they are saved (R393,
R394). -/
def State.foreignWrite (s : State) (dev : Nat) (a : Word) (n kind : Nat) : State :=
  let meet := meetWatches s.station dev a n kind
  let saved := fun (x : SavedCore) => { x with ctxs := x.ctxs.map meet }
  { s with ctxs := s.ctxs.map meet, overflow := s.overflow.map saved
           cores := s.cores.map fun (e : Nat × Core) => (e.1, { e.2 with leanTo := e.2.leanTo.map saved }) }

/-- R36: granules of which every byte is among the cells. -/
def coversGranule (cells : List Host.Cell) (g : Nat) : Bool :=
  (List.range 64).all fun i => cells.any fun c => c.1 == g * 64 + i

/-- Bytes stored, without the errors that they had; a granule stored whole loses its poison mark (R36). -/
def State.storeCells (s : State) (cells : List Host.Cell) : State :=
  { s with mem := s.mem.writeCells cells, poison := s.poison.filter fun g => !coversGranule cells g
           flips := s.flips.filter fun e => !cells.any fun c => c.1 == e.1 }

end Sys2Proof.Machine
end

