-- ==== Sys2Proof/Machine/Near.lean ====
section
/-!
DEFINITION. Sys2Proof/Machine/Near.lean: the A slot (R262 to R269), the watchpoints of a context's own accesses (R360 to
R363), and the performing of accesses at their banks (R83 to R86). An access is checked at issue, in the order of R80, and
waits in State.accesses for the cycle in which it performs.
-/
namespace Sys2Proof.Machine

/-! ### Watchpoints (R363) -/

/-- R363: the watchpoints that an own access of the given kind matches. -/
def watchHits (c : Ctx) (rd wr : Bool) (chunks : List (Word × Nat)) : List Nat :=
  if c.watchOff then [] else
    (List.range 4).filter fun w =>
      let k := c.wctl.get 0 w
      ((rd && k.getLsbD 0) || (wr && k.getLsbD 1)) && chunks.any fun g => inWatch c w g.1 g.2

/-- R363: an own access that passed its checks: HIT is set, and a match with TRAP faults instead. -/
def watched (rd wr : Bool) (chunks : List (Word × Nat)) (a : Word) (s : State) (f : State → SlotOut) : SlotOut :=
  let hits := watchHits s.me rd wr chunks
  let bits := hits.foldl (fun b n => b + 2 ^ n) 0
  if hits.any fun w => (s.me.wctl.get 0 w).getLsbD 2 then .watch bits a
  else if hits.isEmpty then f s
  else f (s.setHits s.cur bits)

/-! ### Issuing an access -/

/-- An access put on its way: performing in cycle due, by agent A of the issuing context. -/
def State.addAccess (s : State) (due ord : Nat) (op : AccOp) (named : List Word := []) : State :=
  { s with nextId := s.nextId + 1
           accesses := s.accesses ++ [{ id := s.nextId, key := s.cur, agent := 0, born := s.station, due := due, ord := ord, op := op
                                        named := named }] }

/-- R84: a write of another agent that performs in this very cycle. -/
def State.agentStore (s : State) (key agent ord : Nat) (op : AccOp) : State :=
  { s with nextId := s.nextId + 1
           accesses := s.accesses ++ [{ id := s.nextId, key := key, agent := agent, born := s.station, due := s.station, ord := ord, op := op }] }

/-- R83: the perform cycle of an access to stalls all of the own core, or else of a sibling. -/
def performAt (s : State) (own : Bool) : Nat := s.station + (if own then 1 else 6)
/-- R83: the latency of a load. -/
def loadLat (own : Bool) (lat : Nat) : Nat := if own then lat else 13

/-- A destination of a load: all of `take` comes from memory, other bits of the mask are zero. -/
def loadDest (c : Ctx) (lat : Nat) (tgt : Tgt) (mask take : Nat) : Pend := mkPend c .A lat tgt mask take

/-- R123, R124, R264: the destinations of a vector load: the register under a mask, and pA with zeros outside it. -/
def vLoadDests (c : Ctx) (lat : Nat) (d : VCode) (mask : Nat) : List Pend :=
  (if d.toNat < 768 then [loadDest c lat (.v d.toNat) mask mask] else [])
  ++ (if d.toNat = 774 then [] else [loadDest c lat .pA (ones 4096) mask])

/-- R262: a load of n bytes from a NEAR stall; `reads` are the offsets whose bytes are read. -/
def nearLoad (a : Word) (n : Nat) (reads : List Nat) (conv : LoadConv) (lat : Nat) (dests : Nat → List Pend) (s : State) :
    SlotOut :=
  (nearStall s s.myCore s.me.dev (some 1) .quad false a n).slot fun x =>
  (poisonCheck s x a reads).slot fun _ =>
  watched true false [(a, n)] a s fun s =>
    let own := x.core == s.myCore
    .ok (s.addAccess (performAt s own) a.toNat (.load [(x.at a, n)] conv (dests (loadLat own lat))))

/-- R85: a store to this stall by the issuing context waits for the tick boundary. -/
def isBuffered (s : State) (x : Stall) : Bool := x.shared && s.me.elastic

/-- R262: a store of n bytes into a NEAR stall; `cells` gives the bytes written from the physical address of EA. -/
def nearStore (a : Word) (n : Nat) (cells : Nat → List Host.Cell) (s : State) : SlotOut :=
  (nearStall s s.myCore s.me.dev (some 1) .quad false a n).slot fun x =>
  watched false true [(a, n)] a s fun s =>
    .ok (s.addAccess (performAt s (x.core == s.myCore)) a.toNat (.store (cells (x.at a)) (isBuffered s x)))

/-- Bytes placed from a physical address up. -/
def placeBytes (p : Nat) (bs : List Byte) : List Host.Cell := (List.range bs.length).map fun i => (p + i, bs.getD i 0)

/-- R263: a scalar load of n bytes. -/
def scalarLoad (n : Nat) (conv : LoadConv) (d base : XNum) (off : BitVec 20) (s : State) : SlotOut :=
  nearLoad (ea s.me base off) n (List.range n) conv 4 (fun lat => [loadDest s.me lat (.x d.toNat) (ones 64) (ones 64)]) s

/-- R263: a scalar store of n bytes. -/
def scalarStore (n : Nat) (src base : XNum) (off : BitVec 20) (s : State) : SlotOut :=
  nearStore (ea s.me base off) n (fun p => placeBytes p (natToBytes n (s.me.xr src).toNat)) s

/-- R264: bytes of a lane. -/
def laneBytes : LaneW → Nat | .e8 => 1 | .e16 => 2 | .e32 => 4
/-- The offsets of 512 bytes whose lane is active. -/
def activeBytes (k : KReg) (w : Nat) : List Nat := (List.range 512).filter fun i => kbit k (i / w)
/-- The bits of those bytes. -/
def activeMask (k : KReg) (w : Nat) : Nat := (laneMask (8 * w) (512 / w) k).toNat

/-- The listed bytes of a register placed from a physical address up. -/
def placeLanes (p : Nat) (v : VReg) (offs : List Nat) : List Host.Cell := offs.map fun i => (p + i, vbyte v i)

/-- R265: the address of chunk j. -/
def chunkAddr (a stride : Word) (j : Nat) : Word := a + stride * BitVec.ofNat 64 j

/-- R265: the stalls of the eight chunks from j on, each chunk checked whole; `rd` adds the check for poison. -/
def chunkStalls (s : State) (rd : Bool) (a stride : Word) : List Nat → Chk (List (Stall × Word))
  | [] => .ok []
  | j :: js =>
    let b := chunkAddr a stride j
    (nearStall s s.myCore s.me.dev (some 1) .quad false b 64).bind fun x =>
    (if rd then poisonCheck s x b (List.range 64) else .ok ()).bind fun _ =>
    (chunkStalls s rd a stride js).bind fun l => .ok ((x, b) :: l)

/-- R193: a row of a locked slot of the core. -/
def rowLocked (s : State) (phys n : Nat) : Bool :=
  (s.core s.myCore).tack.locks.any fun l => l.own.dev == s.me.dev
    && l.stalls.any fun i => let r := (s.stall l.own.dev i).range; phys < r.hi && r.lo < phys + n

/-- R268: the check of a locked slot, after those of R80. -/
def lockCheck (s : State) (x : Stall) (a : Word) : Chk Unit := if rowLocked s (x.at a) 512 then .bad 0x21 a else .ok ()

/-- OFFSET is a multiple of n. -/
def alignedTo (a : Word) (n : Nat) : Bool := addrOffset a % n == 0

/-! ### The operations -/

/-- R263: `ldb`. -/
def slotLdb (zero : Bool) (d base : XNum) (off : BitVec 20) (s : State) : SlotOut :=
  scalarLoad 1 (if zero then .zext 8 else .sext 8) d base off s
def execLdb (zero : Bool) (d base : XNum) (off : BitVec 20) (s : State) : Host.Outcome State Fault Refusal :=
  finishSlot .A s (slotLdb zero d base off s)
/-- R263: `ldh`. -/
def slotLdh (zero : Bool) (d base : XNum) (off : BitVec 20) (s : State) : SlotOut :=
  scalarLoad 2 (if zero then .zext 16 else .sext 16) d base off s
def execLdh (zero : Bool) (d base : XNum) (off : BitVec 20) (s : State) : Host.Outcome State Fault Refusal :=
  finishSlot .A s (slotLdh zero d base off s)
/-- R263: `ldw`. -/
def slotLdw (zero : Bool) (d base : XNum) (off : BitVec 20) (s : State) : SlotOut :=
  scalarLoad 4 (if zero then .zext 32 else .sext 32) d base off s
def execLdw (zero : Bool) (d base : XNum) (off : BitVec 20) (s : State) : Host.Outcome State Fault Refusal :=
  finishSlot .A s (slotLdw zero d base off s)
/-- R263: `ldd`. -/
def slotLdd (d base : XNum) (off : BitVec 20) (s : State) : SlotOut :=
  scalarLoad 8 .raw d base off s
def execLdd (d base : XNum) (off : BitVec 20) (s : State) : Host.Outcome State Fault Refusal :=
  finishSlot .A s (slotLdd d base off s)
/-- R263: `stb`. -/
def slotStb (src base : XNum) (off : BitVec 20) (s : State) : SlotOut :=
  scalarStore 1 src base off s
def execStb (src base : XNum) (off : BitVec 20) (s : State) : Host.Outcome State Fault Refusal :=
  finishSlot .A s (slotStb src base off s)
/-- R263: `sth`. -/
def slotSth (src base : XNum) (off : BitVec 20) (s : State) : SlotOut :=
  scalarStore 2 src base off s
def execSth (src base : XNum) (off : BitVec 20) (s : State) : Host.Outcome State Fault Refusal :=
  finishSlot .A s (slotSth src base off s)
/-- R263: `stw`. -/
def slotStw (src base : XNum) (off : BitVec 20) (s : State) : SlotOut :=
  scalarStore 4 src base off s
def execStw (src base : XNum) (off : BitVec 20) (s : State) : Host.Outcome State Fault Refusal :=
  finishSlot .A s (slotStw src base off s)
/-- R263: `std`. -/
def slotStd (src base : XNum) (off : BitVec 20) (s : State) : SlotOut :=
  scalarStore 8 src base off s
def execStd (src base : XNum) (off : BitVec 20) (s : State) : Host.Outcome State Fault Refusal :=
  finishSlot .A s (slotStd src base off s)
/-- R264: `ldv`. -/
def slotLdv (d : VCode) (base : XNum) (off : BitVec 20) (k : KNum) (lw : LaneW) (s : State) : SlotOut :=
  let w := laneBytes lw
  nearLoad (ea s.me base off) 512 (activeBytes (s.me.kr k) w) .raw 5
    (fun lat => vLoadDests s.me lat d (activeMask (s.me.kr k) w)) s
def execLdv (d : VCode) (base : XNum) (off : BitVec 20) (k : KNum) (lw : LaneW) (s : State) : Host.Outcome State Fault Refusal :=
  finishSlot .A s (slotLdv d base off k lw s)
/-- R264: `stv`. -/
def slotStv (src : VCode) (base : XNum) (off : BitVec 20) (k : KNum) (lw : LaneW) (s : State) : SlotOut :=
  let w := laneBytes lw
  nearStore (ea s.me base off) 512 (fun p => placeLanes p (s.me.vsrc (8 * w) src) (activeBytes (s.me.kr k) w)) s
def execStv (src : VCode) (base : XNum) (off : BitVec 20) (k : KNum) (lw : LaneW) (s : State) : Host.Outcome State Fault Refusal :=
  finishSlot .A s (slotStv src base off k lw s)
/-- R265: `ldvs`. -/
def slotLdvs (d : VCode) (base : XNum) (off : BitVec 20) (stride : XNum) (s : State) : SlotOut :=
  let a := ea s.me base off
  (chunkStalls s true a (s.me.xr stride) (List.range 8)).slot fun l =>
  watched true false (l.map fun g => (g.2, 64)) a s fun s =>
    let own := l.all fun g => g.1.core == s.myCore
    .ok (s.addAccess (performAt s own) a.toNat
      (.load (l.map fun g => (g.1.at g.2, 64)) .raw (vLoadDests s.me (loadLat own 5) d (ones 4096))) (l.map fun g => g.2))
def execLdvs (d : VCode) (base : XNum) (off : BitVec 20) (stride : XNum) (s : State) : Host.Outcome State Fault Refusal :=
  finishSlot .A s (slotLdvs d base off stride s)
/-- R265: `stvs`; chunks in SHARED stalls are buffered (R85), the others perform. -/
def slotStvs (src : VCode) (base : XNum) (off : BitVec 20) (stride : XNum) (s : State) : SlotOut :=
  let a := ea s.me base off
  let v := s.me.vsrc 8 src
  (chunkStalls s false a (s.me.xr stride) (List.range 8)).slot fun l =>
  watched false true (l.map fun g => (g.2, 64)) a s fun s =>
    let own := l.all fun g => g.1.core == s.myCore
    let part := fun (buf : Bool) =>
      (List.range 8).flatMap fun j =>
        match l[j]? with
        | some g => if isBuffered s g.1 == buf then placeBytes (g.1.at g.2) (((vbytes v).drop (64 * j)).take 64) else []
        | none => []
    let add := fun (buf : Bool) (s : State) =>
      if (part buf).isEmpty then s else s.addAccess (performAt s own) a.toNat (.store (part buf) buf)
    .ok (add true (add false s))
def execStvs (src : VCode) (base : XNum) (off : BitVec 20) (stride : XNum) (s : State) : Host.Outcome State Fault Refusal :=
  finishSlot .A s (slotStvs src base off stride s)
/-- R266: `ldk`. -/
def slotLdk (k : KNum) (base : XNum) (off : BitVec 20) (s : State) : SlotOut :=
  nearLoad (ea s.me base off) 128 (List.range 128) .raw 5
    (fun lat => [loadDest s.me lat (.k k.toNat) (ones 1024) (ones 1024)]) s
def execLdk (k : KNum) (base : XNum) (off : BitVec 20) (s : State) : Host.Outcome State Fault Refusal :=
  finishSlot .A s (slotLdk k base off s)
/-- R266: `stk`. -/
def slotStk (k : KNum) (base : XNum) (off : BitVec 20) (s : State) : SlotOut :=
  nearStore (ea s.me base off) 128 (fun p => placeBytes p (natToBytes 128 (s.me.kr k).toNat)) s
def execStk (k : KNum) (base : XNum) (off : BitVec 20) (s : State) : Host.Outcome State Fault Refusal :=
  finishSlot .A s (slotStk k base off s)
/-- R267: `accrd` reads in its issue cycle, before any write of that cycle. -/
def slotAccrd (d : VCode) (base : XNum) (off : BitVec 20) (k : KNum) (s : State) : SlotOut :=
  let a := ea s.me base off
  let kv := s.me.kr k
  (nearStall s s.myCore s.me.dev (some 0) .own (!alignedTo a 512) a 512).slot fun x =>
  (poisonCheck s x a (activeBytes kv 4)).slot fun _ =>
  watched true false [(a, 512)] a s fun s =>
    let s := s.scan (x.at a) 512
    .ok (s.sched (loadPends .raw (s.mem.readN (x.at a) 512) (vLoadDests s.me 6 d (activeMask kv 4))))
def execAccrd (d : VCode) (base : XNum) (off : BitVec 20) (k : KNum) (s : State) : Host.Outcome State Fault Refusal :=
  finishSlot .A s (slotAccrd d base off k s)
/-- R267: `accwr` writes in its issue cycle, before the array adds of that cycle. -/
def slotAccwr (src : VCode) (base : XNum) (off : BitVec 20) (k : KNum) (s : State) : SlotOut :=
  let a := ea s.me base off
  (nearStall s s.myCore s.me.dev (some 0) .own (!alignedTo a 512) a 512).slot fun x =>
  watched false true [(a, 512)] a s fun s =>
    .ok (s.addAccess s.station a.toNat (.store (placeLanes (x.at a) (s.me.vsrc 32 src) (activeBytes (s.me.kr k) 4)) false))
def execAccwr (src : VCode) (base : XNum) (off : BitVec 20) (k : KNum) (s : State) : Host.Outcome State Fault Refusal :=
  finishSlot .A s (slotAccwr src base off k s)
/-- R268: `tld`. -/
def slotTld (d : VCode) (base : XNum) (off : BitVec 20) (s : State) : SlotOut :=
  let a := ea s.me base off
  (nearStall s s.myCore s.me.dev (some 2) .own (!alignedTo a 512) a 512).slot fun x =>
  (poisonCheck s x a (List.range 512)).slot fun _ =>
  (lockCheck s x a).slot fun _ =>
  watched true false [(a, 512)] a s fun s =>
    .ok (s.addAccess (s.station + 1) a.toNat (.load [(x.at a, 512)] .raw (vLoadDests s.me 6 d (ones 4096))))
def execTld (d : VCode) (base : XNum) (off : BitVec 20) (s : State) : Host.Outcome State Fault Refusal :=
  finishSlot .A s (slotTld d base off s)
/-- R268: `tst`. -/
def slotTst (src : VCode) (base : XNum) (off : BitVec 20) (s : State) : SlotOut :=
  let a := ea s.me base off
  (nearStall s s.myCore s.me.dev (some 2) .own (!alignedTo a 512) a 512).slot fun x =>
  (lockCheck s x a).slot fun _ =>
  watched false true [(a, 512)] a s fun s =>
    .ok (s.addAccess (s.station + 1) a.toNat (.store (placeBytes (x.at a) (vbytes (s.me.vsrc 8 src))) false))
def execTst (src : VCode) (base : XNum) (off : BitVec 20) (s : State) : Host.Outcome State Fault Refusal :=
  finishSlot .A s (slotTst src base off s)
/-- R269: `atom` performs in the bank ALU of the own core; the offset is syllable bits 13:6. -/
def slotAtom (op : AtomOp) (wide : Bool) (d base sr c : XNum) (off : BitVec 8) (s : State) : SlotOut :=
  let a := s.me.xr base + off.signExtend 64
  let n := if wide then 8 else 4
  (nearStall s s.myCore s.me.dev (some 1) .own (!alignedTo a n) a n).slot fun x =>
  (poisonCheck s x a (List.range n)).slot fun _ =>
  watched true true [(a, n)] a s fun s =>
    .ok (s.addAccess (s.station + 1) a.toNat
      (.atom (x.at a) wide op ((s.me.xr sr).toNat % 2 ^ (8 * n)) ((s.me.xr c).toNat % 2 ^ (8 * n))
        [loadDest s.me 8 (.x d.toNat) (ones 64) (ones 64), loadDest s.me 8 .flags (ones 6) 0]))
def execAtom (op : AtomOp) (wide : Bool) (d base sr c : XNum) (off : BitVec 8) (s : State) : Host.Outcome State Fault Refusal :=
  finishSlot .A s (slotAtom op wide d base sr c off s)

/-! ### Performing (R83 to R86) -/

/-- R74, R269: the word after an atomic on an old value, in w bits, and the flags of `fadd`. -/
def atomNew (op : AtomOp) (w old x c : Nat) : Nat × Nat :=
  match op with
  | .add => ((old + x) % 2 ^ w, 0)
  | .and => (Nat.land old x, 0)
  | .or => (Nat.lor old x, 0)
  | .xor => (Nat.xor old x, 0)
  | .min => (if signExt old w ≤ signExt x w then old else x, 0)
  | .max => (if signExt old w ≤ signExt x w then x else old, 0)
  | .minn => (min old x, 0)
  | .maxn => (max old x, 0)
  | .fadd => fadd .f32 .rne old x
  | .xchg => (x, 0)
  | .cas => (if old = c then x else old, 0)

/-- R85: a store into a store buffer, in issue order. -/
def insertBuffered (e : Buffered) : List Buffered → List Buffered
  | [] => [e]
  | f :: fs => if f.1 ≤ e.1 then f :: insertBuffered e fs else e :: f :: fs

/-- R176: REF of a page header, in 8 bytes at offset 40, after a fork or a release: the new value and the STATUS. -/
def refAfter (rel : Bool) (ref : Nat) : Nat × Nat :=
  if rel then (if ref = 0 then (0, stNONE) else (ref - 1, stOK))
  else if 4095 ≤ ref then (ref, stSATURATED) else (ref + 1, stOK)

/-- R176: REF in the bytes of a page header. -/
def refOf (hdr : List Byte) : Nat := natField (bytesToNat ((hdr.drop 40).take 8)) 36 12
/-- R176: a `kfork` changes REF of the header whose bytes are given. -/
def refMoves (rel : Bool) (hdr : List Byte) : Bool := (refAfter rel (refOf hdr)).1 != refOf hdr
/-- R176, R364: the two bytes that hold REF of the header at an address are written by the group engine. -/
def State.refWritten (s : State) (dev : Nat) (a : Word) : State := s.foreignWrite dev (a + 44) 2 2

/-- R176: the atomic of `kfork` on the header at a physical address; the command keeps REF after it and its STATUS. -/
def State.forkRef (s : State) (header : Nat) (rel : Bool) (cmd : Nat) : State :=
  let w := bytesToNat (s.mem.readN (header + 40) 8)
  let r := refAfter rel (natField w 36 12)
  let s := { s with mem := s.mem.writeN (header + 40) (natToBytes 8 (mergeNat w (ones 12 * 2 ^ 36) (r.1 * 2 ^ 36))) }
  match s.cmd cmd with
  | some c => s.setCmd { c with count := r.1, status := r.2, step := 2, when_ := s.station }
  | none => s

/-- R176, R364: the same at a near bank, where the write is a foreign write as it performs. -/
def State.forkNear (s : State) (header : Nat) (rel : Bool) (cmd : Nat) : State :=
  let moves := refMoves rel (s.mem.readN header 64)
  let s := s.forkRef header rel cmd
  match s.cmd cmd with
  | some c => if moves then s.refWritten c.own.dev (c.st.getD 0 0) else s
  | none => s

/-- R87: a read of a context's access that meets an error which cannot be corrected, come since its check: the data are delivered as
read, and the cause waits for the context's next bundle (log 10). -/
def State.meetLate (s : State) (a : Access) : State :=
  match lateError s a with
  | some b => s.postAsync { key := a.key, launch := (s.ctx a.key).launch, dev := (s.ctx a.key).dev } 0x32 b
  | none => s

/-- R83: one access performs: a load fills its writes, a store changes memory or enters the store buffer, an atomic does
both. -/
def State.perform (s : State) (a : Access) : State :=
  let s := s.meetLate a
  match a.op with
  | .load segs conv dests => let s := s.scanAll segs; s.modCtx a.key fun c => c.addPend (loadPends conv (s.readAs a.key segs) dests)
  | .store cells true => s.modCtx a.key fun c => { c with sbuf := insertBuffered (a.id, cells) c.sbuf }
  | .store cells false => s.storeCells cells
  | .engine cells bad => let s := s.storeCells cells; { s with poison := s.poison ++ bad.filter fun g => !s.poison.contains g }
  | .ref h rel cmd => s.forkNear h rel cmd
  | .atom p wide op x c dests =>
    let n := if wide then 8 else 4
    let s := s.scan p n
    let old := bytesToNat (s.mem.readN p n)
    let r := atomNew op (8 * n) old x c
    { s with mem := s.mem.writeN p (natToBytes n r.1) }.modCtx a.key fun c =>
      c.addPend (dests.map fun (d : Pend) => { d with val := match d.tgt with | .flags => r.2 | _ => old })

/-- R83: the access with a name performs, in its cycle; before it the step has nothing to do. -/
def execNearAccessPerform (id : Nat) (s : State) : Host.Outcome State Fault Refusal :=
  match s.accesses.find? fun a => a.id == id with
  | some a =>
    if a.due ≤ s.station then .next ({ s with accesses := s.accesses.filter fun b => b.id != id }.perform a) else .next s
  | none => .next s

end Sys2Proof.Machine
end

