-- ==== Sys2Proof/Machine/Translate.lean ====
section
/-!
DEFINITION. Sys2Proof/Machine/Translate.lean: names of far and imported bytes (R20 to R23), page tables and walks (R22,
R24, R25), and the operands of D and G commands: what each names, and what translation finds (R26, R336).
-/
namespace Sys2Proof.Machine

/-! ### Page tables (R21, R22) -/

/-- R22: a table entry at an offset of the stall that holds the tables; 0, which is not valid, outside it. -/
def tableEntry (s : State) (dev off : Nat) : Nat :=
  let b := (s.dev dev).ptbase
  let x := s.stall hypDev (addrStall b)
  if b = 0 || x.id = 0 || 64 * x.len < off + 8 then 0 else bytesToNat (s.mem.readN (x.phys + off) 8)

/-- R22: V is set and no reserved bit is. -/
def entryPresent (w : Nat) : Bool := bitAt w 0 && natField w 52 12 == 0 && natField w 10 6 == 0 && !bitAt w 5

/-- R21, R22: the leaf for a list of (level, index) from the table at an offset: its word and level. -/
def walkLevels (s : State) (dev : Nat) : Nat → List (Nat × Nat) → Option (Nat × Nat)
  | _, [] => none
  | off, (lvl, idx) :: rest =>
    let w := tableEntry s dev (off + 8 * idx)
    if !entryPresent w then none
    else if bitAt w 1 then
      if lvl ≤ 2 || (lvl == 3 && natField w 16 9 != 0) || 2 ≤ natField w 6 2 then none else some (w, lvl)
    else if lvl = 4 then none
    else walkLevels s dev (natField w 16 36 * 2 ^ 16) rest

/-- A die's cache key of a page of a far stall. -/
def stallPage (id page : Nat) : Nat := 2 ^ 60 + id * 2 ^ 32 + page

/-- Where imported bytes stand in the model's far storage: the host, or a peer behind a root port. -/
def importedBase (tgt port addr : Nat) : Nat := 2 ^ 100 + (if tgt = 1 then 2 ^ 60 * (port + 1) else 0) + addr

/-- R24: the first page of the 32 MiB that hold an imported page. -/
def bigPage (page : Nat) : Nat := page / 512 * 512

/-- R21, R22, R24: what a walk finds for the page of a key: its place, permissions and size; of 32 MiB the whole. -/
def walkPage (s : State) (dev page : Nat) : Option TEntry :=
  if 2 ^ 60 ≤ page then
    let x := s.stall dev ((page - 2 ^ 60) / 2 ^ 32)
    some { dev := dev, page := page, target := x.phys + page % 2 ^ 32 * 2 ^ 16, perm := 7, big := false }
  else if 2 ^ 41 ≤ page then none
  else
    let va := page * 2 ^ 16
    match walkLevels s dev (addrOffset (s.dev dev).ptbase)
        [(1, natField va 46 11), (2, natField va 35 11), (3, natField va 25 10), (4, natField va 16 9)] with
    | none => none
    | some (w, lvl) =>
      some { dev := dev, page := if lvl = 3 then bigPage page else page
             target := importedBase (natField w 6 2) (natField w 8 2) (natField w 16 36 * 2 ^ 16)
             perm := natField w 2 3, big := lvl == 3 }

/-- R10: the die of a core. -/
def coreDie (core : Nat) : Nat := core / 16

/-- R24: an entry serves a page of a device: its own, or one of its 32 MiB. -/
def TEntry.serves (dev page : Nat) (e : TEntry) : Bool :=
  e.dev == dev && (if e.big then page < 2 ^ 60 && e.page == bigPage page else e.page == page)

/-- The translation of one page by an entry that serves it. -/
def TEntry.narrow (page : Nat) (e : TEntry) : TEntry :=
  if e.big then { e with page := page, target := e.target + (page - e.page) * 65536 } else e

/-- R24: a page of a device in a die's translation cache. -/
def cached (s : State) (die dev page : Nat) : Option TEntry :=
  ((s.tcache.get [] die).find? (TEntry.serves dev page)).map (TEntry.narrow page)

/-! ### Operands (R26, R336, R341 to R347) -/

/-- What an operand may name: a near stall of the quad (R73), a NEAR stall of the own core or of the quad, a far stall or
imported address, any of these, any stall, a TIER stall (R339), a place of KV pages (R166), a stall of the own core. -/
inductive Want where | nearQuad | ownNEAR | quadNEAR | far | any | stall | tier | pages | own
  deriving DecidableEq, Repr

/-- An operand: the chunks of bytes it names, what it may name, the permissions it needs of an imported leaf (RD 1, W 2,
X 4), whether its bytes are read or written, and whether it places a lien. -/
structure Opnd where
  reg    : Nat
  chunks : List (Word × Nat)
  want   : Want
  perm   : Nat := 1
  rd     : Bool := false
  wr     : Bool := false
  lien   : Bool := true
  deriving DecidableEq, Repr

/-- R73, R336: a stall is one that an operand of a core may name. -/
def wantsStall (core : Nat) (x : Stall) : Want → Bool
  | .nearQuad => isNearLevel x.level && sameQuad core x.core
  | .ownNEAR => x.level == 1 && core == x.core
  | .quadNEAR => x.level == 1 && sameQuad core x.core
  | .far => !isNearLevel x.level
  | .any | .stall => !isNearLevel x.level || sameQuad core x.core
  | .tier => x.level == 4
  | .pages => !isNearLevel x.level || (x.level == 1 && sameQuad core x.core)
  | .own => isNearLevel x.level && core == x.core

/-- R336, R345: an operand may name imported memory. -/
def wantsImported : Want → Bool | .far | .any => true | _ => false

/-- The first byte of each 64-KiB page that n bytes from an offset touch. -/
def pageStarts (off n : Nat) : List Nat :=
  (List.range ((off + n - 1) / 65536 - off / 65536 + 1)).map fun i => max off ((off / 65536 + i) * 65536)

/-- The reason for bytes outside their stall: OUTSIDE, but WRONGLEVEL where the range must lie in one TIER stall (R339). -/
def outsideReason (o : Opnd) : Nat := if o.want == .tier then rsWRONGLEVEL else rsOUTSIDE

/-- R26: the steps of one chunk. The bytes of a near stall need no page; a range that runs past its stall fails at the
first byte outside. -/
def chunkSteps (s : State) (core dev : Nat) (o : Opnd) (a : Word) (n : Nat) : List TStep :=
  if isStallAddr a then
    let x := (s.view dev).stall (addrStall a)
    let off := addrOffset a
    let past := 64 * x.len < off + n
    if addrStall a = 0 || x.id = 0 || 64 * x.len ≤ off then [.stop (outsideReason o) a]
    else if !wantsStall core x o.want then [.stop rsWRONGLEVEL a]
    else if past && o.want == .tier then [.stop rsWRONGLEVEL a]
    else
      (if isNearLevel x.level then []
       else (pageStarts off (min (max n 1) (64 * x.len - off))).map fun p =>
         .page (stallPage x.id (p / 65536)) (stallAddr x.id p) 7)
      ++ (if past then [.stop rsOUTSIDE (stallAddr x.id (64 * x.len))] else [])
  else if wantsImported o.want then
    (pageStarts a.toNat (max n 1)).map fun p => .page (p / 65536) (BitVec.ofNat 64 p) o.perm
  else [.stop rsWRONGLEVEL a]

/-- A chunk put into a list in ascending order of addresses. -/
def insertChunk (c : Word × Nat) : List (Word × Nat) → List (Word × Nat)
  | [] => [c]
  | d :: ds => if d.1.toNat < c.1.toNat then d :: insertChunk c ds else c :: d :: ds
/-- R26: the chunks of an operand in ascending order of addresses. -/
def Opnd.ascending (o : Opnd) : List (Word × Nat) := o.chunks.foldr insertChunk []

/-- R26: the steps of a command's operands, in the order of its staging registers and in each by ascending address. -/
def opndSteps (s : State) (core dev : Nat) (ops : List Opnd) : List TStep :=
  ops.flatMap fun o => o.ascending.flatMap fun c => chunkSteps s core dev o c.1 c.2

/-- What translation comes to: a failure; a page that a walk must find, with the steps left and the translations made; or all
translations. -/
inductive TRes where
  | failed (reason : Nat) (addr : Word)
  | missing (key : Nat) (rest : List TStep) (got : List TEntry)
  | done (entries : List TEntry)
  deriving DecidableEq, Repr

/-- R24, R26: translation through a die's cache, from what has been translated on: the first step that fails or misses
decides. -/
def translateSteps (s : State) (die dev : Nat) : List TStep → List TEntry → TRes
  | [], acc => .done acc
  | .stop r a :: _, _ => .failed r a
  | .page key a perm :: rest, acc =>
    match (acc.find? fun e => e.dev == dev && e.page == key).orElse fun _ => cached s die dev key with
    | none => .missing key (.page key a perm :: rest) acc
    | some e =>
      if Nat.land perm e.perm ≠ perm then .failed rsDENIED a
      else translateSteps s die dev rest (if acc.contains e then acc else acc ++ [e])

/-- A place in near or far storage. -/
def locAt (near : Bool) (p : Nat) : Loc := if near then .near p else .far p
/-- The physical address of a place. -/
def Loc.phys : Loc → Nat | .near p => p | .far p => p
/-- A place n bytes on. -/
def Loc.plus : Loc → Nat → Loc
  | .near p, n => .near (p + n)
  | .far p, n => .far (p + n)

/-- Where a byte address of a device stands: in its stall, or through the pages that a command translated. -/
def placeOf (s : State) (dev : Nat) (pages entries : List Nat) (a : Word) : Loc :=
  if isStallAddr a then
    let x := s.stall dev (addrStall a)
    locAt (isNearLevel x.level) (x.at a)
  else
    match (pages.zip entries).find? fun e => e.1 == a.toNat / 65536 with
    | some e => .far (e.2 + a.toNat % 65536)
    | none => .far (2 ^ 120 + a.toNat)

/-- R70: the bounding range of an operand's bytes: of one stall by physical address; imported bytes by the addresses
named. -/
def opndRange (s : State) (dev : Nat) (o : Opnd) : List Range :=
  match o.chunks.filter fun c => c.2 != 0 with
  | [] => []
  | c :: cs =>
    let at_ : Word → Nat := fun a =>
      if isStallAddr a then (s.stall dev (addrStall a)).at a else 2 ^ 110 + dev * 2 ^ 64 + a.toNat
    [cs.foldl (fun r d => { lo := min r.lo (at_ d.1), hi := max r.hi (at_ d.1 + d.2) })
      { lo := at_ c.1, hi := at_ c.1 + c.2 }]

/-- The addresses of a list that are the first to name their stall. -/
def firstNames : List Word → List Nat → List Word
  | [], _ => []
  | a :: as, seen => if seen.contains (addrStall a) then firstNames as seen else a :: firstNames as (addrStall a :: seen)

/-- The stalls that operands name, in order, each once for an operand (R26, R57). -/
def opndStalls (ops : List Opnd) : List Word :=
  ops.flatMap fun o => firstNames ((o.ascending.map Prod.fst).filter isStallAddr) []

/-! ### Walks (R25) -/

/-- R25: a walk for a page, a new one or one that is there already; 32 walkers of a die are at work at once, and 4,096 misses
wait for one. While that queue is full there is no walk, and the engine waits. -/
def State.joinWalk (s : State) (die dev page : Nat) : Option Nat × State :=
  match s.walks.find? fun w => w.die == die && w.dev == dev && w.page == page with
  | some w => (some w.id, s)
  | none =>
    let busy := (s.walks.filter fun w => w.die == die && w.active).length
    let queued := (s.walks.filter fun w => w.die == die && !w.active).length
    if 32 ≤ busy && 4096 ≤ queued then (none, s)
    else (some s.nextId, { s with
      nextId := s.nextId + 1
      walks := s.walks ++ [{ id := s.nextId, die := die, dev := dev, page := page, active := busy < 32 }] })

/-- R25: the walk that has waited longest takes a free walker. -/
def wakeWalk (die : Nat) : List Walk → List Walk
  | [] => []
  | w :: ws => if w.die == die && !w.active then { w with active := true } :: ws else w :: wakeWalk die ws

/-- R24: an entry put into a die's cache. Which one gives way when 16,384 are there the spec leaves open; here it is the oldest
(log 125, DESIGN CHOICE). -/
def State.cacheEntry (s : State) (die : Nat) (e : TEntry) : State :=
  let l := s.tcache.get [] die
  if l.contains e then s
  else { s with tcache := s.tcache.set [] die ((if 16384 ≤ l.length then l.drop 1 else l) ++ [e]) }

/-- R24: the descriptor of a stall is read into the lookaside of a core, of 256 entries; which gives way is the model's choice (log
13). -/
def Core.lookUp (dev id : Nat) (k : Core) : Core :=
  if k.look.contains (dev, id) then k else { k with look := (if 256 ≤ k.look.length then k.look.drop 1 else k.look) ++ [(dev, id)] }

end Sys2Proof.Machine
end

