-- ==== Sys2Proof/Machine/Params.lean ====
section
/-!
DEFINITION. Sys2Proof/Machine/Params.lean: the staging registers of the D and G commands: parameter faults (R75, R335,
R341 to R347), zero counts (R75), and the operands they name (R73, R166, R172, R173, R202, R203, R212).
-/
namespace Sys2Proof.Machine

/-- A staging register as a natural. -/
def Cmd.reg (c : Cmd) (i : Nat) : Nat := (c.st.getD i 0).toNat
/-- A staging register as an address. -/
def Cmd.addr (c : Cmd) (i : Nat) : Word := c.st.getD i 0
/-- Bits of a staging register. -/
def Cmd.fld (c : Cmd) (i lo n : Nat) : Nat := natField (c.reg i) lo n

/-! ### GFMT (R163) -/

/-- R163: D. -/
def Cmd.headDim (c : Cmd) : Nat := 64 * 2 ^ (c.gfmt / 2 ^ 8 % 4)
/-- R163: an element format of the decode engine. -/
def kvFmt (code : Nat) : Option Fmt :=
  match Fmt.ofCode code with
  | some .i8 => some .i8
  | some .f16 => some .f16
  | some .bf16 => some .bf16
  | some .e4m3 => some .e4m3
  | some .e5m2 => some .e5m2
  | _ => none
/-- R163: QFMT and KVFMT. -/
def Cmd.qFmt (c : Cmd) : Option Fmt := kvFmt (c.gfmt % 16)
def Cmd.kFmt (c : Cmd) : Option Fmt := kvFmt (c.gfmt / 16 % 16)
/-- R163: bytes of an element. -/
def fmtBytes (f : Option Fmt) : Nat := match f with | some f => f.width / 8 | none => 1
/-- R163: GFMT names allowed formats. -/
def Cmd.gfmtOk (c : Cmd) : Bool := c.qFmt.isSome && c.kFmt.isSome && c.gfmt / 2 ^ 8 % 4 != 3
/-- R169: bytes of a partial row. -/
def Cmd.partialRow (c : Cmd) : Nat := 64 + 4 * c.headDim
/-- R164: bytes of a KV page. -/
def Cmd.pageBytes (c : Cmd) : Nat := 64 + 128 * c.headDim * fmtBytes c.kFmt

/-- R166: T0 and T1. -/
def Cmd.t0 (c : Cmd) : Nat := c.fld 4 0 32
def Cmd.t1 (c : Cmd) : Nat := c.fld 4 32 32
/-- R166, R341: query rows. -/
def Cmd.rowsQ (c : Cmd) : Nat := c.fld 5 48 4 + 1
/-- R167: the first page and the number of pages of an `adec`. -/
def Cmd.firstPage (c : Cmd) : Nat := c.t0 / 64
def Cmd.pageCount (c : Cmd) : Nat := if c.t1 ≤ c.t0 then 0 else (c.t1 - 1) / 64 - c.t0 / 64 + 1

/-! ### Groups (R407) -/

/-- R407: the bytes of a group entry; none for group 0 or beyond the stall. -/
def groupEntry (s : State) (dev g : Nat) : Option (List Byte) :=
  let b := (s.dev dev).grpbase
  let x := s.stall dev (addrStall b)
  if g = 0 || !isStallAddr b || x.id = 0 || 64 * x.len < addrOffset b + 64 * g + 64 then none
  else some (s.mem.readN (x.at b + 64 * g) 64)
/-- R407: the reducing switch and the members of a group. -/
def groupOf (s : State) (dev g : Nat) : Option (Nat × List Nat) :=
  (groupEntry s dev g).map fun bs =>
    let f := fun (o : Nat) => bytesToNat ((bs.drop o).take 2)
    (f 0, (List.range (min (f 2) 28)).map fun i => f (4 + 2 * i))
/-- R407: this package's rank in a group. -/
def groupRank (s : State) (dev g : Nat) : Option Nat :=
  match groupOf s dev g with
  | some (_, ms) => if ms.contains s.pkgid then some (ms.idxOf s.pkgid) else none
  | none => none

/-- R106: bytes of n block-fixed elements. -/
def blockFixedBytes (n : Nat) : Nat := 4 * n + 64 * ceilDiv (n / 32) 64
/-- R346: the message length of a `gred`. -/
def Cmd.redBytes (c : Cmd) : Nat :=
  let n := c.fld 2 0 23
  match c.fld 3 5 2 with
  | 0 => 4 * n
  | 1 => 8 * n
  | _ => blockFixedBytes n

/-! ### Parameter faults (R75) -/

/-- R73: an element size. -/
def elemSizeOk (n : Nat) : Bool := [4, 8, 16, 32, 64, 128, 256, 512, 1024, 2048, 4096].contains n

/-- R73, R75, R336 to R339: parameter faults of a D command. -/
def badD (c : Cmd) : Bool :=
  let n := c.fld 2 0 25
  let rows := c.fld 2 32 25
  let gap := c.fld 2 25 7 != 0 || c.fld 2 57 7 != 0
  let past := 2 ^ 24 < n || 2 ^ 24 < n * rows
  let size := c.fld 2 0 13
  let elem := c.fld 2 13 19 != 0 || c.fld 2 57 7 != 0 || !elemSizeOk size || 2 ^ 24 < size * rows
    || c.reg 0 % size != 0 || c.reg 1 % size != 0 || c.reg 5 % 4 != 0
  let w := if c.fld 2 8 1 = 1 then 8 else 4
  match c.code with
  | 1 => c.reg 2 / 2 ^ 25 != 0 || 2 ^ 24 < n
  | 2 => gap || past
  | 3 | 4 => elem
  | 5 => c.reg 2 / 2 ^ 25 != 0 || 2 ^ 24 < n || n % 8 != 0
  | 6 => c.fld 2 4 4 != 0 || c.reg 2 / 2 ^ 9 != 0 || 11 ≤ c.fld 2 0 4 || (c.fld 2 0 4 == 8 && w == 8)
      || c.reg 0 % w != 0 || c.reg 1 % w != 0
  | 7 => c.reg 2 / 2 ^ 12 != 0
  | _ => c.reg 2 / 2 ^ 25 != 0 || 2 ^ 24 < n || 2 ≤ c.reg 5

/-- R212, R346: parameter faults of a `gred`. -/
def badGred (s : State) (c : Cmd) : Bool :=
  let n := c.fld 2 0 23
  let op := c.fld 3 0 4
  let ty := c.fld 3 5 2
  c.reg 2 / 2 ^ 23 != 0 || 2 ^ 22 < n || (ty == 2 && n % 32 != 0) || c.fld 3 4 1 != 0 || c.fld 3 11 21 != 0
    || c.reg 3 / 2 ^ 48 != 0 || 6 ≤ op || ty == 3 || (c.fld 3 7 1 == 1 && op != 0) || (ty == 2 && op != 0)
    || (groupRank s c.own.dev (c.fld 3 32 16)).isNone

/-- R163, R172 to R174, R340 to R347: parameter faults of a G command. -/
def badG (s : State) (c : Cmd) : Bool :=
  match c.code with
  | 1 => !c.gfmtOk || c.fld 5 52 12 != 0 || c.reg 2 % 8 != 0 || c.t0 + 65536 < c.t1
  | 2 => c.reg 2 / 2 ^ 23 != 0 || c.fld 2 13 3 != 0 || c.fld 2 16 7 == 0 || 64 < c.fld 2 16 7 || c.fld 2 0 13 == 0
      || 4096 < c.fld 2 0 13 || c.reg 0 % 4 != 0 || c.reg 1 % 8 != 0
  | 3 => !c.gfmtOk || c.fld 2 32 32 != 0 || c.reg 3 / 2 ^ 12 != 0 || c.fld 3 7 1 != 0 || c.fld 3 0 7 == 0
      || 64 < c.fld 3 0 7 || c.fld 2 0 32 % 64 != 0 || c.fld 2 0 32 < (c.fld 3 8 4 + 1) * c.partialRow
  | 4 => c.reg 0 % 8 != 0 || c.fld 1 0 17 == 0 || 65536 < c.fld 1 0 17 || c.reg 1 / 2 ^ 17 != 0
  | 5 => c.reg 0 % 64 != 0
  | 6 => c.fld 1 3 29 != 0 || c.reg 2 / 2 ^ 25 != 0 || 2 ^ 24 < c.reg 2 || c.fld 1 48 16 == s.pkgid
  | 7 => c.fld 1 0 32 != 0 || c.reg 2 / 2 ^ 25 != 0 || c.reg 3 / 2 ^ 16 != 0
  | 8 => badGred s c
  | _ => c.fld 1 54 10 != 0 || c.reg 2 / 2 ^ 16 != 0

/-- R73, R75, R335, R340: a command has a parameter fault. -/
def cmdBad (s : State) (c : Cmd) : Bool :=
  (c.timed && c.fld 7 32 32 != 0)
  || (if c.group then c.fld 6 2 30 != 0 || (c.code != 1 && c.fld 6 32 32 != 0) || badG s c
      else c.reg 6 / 4 != 0 || badD c)

/-- R75: a byte, row or element count of zero. -/
def cmdZero (c : Cmd) : Bool :=
  let n := c.fld 2 0 25
  let rows := c.fld 2 32 25
  if c.group then
    match c.code with
    | 6 | 7 => n == 0
    | 8 => c.fld 2 0 23 == 0
    | _ => false
  else
    match c.code with
    | 1 | 5 | 8 => n == 0
    | 2 => n == 0 || rows == 0
    | 3 | 4 => rows == 0
    | 7 => c.fld 2 0 12 == 0
    | _ => false

/-! ### Operands -/

/-- R74: the rows of one side of a `dcopy2`. -/
def rowChunks (base : Word) (stride : Int) (rows n : Nat) : List (Word × Nat) :=
  (List.range rows).map fun (i : Nat) => (base + BitVec.ofInt 64 (stride * i), n)

/-- R74: the elements of a gather or scatter. -/
def elemChunks (base : Word) (size : Nat) (idxs : List Nat) : List (Word × Nat) :=
  idxs.map fun i => (base + BitVec.ofNat 64 (i * size), size)

/-- R73, R336 to R339: the operands of a D command, in staging order. -/
def opndsD (c : Cmd) : List Opnd :=
  let n := c.fld 2 0 25
  let rows := c.fld 2 32 25
  let size := c.fld 2 0 13
  let w := if c.fld 2 8 1 = 1 then 8 else 4
  match c.code with
  | 1 => [{ reg := 0, chunks := [(c.addr 0, n)], want := .any, perm := 2, wr := true },
      { reg := 1, chunks := [(c.addr 1, n)], want := .any, rd := true }]
  | 2 => [{ reg := 0, chunks := rowChunks (c.addr 0) (signExt (c.fld 3 32 32) 32) rows n, want := .any, perm := 2, wr := true },
      { reg := 1, chunks := rowChunks (c.addr 1) (signExt (c.fld 3 0 32) 32) rows n, want := .any, rd := true }]
  | 3 => [{ reg := 0, chunks := [(c.addr 0, size * rows)], want := .nearQuad, wr := true },
      { reg := 1, chunks := elemChunks (c.addr 1) size c.idxs, want := .far, rd := true },
      { reg := 5, chunks := [(c.addr 5, 4 * rows)], want := .nearQuad, rd := true }]
  | 4 => [{ reg := 0, chunks := elemChunks (c.addr 0) size c.idxs, want := .far, perm := 2, wr := true },
      { reg := 1, chunks := [(c.addr 1, size * rows)], want := .nearQuad, rd := true },
      { reg := 5, chunks := [(c.addr 5, 4 * rows)], want := .nearQuad, rd := true }]
  | 5 => [{ reg := 0, chunks := [(c.addr 0, n)], want := .any, perm := 2, wr := true }]
  | 6 => [{ reg := 0, chunks := [(c.addr 0, w)], want := .nearQuad, wr := true },
      { reg := 1, chunks := [(c.addr 1, w)], want := .far, perm := 4, rd := true, wr := true }]
  | 7 => [{ reg := 1, chunks := [(c.addr 1, 64)], want := .any }]
  | _ => [{ reg := 1, chunks := [(c.addr 1, n)], want := .tier }]

/-- R166, R172, R173, R202, R203, R212, R341 to R347: the operands of a G command. R165 puts a block-table row in a stall and names
no reason for a BROW of imported memory: the row is read through its pages (log 154, DESIGN CHOICE). -/
def opndsG (c : Cmd) : List Opnd :=
  match c.code with
  | 1 => [{ reg := 0, chunks := [(c.addr 0, c.rowsQ * c.headDim * fmtBytes c.qFmt)], want := .ownNEAR, rd := true },
      { reg := 1, chunks := [(c.addr 1, 0)], want := .pages },
      { reg := 2, want := .any, rd := true, chunks := if c.pageCount = 0 then [(c.addr 2, 0)]
          else [(c.addr 2 + BitVec.ofNat 64 (8 * c.firstPage), 8 * c.pageCount)] },
      { reg := 3, chunks := [(c.addr 3, c.rowsQ * c.partialRow)], want := .ownNEAR, wr := true }]
  | 2 => [{ reg := 0, chunks := [(c.addr 0, 4 * c.fld 2 0 13)], want := .ownNEAR, rd := true },
      { reg := 1, chunks := [(c.addr 1, 512 + 16 * (c.fld 2 0 13 + c.fld 2 16 7 - 1))], want := .ownNEAR, wr := true }]
  | 3 => [{ reg := 0, chunks := [(c.addr 0, (c.fld 3 0 7 - 1) * c.fld 2 0 32 + (c.fld 3 8 4 + 1) * c.partialRow)]
            want := .quadNEAR, rd := true },
      { reg := 1, chunks := [(c.addr 1, (c.fld 3 8 4 + 1) * c.partialRow)], want := .ownNEAR, wr := true }]
  | 4 => []
  | 5 => [{ reg := 0, chunks := [(c.addr 0, 64)], want := .pages, wr := true }]
  | 6 => [{ reg := 0, chunks := [(c.addr 0, c.fld 2 0 25)], want := .any, rd := true }]
  | 7 => [{ reg := 0, chunks := [(c.addr 0, c.fld 2 0 25)], want := .stall, wr := true }]
  | 8 => [{ reg := 0, chunks := [(c.addr 0, c.redBytes)], want := .any, rd := true },
      { reg := 1, chunks := [(c.addr 1, c.redBytes)], want := .stall, wr := true }]
  | _ => [{ reg := 0, chunks := [(c.addr 0, 64)], want := .own, lien := false }]

/-- The operands of a command. -/
def cmdOpnds (c : Cmd) : List Opnd := if c.group then opndsG c else opndsD c

end Sys2Proof.Machine
end

