-- ==== Sys2Proof/Machine/Transfer.lean ====
section
/-!
DEFINITION. Sys2Proof/Machine/Transfer.lean: D and G commands from acceptance to record (R67 to R78, R333 to R335), their
translation (R25, R26), and the packets and engine-port requests of the D commands (R28, R29, R74, R82, R336 to R339).
-/
namespace Sys2Proof.Machine

/-! ### Acceptance (R67, R68, R77) -/

/-- R67, R68, R77, R162: a D or G command accepted, or its bundle held while a queue is full. -/
def acceptCmd (group : Bool) (code low : Nat) (x : XNum) (t eq : Bool) (s : State) : SlotOut :=
  let c := s.me
  let regs := (List.range 8).map fun i => (if group then c.gs else c.ds).get 0 i
  let rkey := if eq then s.myCore * 4 + (regs.getD 6 0).toNat % 4 else s.cur
  if 16 ≤ (if group then c.gq else c.dq).length || !(s.ctx rkey).evRoom then .hold .queue
  else
    let cmd : Cmd :=
      { id := s.nextId, own := s.owner, group := group, code := code, low := low, timed := t, rkey := rkey
        cookie := (c.xr x).toNat % 2 ^ 32, seq := if group then c.gseq else c.dseq, st := regs, gfmt := c.gfmt
        accepted := s.station, tstart := c.tstart }
    let s := ({ s with nextId := s.nextId + 1 }.setCmd cmd).modCtx rkey Ctx.reserve
    .ok (s.modCtx s.cur fun c =>
      if group then { c with gq := c.gq ++ [cmd.id], gseq := (c.gseq + 1) % 65536 }
      else { c with dq := c.dq ++ [cmd.id], dseq := (c.dseq + 1) % 65536 })

def slotDcopy (c : XNum) (t eq : Bool) (s : State) : SlotOut := acceptCmd false 1 0 c t eq s
def execDcopy (c : XNum) (t eq : Bool) (s : State) : Host.Outcome State Fault Refusal := finishSlot .D s (slotDcopy c t eq s)
def slotDcopy2 (c : XNum) (t eq : Bool) (s : State) : SlotOut := acceptCmd false 2 0 c t eq s
def execDcopy2 (c : XNum) (t eq : Bool) (s : State) : Host.Outcome State Fault Refusal := finishSlot .D s (slotDcopy2 c t eq s)
def slotDgath (c : XNum) (t eq : Bool) (s : State) : SlotOut := acceptCmd false 3 0 c t eq s
def execDgath (c : XNum) (t eq : Bool) (s : State) : Host.Outcome State Fault Refusal := finishSlot .D s (slotDgath c t eq s)
def slotDscat (c : XNum) (t eq : Bool) (s : State) : SlotOut := acceptCmd false 4 0 c t eq s
def execDscat (c : XNum) (t eq : Bool) (s : State) : Host.Outcome State Fault Refusal := finishSlot .D s (slotDscat c t eq s)
def slotDfill (c : XNum) (t eq : Bool) (s : State) : SlotOut := acceptCmd false 5 0 c t eq s
def execDfill (c : XNum) (t eq : Bool) (s : State) : Host.Outcome State Fault Refusal := finishSlot .D s (slotDfill c t eq s)
def slotDatom (c : XNum) (t eq : Bool) (s : State) : SlotOut := acceptCmd false 6 0 c t eq s
def execDatom (c : XNum) (t eq : Bool) (s : State) : Host.Outcome State Fault Refusal := finishSlot .D s (slotDatom c t eq s)
def slotDchase (c : XNum) (t eq : Bool) (s : State) : SlotOut := acceptCmd false 7 0 c t eq s
def execDchase (c : XNum) (t eq : Bool) (s : State) : Host.Outcome State Fault Refusal := finishSlot .D s (slotDchase c t eq s)
def slotDmig (c : XNum) (t eq : Bool) (s : State) : SlotOut := acceptCmd false 8 0 c t eq s
def execDmig (c : XNum) (t eq : Bool) (s : State) : Host.Outcome State Fault Refusal := finishSlot .D s (slotDmig c t eq s)

/-! ### Records -/

/-- R76, R348: a command's record. -/
def cmdRecord (c : Cmd) (start count : Nat) (addr : Word) (reason status : Nat) : Record :=
  mkRecord addr start c.cookie count c.seq (if c.group then 2 else 0) c.code reason status c.own.key

/-- R77: who receives a command's record. -/
def Cmd.receiver (c : Cmd) : Owner := { key := c.rkey, launch := c.own.launch, dev := c.own.dev }

/-- R71, R216: the start cycle of a timed command, or the start value of a `gtt`. -/
def Cmd.startAt (c : Cmd) : Nat := if c.group && c.code == 9 then c.fld 1 0 54 * 1024 else c.tstart + c.fld 7 0 32

/-- A command leaves its context's queue; where it was at the head, the next one is there from the next cycle on (R69, R333). -/
def Ctx.unqueue (id now : Nat) (c : Ctx) : Ctx :=
  { c with dq := c.dq.filter (· != id), gq := c.gq.filter (· != id)
           dleft := if c.dq.head? == some id then now + 1 else c.dleft
           gleft := if c.gq.head? == some id then now + 1 else c.gleft }

/-- R26, R71, R75, R76: a command that never starts posts its record; a failed timed start raises cause 0x20. -/
def State.failCmd (s : State) (c : Cmd) (reason status : Nat) (addr : Word) : State :=
  let start := if c.timed || reason == rsTIMING then c.startAt else s.station
  let s := ((s.modOwner c.own (Ctx.unqueue c.id s.station)).dropCmd c.id).handRecord (2 ^ 200 + c.id) c.receiver
    (cmdRecord c start 0 addr reason status)
  if reason = rsTIMING then s.postAsync c.own 0x20 (c.addr 0) else s

/-- R76: a running command posts its record, and its liens are released; its ranges stand in the way until the next
cycle (R70). -/
def State.finishCmd (s : State) (c : Cmd) (count reason status : Nat) (addr : Word) : State :=
  let s := { s with xfers := s.xfers.filter fun x => x.cmd != c.id }
  ((s.setCmd { c with stage := .posted }).release c.own.dev c.liens).handRecord c.order c.receiver
    (cmdRecord c c.start count addr reason status)

/-- R36, R76: a record's REASON and ADDR where no other reason is given. -/
def Cmd.poisonReason (c : Cmd) : Nat × Word := match c.bad with | some b => (rsPOISON, b.2) | none => (rsOK, 0)

/-! ### Packets at their pages and stacks (R28, R30, R37, R406) -/

/-- A physical address of far storage. -/
def isFarPhys (p : Nat) : Bool := 2 ^ 40 ≤ p

/-- R30: the tiered page at a physical far address. -/
def tierAt (s : State) (p : Nat) (t : TierPage) : Bool :=
  let x := s.stall t.dev t.id
  x.phys / 2 ^ 40 == p / 2 ^ 40 && t.page == p % 2 ^ 40 / 65536

/-- A far byte lies in HBM. -/
def inHbm (s : State) (p : Nat) : Bool :=
  match rootAt s p with
  | some (_, x) => x.level == 3 || s.tier.any fun t => tierAt s p t && t.hbm
  | none => false

/-- R406: the count of a device's bank time on a stack in this tick, by key. -/
def bwKey (dev p : Nat) : Nat := dev * 256 + (Config.rowOf p).toNat / 2 ^ 40
/-- R406: the device has used its share of the stack of a far byte in this tick. -/
def shareSpent (s : State) (dev p : Nat) : Bool :=
  let share := (s.dev dev).hbmshare
  share != 0 && share * Config.stackTime ≤ s.bwUsed.get 0 (bwKey dev p) * 65536

/-- R37, R406: a packet of a device at a far byte of HBM: its bank time is counted, and its row is tracked where it reaches the
mitigation threshold. -/
def State.bankUse (s : State) (dev p : Nat) : State :=
  if !inHbm s p then s
  else
    { s with bwUsed := s.bwUsed.set 0 (bwKey dev p) (s.bwUsed.get 0 (bwKey dev p) + Config.packetTime p)
             rows := if Config.hammers p s.station then s.rows.set 0 (Config.rowOf p).toNat (dev + 1) else s.rows }

/-- R30: a packet performed on a tiered page adds 1 to its heat. -/
def State.heatUp (s : State) (p : Nat) : State :=
  { s with tier := s.tier.map fun (t : TierPage) => if tierAt s p t then { t with heat := min 255 (t.heat + 1) } else t }

/-- R28, R30, R37, R406: one packet of a device at a far byte. -/
def State.packetAt (s : State) (dev p : Nat) : State := (s.heatUp p).bankUse dev p
/-- R28: the packets of n bytes from a far address, one for each 128-byte block. -/
def State.packetsAt (s : State) (dev p n : Nat) : State :=
  if n = 0 then s
  else (List.range ((p + n - 1) / 128 - p / 128 + 1)).foldl (fun t i => t.packetAt dev (max p ((p / 128 + i) * 128))) s

/-! ### Packets that wait (R28, R29, R406) -/

/-- R28: the far place of a packet that has not performed. -/
def Xfer.waitsAt (x : Xfer) : Option Nat :=
  match x.st, x.src, x.dst with
  | .toRead, some (.far p), _ => some p
  | .haveData, _, some (.far p) => some p
  | _, _, _ => none

/-- R29: a packet of the core to the same 128-byte block that issued before waits to perform. -/
def blockBusy (s : State) (x : Xfer) (p : Nat) : Bool :=
  s.xfers.any fun y => y.tag && y.issued < x.issued && y.core == x.core
    && (match y.waitsAt with | some q => q / 128 == p / 128 | none => false)

/-- R406: on the stack of a far byte some packet waits, of a device that has not used its share, that could be served. -/
def othersWait (s : State) (p : Nat) : Bool :=
  s.xfers.any fun y => y.tag && (match y.waitsAt with
    | some q => inHbm s q && (Config.rowOf q).toNat / 2 ^ 40 == (Config.rowOf p).toNat / 2 ^ 40
        && !shareSpent s y.own.dev q && !blockBusy s y q
    | none => false)
/-- R406: a packet of a device that has used its share of a stack is served after the packets there of devices that have not. -/
def shareWaits (s : State) (dev p : Nat) : Bool := inHbm s p && shareSpent s dev p && othersWait s p

/-! ### Heads and translation (R25, R26, R69) -/

/-- The commands accepted and not started of one engine of a context. -/
def Ctx.cmdQueue (c : Ctx) (group : Bool) : List Nat := if group then c.gq else c.dq

/-- R78: the command's context is on its core. Until it is saved its accepted commands may start, also after a pre-emption
request: the spec does not say when they cease to (log 127, DESIGN CHOICE). -/
def cmdHere (s : State) (c : Cmd) : Bool :=
  let x := s.ctx c.own.key
  x.launch == c.own.launch && x.run != .saved && x.run != .idle

/-- R397: the engines run: they stop at the third step of shed entry, once every core is pre-empted. -/
def enginesRun (s : State) : Bool := s.shed == .running || s.shed == .entering

/-- R386, R397: commands that have not started wait while the partition is halted, and while the engines are stopped in a shed. -/
def cmdGoes (s : State) (c : Cmd) : Bool := cmdHere s c && (s.core (keyCore c.own.key)).halted.isNone && enginesRun s

/-- R69: the command stands at the head of its context's queue, from which none has gone in this cycle. -/
def isHead (s : State) (c : Cmd) : Bool :=
  let x := s.ctx c.own.key
  cmdGoes s c && (x.cmdQueue c.group).head? == some c.id && (if c.group then x.gleft else x.dleft) != s.station + 1

/-- R70, R334, R357: ranges meet the write range of a command of the core, or the stalls of its running routine. -/
def hazard (s : State) (core : Nat) (rs : List Range) : Bool :=
  ((runningCmds s core).any fun r => anyMeet rs r.writes)
  || (match (s.core core).eng.routine with
      | some r => anyMeet rs (snapRanges s r.own.dev r.snap)
      | none => false)

/-- The bytes that a command reads before it can be translated: an index list (R74) or block-table entries (R167). -/
def Cmd.tableOpnd (c : Cmd) : Option Opnd :=
  if !c.group && (c.code == 3 || c.code == 4) then (cmdOpnds c).find? fun o => o.reg == 5
  else if c.group && c.code == 1 then (cmdOpnds c).find? fun o => o.reg == 2
  else none

/-- Those bytes may be read: what wrote them before has performed (log 35). -/
def tableReady (s : State) (c : Cmd) : Bool :=
  match c.tableOpnd with
  | none => true
  | some o =>
    let rs := opndRange s c.own.dev o
    earlierDone s c.own c.id rs && !hazard s (keyCore c.own.key) rs

/-- R406: the packets that read those bytes wait for those of devices that have not used their shares. -/
def tableYields (s : State) (c : Cmd) : Bool :=
  match c.tableOpnd with
  | some o => o.chunks.any fun k =>
      let p := (s.stall c.own.dev (addrStall k.1)).at k.1
      isStallAddr k.1 && isFarPhys p && shareWaits s c.own.dev p
  | none => false

/-- n32 elements from bytes. -/
def words32 (bs : List Byte) (n : Nat) : List Nat := (List.range n).map fun i => bytesToNat ((bs.drop (4 * i)).take 4)

/-- R36: the first poisoned byte of n from a physical address. -/
def poisonAt (s : State) (p n : Nat) : Option Nat := firstPoison s p n

/-- R36: a command keeps the first poisoned source: operands in staging order, then ascending address. -/
def Cmd.notePoison (c : Cmd) (opnd : Nat) (a : Word) : Cmd :=
  let a : Word := BitVec.ofNat 64 (a.toNat / 64 * 64)
  match c.bad with
  | some b => if opnd < b.1 || (opnd == b.1 && a.toNat < b.2.toNat) then { c with bad := some (opnd, a) } else c
  | none => { c with bad := some (opnd, a) }

/-- R36: n bytes of an operand, at a physical address, that hold a poisoned granule are noted in the command. -/
def notedAt (s : State) (c : Cmd) (opnd : Nat) (a : Word) (p n : Nat) : Cmd :=
  match poisonAt s p n with
  | some i => c.notePoison opnd (a + BitVec.ofNat 64 i)
  | none => c

/-- R36, R74: the index list of a gather or scatter, once its operand is known to be good. -/
def withIndexes (s : State) (c : Cmd) : Cmd :=
  match c.tableOpnd with
  | some o =>
    match o.chunks with
    | (a, n) :: _ =>
      if c.group || n = 0 || !(chunkSteps s (keyCore c.own.key) c.own.dev o a n).isEmpty then c
      else
        let p := (s.stall c.own.dev (addrStall a)).at a
        { notedAt s c o.reg a p n with idxs := words32 (s.mem.readN p n) (n / 4) }
    | [] => c
  | none => c

/-- R167: an `adec`. -/
def Cmd.isAdec (c : Cmd) : Bool := c.group && c.code == 1

/-- R26: the steps of a command's translation that are known as it begins: of an `adec`, those before its pages (R167). -/
def cmdSteps (s : State) (c : Cmd) : List TStep :=
  opndSteps s (keyCore c.own.key) c.own.dev ((cmdOpnds c).filter fun o => !(c.isAdec && o.reg == 3))

/-- R165: a block-table entry in a die's cache. -/
def cachedEntry (s : State) (die dev : Nat) (a : Word) : Option Word :=
  ((s.bcache.get [] die).find? fun e => e.1 == dev && e.2.1 == a).map fun e => e.2.2

/-- R165, R167: entry j of a block-table row, from the die's cache or from memory. -/
def rowEntry (s : State) (c : Cmd) (j : Nat) : Word × Word :=
  let a := c.addr 2 + BitVec.ofNat 64 (8 * j)
  match cachedEntry s (coreDie (keyCore c.own.key)) c.own.dev a with
  | some v => (a, v)
  | none => (a, BitVec.ofNat 64 (bytesToNat (s.mem.readN (placeOf s c.own.dev c.pages c.entries a).phys 8)))

/-- R167: a resolved page lies in POOL's stall. R164 starts a page on a granule boundary, and R167 names no failure for an entry that
does not: its page is read where it stands (log 145, DESIGN CHOICE). -/
def pageOk (s : State) (c : Cmd) (v : Word) : Bool :=
  let x := s.stall c.own.dev (addrStall v)
  isStallAddr v && addrStall v == addrStall (c.addr 1) && addrOffset v + c.pageBytes ≤ 64 * x.len

/-- R165: entries put into a die's block cache of 4,096 entries. Which one gives way the spec leaves open; here it is the oldest (log
125, DESIGN CHOICE). -/
def State.cacheRows (s : State) (die dev : Nat) (es : List (Word × Word)) : State :=
  let l := s.bcache.get [] die
  let new := es.filter fun e => !l.any fun f => f.1 == dev && f.2.1 == e.1
  let l := l ++ new.map fun e => (dev, e.1, e.2)
  { s with bcache := s.bcache.set [] die (l.drop (l.length - 4096)) }

/-- R341: the pages that an `adec` resolved, as an operand that its second staging register names. -/
def Cmd.pagesOpnd (c : Cmd) (ps : List Word) : Opnd := { reg := 1, chunks := ps.map fun p => (p, c.pageBytes), want := .pages }
/-- The bounding range of the pages that an `adec` resolved (R341). -/
def pagesRange (s : State) (c : Cmd) (ps : List Word) : List Range := opndRange s c.own.dev (c.pagesOpnd ps)

/-- R26: a stall that a command names, and which of those that had its id. -/
def heldStall (s : State) (dev : Nat) (a : Word) : Nat × Nat := (addrStall a, (s.stall dev (addrStall a)).born)

/-- R26: a command with the translations that it holds. -/
def Cmd.holds (c : Cmd) (es : List TEntry) : Cmd :=
  let imp := es.filter fun e => e.page < 2 ^ 60
  { c with got := es, pages := imp.map (·.page), entries := imp.map (·.target) }

/-- R26, R70, R341: a command whose pages are all translated: its ranges are known. -/
def translated (s : State) (c : Cmd) (es : List TEntry) : Cmd :=
  let ops := cmdOpnds c
  { c.holds es with
      stage := .translated
      step := 0
      tsteps := some []
      reads := (ops.filter (·.rd)).flatMap (opndRange s c.own.dev) ++ pagesRange s c c.resolved
      writes := (ops.filter (·.wr)).flatMap (opndRange s c.own.dev) }

/-- The elements of a list up to the first that satisfies p, that one included. -/
def upTo {α : Type} (p : α → Bool) : List α → List α
  | [] => []
  | a :: as => if p a then [a] else a :: upTo p as

/-- R167: an entry that ends a resolution. -/
def entryBad (s : State) (c : Cmd) (e : Word × Word) : Bool := e.2 == 0 || !pageOk s c e.2

/-- R165, R167: the entries that an `adec` reads, up to one that ends its resolution. -/
def rowsRead (s : State) (c : Cmd) : List (Word × Word) :=
  upTo (entryBad s c) ((List.range c.pageCount).map fun i => rowEntry s c (c.firstPage + i))

/-- R26, R167: an `adec` with the entries that it resolved: their pages are translated next, as what its second staging register names,
and its last operand after them. -/
def withPages (s : State) (c : Cmd) (es : List (Word × Word)) : Cmd :=
  let ps := es.map Prod.snd
  { c with resolved := ps, cached := es.map Prod.fst, step := 1
           tsteps := some (opndSteps s (keyCore c.own.key) c.own.dev (c.pagesOpnd ps :: (cmdOpnds c).filter fun o => o.reg == 3)) }

/-- R28, R74: the packets that read n bytes of a command's index list or of its block-table row, where they lie far. -/
def State.tablePackets (s : State) (c : Cmd) (a : Word) (n : Nat) : State :=
  let p := (placeOf s c.own.dev c.pages c.entries a).phys
  let s := s.scan p n
  if isFarPhys p then s.packetsAt c.own.dev p n else s

/-- R26: translation goes on from the steps that a command has left, and what follows the last of them is `rest`. -/
def State.takeSteps (s : State) (c : Cmd) (rest : State → Cmd → State) : State :=
  let core := keyCore c.own.key
  match translateSteps s (coreDie core) c.own.dev (c.tsteps.getD []) c.got with
  | .failed r a => s.failCmd c r stOK a
  | .missing key left got =>
    let w := s.joinWalk (coreDie core) c.own.dev key
    w.2.setCmd { c with tsteps := some left, got := got, waits := w.1.toList }
  | .done es => rest s (c.holds es)

/-- R26: the last step of a command's translation is done. -/
def State.endSteps (s : State) (c : Cmd) : State := s.setCmd (translated s c c.got)

/-- R36: a command that has read block-table entries notes the poisoned granules among them, which its third staging register names. -/
def notedRows (s : State) (c : Cmd) (es : List (Word × Word)) : Cmd :=
  es.foldl (fun d e => notedAt s d 2 e.1 (placeOf s c.own.dev c.pages c.entries e.1).phys 8) c

/-- R165, R167: an `adec` whose operands before its pages are translated resolves its pages: it fails with OUTSIDE at the first bad entry,
or its translation goes on with them. Every entry it reads is in the die's cache from then on. -/
def State.resolve (s : State) (c : Cmd) : State :=
  let es := rowsRead s c
  let miss := es.filter fun e => (cachedEntry s (coreDie (keyCore c.own.key)) c.own.dev e.1).isNone
  let t := match miss with
    | [] => s
    | e :: _ => s.tablePackets c e.1 (8 * miss.length)
  let c := notedRows t c miss
  let t := t.cacheRows (coreDie (keyCore c.own.key)) c.own.dev es
  match es.find? (entryBad s c) with
  | some e => t.failCmd c rsOUTSIDE stOK e.2
  | none => t.takeSteps (withPages s c es) State.endSteps

/-- R24: the stalls that a command names pass through its core's lookaside. -/
def State.lookAt (s : State) (c : Cmd) : State :=
  s.modCore (keyCore c.own.key) fun k => (opndStalls (cmdOpnds c)).foldl (fun k a => k.lookUp c.own.dev (addrStall a)) k

/-- R26: a command as its translation begins: the index list is read, the steps are laid out, and the stalls that it names are kept, so
that one reclaimed from here on is known at the start. -/
def withSteps (s : State) (c : Cmd) : Cmd :=
  match c.tsteps with
  | some _ => c
  | none =>
    let c := withIndexes s c
    { c with tsteps := some (cmdSteps s c), held := (opndStalls (cmdOpnds c)).map (heldStall s c.own.dev) }

/-- R74: the index list of a gather or scatter is read as its translation begins. -/
def State.listPackets (s : State) (c : Cmd) : State :=
  match c.tableOpnd with
  | some o => if c.group || c.tsteps.isSome then s else o.chunks.foldl (fun s k => s.tablePackets c k.1 k.2) s
  | none => s

/-- R26: what a head's translation comes to, from the pages it has on. -/
def State.translateCmd (s : State) (c : Cmd) : State :=
  let s := s.listPackets c
  let c := withSteps s c
  (s.lookAt c).takeSteps c fun s c => if c.isAdec && c.step == 0 then s.resolve c else s.endSteps c

/-- R71: a timed command that has missed its start cycle; it translates nothing. -/
def Cmd.missed (now : Nat) (c : Cmd) : Bool := c.timed && (c.startAt ≤ c.accepted || c.startAt < now)

/-- R26: a command that translation may take up now. -/
def mayTranslate (s : State) (c : Cmd) : Bool :=
  c.stage == .queued && isHead s c && c.waits.isEmpty && c.accepted < s.station && !cmdBad s c && !cmdZero c && tableReady s c
  && !tableYields s c && !c.missed s.station

/-! ### Pieces (R28, R82) -/

/-- Bytes up to the end of the 128-byte block of a far place, or of the granule of a near one. -/
def runLen : Option Loc → Nat
  | none => 128
  | some (.near p) => 64 - p % 64
  | some (.far p) => 128 - p % 128

/-- The pieces of n bytes, as offset and length, from a source and a destination; fuel bounds their number. -/
def pieces (sa da : Nat → Option Loc) (n : Nat) : Nat → Nat → List (Nat × Nat)
  | 0, _ => []
  | f + 1, i =>
    if n ≤ i then []
    else
      let l := min (n - i) (min (runLen (sa i)) (runLen (da i)))
      (i, l) :: pieces sa da n f (i + l)

/-- What a run of bytes is to do: destination, source with its operand, length, and, where nothing is read, the bytes or the pattern of
eight that is written. -/
structure Run where
  dst  : Option Word := none
  src  : Option (Nat × Word) := none
  n    : Nat
  data : List Byte := []
  fill : Word := 0
  deriving DecidableEq, Repr

/-- R28: of the packet that byte i of a run of n stands in, at a place: its bytes before i, and all of them. A piece of len bytes of near
storage is a request of its own. -/
def packetPart (l : Option Loc) (i len n : Nat) : Nat × Nat :=
  match l with
  | some (.far q) => (min i (q % 128), min i (q % 128) + min (n - i) (128 - q % 128))
  | _ => (0, len)

/-- R28, R82: the requests of run k of a job: `mk` says whose they are, and `place` where a byte stands. -/
def runPieces (place : Word → Loc) (mk : Xfer) (k : Nat) (r : Run) : List Xfer :=
  let sa : Nat → Option Loc := fun i => r.src.map fun x => place (x.2 + BitVec.ofNat 64 i)
  let da : Nat → Option Loc := fun i => r.dst.map fun a => place (a + BitVec.ofNat 64 i)
  (pieces sa da r.n r.n 0).map fun p =>
    { mk with
        run := k, off := p.1, bytes := p.2, src := sa p.1, dst := da p.1
        opnd := match r.src with | some x => x.1 | none => 0
        srcAddr := match r.src with | some x => x.2 + BitVec.ofNat 64 p.1 | none => 0
        dstAddr := match r.dst with | some a => a + BitVec.ofNat 64 p.1 | none => 0
        packet := packetPart (sa p.1) p.1 p.2 r.n
        wpacket := packetPart (da p.1) p.1 p.2 r.n
        data := if r.src.isSome then [] else if !r.data.isEmpty then (r.data.drop p.1).take p.2
          else (List.range p.2).map fun i => BitVec.ofNat 8 (r.fill.toNat / 2 ^ (8 * ((p.1 + i) % 8)))
        st := match r.src with | some _ => .toRead | none => .haveData }

/-- R84: the operand by whose address a command's writes are ordered among those of its engine. -/
def Cmd.outOpnd (c : Cmd) : Nat := if !c.group then 0 else match c.code with | 1 => 3 | 2 | 3 | 8 => 1 | _ => 0

/-- A request of a command, of no bytes yet. -/
def cmdXfer (s : State) (c : Cmd) : Xfer :=
  { id := 0, cmd := c.id, job := c.id, own := c.own, core := keyCore c.own.key, agent := if c.group then 3 else 2
    ord := c.reg c.outOpnd, src := none, dst := none, bytes := 0, born := s.station }

/-- R28, R82: the requests of the runs of a command. -/
def runXfers (s : State) (c : Cmd) (rs : List Run) : List Xfer :=
  (List.range rs.length).flatMap fun k => match rs[k]? with
    | some r => runPieces (placeOf s c.own.dev c.pages c.entries) (cmdXfer s c) k r
    | none => []

/-- Requests put on their way, in issue order. -/
def State.addXfers (s : State) (xs : List Xfer) : State :=
  { s with nextId := s.nextId + xs.length
           xfers := s.xfers ++ (List.range xs.length).filterMap fun i => xs[i]?.map fun x => { x with id := s.nextId + i } }

/-- R74: OP of a far atomic. -/
def atomOpOf : Nat → AtomOp
  | 0 => .add | 1 => .and | 2 => .or | 3 => .xor | 4 => .min | 5 => .max | 6 => .minn | 7 => .maxn | 8 => .fadd
  | 9 => .xchg | _ => .cas

/-- R74: the runs of a D command. -/
def runsD (c : Cmd) : List Run :=
  let n := c.fld 2 0 25
  let rows := c.fld 2 32 25
  let size := c.fld 2 0 13
  let pair : Nat → Word × Nat → Word × Nat → Run := fun o d x => { dst := some d.1, src := some (o, x.1), n := d.2 }
  match c.code with
  | 1 => [{ dst := some (c.addr 0), src := some (1, c.addr 1), n := n }]
  | 2 => List.zipWith (pair 1) (rowChunks (c.addr 0) (signExt (c.fld 3 32 32) 32) rows n)
      (rowChunks (c.addr 1) (signExt (c.fld 3 0 32) 32) rows n)
  | 3 => List.zipWith (pair 1) (elemChunks (c.addr 0) size (List.range rows)) (elemChunks (c.addr 1) size c.idxs)
  | 4 => List.zipWith (pair 1) (elemChunks (c.addr 0) size c.idxs) (elemChunks (c.addr 1) size (List.range rows))
  | 5 => [{ dst := some (c.addr 0), n := n, fill := c.addr 1 }]
  | 7 => [{ src := some (1, c.addr 1), n := 64 }]
  | _ => []

/-- R338: the one packet of a `datom`. -/
def atomXfer (s : State) (c : Cmd) : Xfer :=
  let wide := c.fld 2 8 1 == 1
  let w := if wide then 64 else 32
  { cmdXfer s c with
      src := some (placeOf s c.own.dev c.pages c.entries (c.addr 1)), opnd := 1, srcAddr := c.addr 1
      dst := some (placeOf s c.own.dev c.pages c.entries (c.addr 0)), dstAddr := c.addr 0, bytes := w / 8, packet := (0, w / 8)
      wpacket := (0, w / 8), atom := some (atomOpOf (c.fld 2 0 4), wide, c.reg 4 % 2 ^ w, c.reg 5 % 2 ^ w) }

/-- R30: a `dmig` hint sets the heat of the pages of its range. -/
def State.hint (s : State) (c : Cmd) : State :=
  let r := opndRange s c.own.dev { reg := 1, chunks := [(c.addr 1, c.fld 2 0 25)], want := .tier }
  let h := if c.fld 5 0 1 = 0 then 255 else 0
  { s with tier := s.tier.map fun (t : TierPage) =>
      let lo := (s.stall t.dev t.id).phys / 2 ^ 40 * 2 ^ 40 + t.page * 65536
      if r.any fun x => rangesMeet x { lo := lo, hi := lo + 65536 } then { t with heat := h } else t }

/-- R24: what a core reads or writes within one step of n far bytes of a device from a physical address: the descriptor of their stall passes
through the core's lookaside, and their pages through its die's cache. -/
def State.seePages (s : State) (core dev p n : Nat) : State :=
  match (s.dev dev).stalls.find? fun e => e.2.id != 0 && e.2.phys ≤ p && p + n ≤ e.2.phys + 64 * e.2.len with
  | none => s
  | some (_, x) =>
    if n = 0 || isNearLevel x.level then s
    else (pageStarts (p - x.phys) n).foldl (fun s o => match walkPage s dev (stallPage x.id (o / 65536)) with
        | some e => s.cacheEntry (coreDie core) e
        | none => s) (s.modCore core (Core.lookUp dev x.id))

/-! ### Starting (R69, R71, R333) -/

/-- R333: the unit of a G command. -/
def unitOf : Nat → Nat
  | 1 | 3 => 0
  | 2 => 1
  | 4 | 5 => 2
  | 9 => 4
  | _ => 3

/-- R171: an `adec` that its engine has stopped and saved with its context. -/
def adecSaved (s : State) (c : Cmd) : Bool := c.group && c.code == 1 && !cmdHere s c

/-- R69, R333: the engine can run one more command of this kind. A `kvinv` has its unit in its start cycle only. -/
def unitFree (s : State) (c : Cmd) : Bool :=
  let live := (runningCmds s (keyCore c.own.key)).filter fun r => r.stage == .running && r.group == c.group && !adecSaved s r
  if !c.group then live.length < 8
  else live.length < 16 && (unitOf c.code == 3 || !live.any fun r =>
    (r.code != 4 || r.start == s.station) && unitOf r.code == unitOf c.code)

/-- R57: the stalls on which a command places liens. -/
def cmdLiens (c : Cmd) : List Nat := (opndStalls ((cmdOpnds c).filter (·.lien))).map addrStall

/-- R69, R70, R333, R355, R357: conditions 3 to 6 of a start. -/
def startClear (s : State) (c : Cmd) (reads writes : List Range) : Bool :=
  let names := if reads.isEmpty && writes.isEmpty then [] else
    (opndStalls (cmdOpnds c)).map fun a => (s.stall c.own.dev (addrStall a)).range
  unitFree s c && !hazard s (keyCore c.own.key) (reads ++ writes)
  && earlierDone s c.own c.id names && lienRoom (s.dev c.own.dev) (cmdLiens c)

/-- R69, R70, R333, R355, R357: a translated head can start. -/
def cmdReady (s : State) (c : Cmd) : Bool := c.stage == .translated && isHead s c && startClear s c c.reads c.writes

/-- R75: a command with a parameter fault would start: it is at the head, and conditions 3 to 6 of R69 hold for what its
registers name. It is not translated, so condition 2 is taken as met (log 128). One with a zero count waits for the head only, and where it is
timed for its start cycle only. -/
def badReady (s : State) (c : Cmd) : Bool :=
  let of := fun (p : Opnd → Bool) => ((cmdOpnds c).filter p).flatMap (opndRange s c.own.dev)
  if cmdZero c then (if c.timed then cmdGoes s c else isHead s c) else isHead s c && startClear s c (of (·.rd)) (of (·.wr))

/-- R69, R71, R75: the command starts, or with a zero count posts NONE, in this cycle. -/
def startNow (s : State) (c : Cmd) : Bool :=
  (c.stage == .queued || c.stage == .translated) && cmdGoes s c && c.accepted < s.station && !cmdBad s c
  && (if c.timed then c.startAt == s.station && (cmdZero c || cmdReady s c)
      else isHead s c && (cmdZero c || cmdReady s c))

/-- R26: the first named stall that fails at the start stamp: reclaimed since translation, or failing R47. -/
def stampFail (s : State) (c : Cmd) : Option (Nat × Word) :=
  let gone := fun (e : Word × Nat × Nat) => let x := (s.view c.own.dev).stall e.2.1; x.id == 0 || x.born != e.2.2
  ((List.zip (opndStalls (cmdOpnds c)) c.held).find? fun e =>
    gone e || !((s.view c.own.dev).stall e.2.1).live s.tick).map fun e => (if gone e then rsOUTSIDE else rsEXPIRED, e.1)

/-- R69: a command starts: it leaves its queue, and its liens are placed. -/
def State.beginCmd (s : State) (c : Cmd) : State × Cmd :=
  let c : Cmd := { c with stage := .running, start := s.station, order := s.nextId, liens := cmdLiens c, when_ := s.station }
  ((({ s with nextId := s.nextId + 1 }.modOwner c.own (Ctx.unqueue c.id s.station)).placeLiens c.own.dev c.liens).setCmd c, c)

/-- TRANSFER_START. -/
def execTransferStart (cmd : Nat) (s : State) : Host.Outcome State Fault Refusal :=
  match s.cmd cmd with
  | some c =>
    if c.group || !startNow s c then .next s
    else if cmdZero c then .next (s.failCmd c rsOK stNONE 0)
    else match stampFail s c with
      | some (r, a) => .next (s.failCmd c r stOK a)
      | none =>
        let b := s.beginCmd c
        if c.code = 6 then .next (b.1.addXfers [atomXfer b.1 b.2])
        else if c.code = 8 then .next (b.1.hint b.2)
        else .next (b.1.addXfers (runXfers b.1 b.2 (runsD b.2)))
  | none => .next s

/-- R71, R78: a timed command that is not ready at its start cycle, or whose start cycle has passed. -/
def timedLate (s : State) (c : Cmd) : Bool :=
  c.timed && (c.stage == .queued || c.stage == .translated) && cmdGoes s c
  && (if c.startAt ≤ c.accepted then c.accepted < s.station
      else if c.startAt < s.station then isHead s c
      else c.startAt == s.station && !(if cmdBad s c then badReady s c else cmdZero c || cmdReady s c))

/-- R216, R347: a `gtt` that has not started by its start value. -/
def gttLate (s : State) (c : Cmd) : Bool :=
  c.group && c.code == 9 && (c.stage == .queued || c.stage == .translated) && cmdGoes s c && c.accepted < s.station
  && c.startAt ≤ s.station

/-- TIMED_START_FAILURE. -/
def execTimedStartFailure (cmd : Nat) (s : State) : Host.Outcome State Fault Refusal :=
  match s.cmd cmd with
  | some c => if timedLate s c || gttLate s c then .next (s.failCmd c rsTIMING stOK 0) else .next s
  | none => .next s

/-- R75: a command with a parameter fault would start in this cycle. -/
def badNow (s : State) (c : Cmd) : Bool :=
  c.stage == .queued && c.accepted < s.station && cmdBad s c && badReady s c && (!c.timed || c.startAt == s.station)

/-- BADPARAM_RECORD. -/
def execBadparamRecord (cmd : Nat) (s : State) : Host.Outcome State Fault Refusal :=
  match s.cmd cmd with
  | some c => if badNow s c then .next (s.failCmd c rsBADPARAM stOK 0) else .next s
  | none => .next s

/-! ### Chases (R74, R337) -/

/-- R337: a chase ends early: STATUS NONE with the pages reached. -/
def State.endChase (s : State) (c : Cmd) (reason : Nat) (addr : Word) : State :=
  let p := c.poisonReason
  if reason = rsOK then s.finishCmd c c.count p.1 stNONE p.2 else s.finishCmd c c.count reason stNONE addr

/-- R337: a running chase takes up its next header, whose translation it holds while it reads it. -/
def State.chaseNext (s : State) (c : Cmd) : State :=
  let core := keyCore c.own.key
  let a := c.resolved.getD 0 0
  let s := if isStallAddr a then s.modCore core (Core.lookUp c.own.dev (addrStall a)) else s
  let o : Opnd := { reg := 1, chunks := [(a, 64)], want := .any }
  match translateSteps s (coreDie core) c.own.dev (opndSteps s core c.own.dev [o]) [] with
  | .failed r b => s.endChase c r b
  | .missing key _ _ =>
    let w := s.joinWalk (coreDie core) c.own.dev key
    w.2.setCmd { c with waits := w.1.toList }
  | .done es =>
    if isStallAddr a && !((s.view c.own.dev).stall (addrStall a)).live s.tick then s.endChase c rsEXPIRED a
    else
      let c := { c.holds es with step := 0 }
      (s.setCmd c).addXfers (runXfers s c [{ src := some (1, a), n := 64 }])

/-- R164: NEXT of a header. -/
def headerNext (bs : List Byte) : Word := BitVec.ofNat 64 (bytesToNat ((bs.drop 56).take 8))

/-- R74: a header of a chase has been read. -/
def State.chaseRead (s : State) (c : Cmd) (hdr : List Byte) : State :=
  let c := { c with count := c.count + 1 }
  let p := c.poisonReason
  let next := headerNext hdr
  if c.count = c.fld 2 0 12 then s.finishCmd c c.count p.1 stOK p.2
  else if next = 0 then s.endChase c rsOK 0
  else { s with xfers := s.xfers.filter fun x => x.cmd != c.id }.setCmd
    { c with step := 1, resolved := [next], when_ := s.station, got := [] }

/-- R74, R397: a running chase may take up its next header: it begins no read while the engines are stopped. -/
def chaseGoes (s : State) (c : Cmd) : Bool :=
  c.stage == .running && !c.group && c.code == 7 && c.step == 1 && c.waits.isEmpty && enginesRun s

/-- COMMAND_TRANSLATION: of a head (R26), or of the next header of a chase (R337). -/
def execCommandTranslation (cmd : Nat) (s : State) : Host.Outcome State Fault Refusal :=
  match s.cmd cmd with
  | some c =>
    if mayTranslate s c then .next (s.translateCmd c)
    else if chaseGoes s c then .next (s.chaseNext c)
    else .next s
  | none => .next s

/-- R26: the address at which a translation stands. -/
def stepAddr (c : Cmd) : Word := match c.tsteps with | some (.page _ a _ :: _) => a | _ => 0

/-- R25, R26: one command is answered by a walk: its translation goes on in this cycle. -/
def State.answerWalk (s : State) (w : Walk) (found : Bool) (id : Nat) : State :=
  match s.cmd id with
  | some c =>
    if !c.waits.contains w.id then s
    else
      let c := { c with waits := [] }
      if c.stage == .running then (if found then s.setCmd c else s.endChase c rsNOTMAPPED (c.resolved.getD 0 0))
      else if !found then s.failCmd c rsNOTMAPPED stOK (stepAddr c)
      else if mayTranslate s c then s.translateCmd c else s.setCmd c
  | none => s

/-- R31, R32: the tiered page lies under n bytes' translation: a page of its stall, or of one sublet of it, of which it may hold a
part. -/
def touchesPage (s : State) (n : Nat × Nat × Nat) (target : Nat) : Bool :=
  target / 2 ^ 40 == (s.stall n.1 n.2.1).phys / 2 ^ 40
  && (target % 2 ^ 40 / 65536 == n.2.2 || (target + 65535) % 2 ^ 40 / 65536 == n.2.2)

/-- R31, R32: a page of a far stall lies in one that is being moved. -/
def pageMoving (s : State) (dev page : Nat) : Bool :=
  match walkPage s dev page with
  | none => false
  | some e => 2 ^ 60 ≤ page && s.moves.any fun m => match m.2 with
    | some v =>
      let is := fun (n : Nat × Nat × Nat) => n.1 == dev && touchesPage s n e.target
      is v.cand || v.swap.any is
    | none => false

/-- WALK_COMPLETE: every joined miss is answered in this cycle. -/
def execWalkComplete (walk : Nat) (s : State) : Host.Outcome State Fault Refusal :=
  match s.walks.find? fun w => w.id == walk && w.active with
  | none => .next s
  | some w =>
    if pageMoving s w.dev w.page then .next s
    else
      let ids := s.cmds.map Prod.fst
      let s := { s with walks := wakeWalk w.die (s.walks.filter fun v => v.id != walk) }
      match walkPage s w.dev w.page with
      | some e => .next (ids.foldl (fun s id => s.answerWalk w true id) (s.cacheEntry w.die e))
      | none => .next (ids.foldl (fun s id => s.answerWalk w false id) s)

/-! ### Moving the bytes (R28, R29, R82) -/

/-- R36: a request's source was read: a poisoned granule is noted in its command. -/
def State.noteRead (s : State) (x : Xfer) (p : Nat) : State × Bool :=
  match poisonAt s p x.bytes, s.cmd x.cmd with
  | some i, some c => (s.setCmd (c.notePoison x.opnd (x.srcAddr + BitVec.ofNat 64 i)), true)
  | some _, none => (s, true)
  | none, _ => (s, false)

/-- A request in its new state. -/
def State.setXfer (s : State) (x : Xfer) : State :=
  { s with xfers := s.xfers.map fun y => if y.id == x.id then x else y }
/-- The requests of a job, in order. -/
def jobXfers (s : State) (job : Nat) : List Xfer := s.xfers.filter fun x => x.job == job
/-- The requests of a job gone. -/
def State.dropJob (s : State) (job : Nat) : State := { s with xfers := s.xfers.filter fun x => x.job != job }
/-- Every request of a job is done. -/
def jobDone (s : State) (job : Nat) : Bool := (jobXfers s job).all fun x => x.st == .done

/-- The physical runs of an operand's bytes: page by page for imported memory. -/
def chunkRuns (s : State) (c : Cmd) (a : Word) (n : Nat) : List Range :=
  if isStallAddr a then let p := (s.stall c.own.dev (addrStall a)).at a; [{ lo := p, hi := p + n }]
  else (pageStarts a.toNat (max n 1)).map fun q =>
    let p := (placeOf s c.own.dev c.pages c.entries (BitVec.ofNat 64 q)).phys
    { lo := p, hi := p + min (65536 - q % 65536) (a.toNat + n - q) }

/-- R336: the physical runs of the operands of a `dcopy` or `dcopy2` that it reads, or of those that it writes. -/
def copyRuns (s : State) (c : Cmd) (p : Opnd → Bool) : List Range :=
  if c.group || !(c.code == 1 || c.code == 2) then []
  else ((cmdOpnds c).filter p).flatMap fun o => o.chunks.flatMap fun k => chunkRuns s c k.1 k.2

/-- R336: bytes that a `dcopy` or `dcopy2` both reads and writes: their result is unspecified. -/
def overlapRuns (s : State) (c : Cmd) : List Range := copyRuns s c (·.rd)

/-- R336: the bytes to be written, free ones where the source overlaps. -/
def freeBytes (ctr : Nat) (runs : List Range) (cells : List Host.Cell) : List Host.Cell :=
  (List.range cells.length).filterMap fun i => cells[i]?.map fun c =>
    if runs.any fun r => r.lo ≤ c.1 && c.1 < r.hi then (c.1, Config.freeByte (ctr + i)) else c

/-- The cells of a request's write, and the state with the free values it used. -/
def writeCellsOf (s : State) (x : Xfer) (p : Nat) : State × List Host.Cell :=
  let cells := placeBytes p x.data
  match s.cmd x.cmd with
  | some c =>
    let runs := overlapRuns s c
    if runs.isEmpty then (s, cells)
    else ({ s with freeCtr := s.freeCtr + cells.length }, freeBytes s.freeCtr runs cells)
  | none => (s, cells)

/-- Granules that n bytes from a physical address touch. -/
def granulesOf (p n : Nat) : List Nat := (List.range (ceilDiv (p % 64 + n) 64)).map fun i => p / 64 + i

/-- R336, R338, R339: COUNT of a D command that moved all its bytes. -/
def bytesMoved (c : Cmd) : Nat :=
  match c.code with
  | 1 | 5 => c.fld 2 0 25
  | 2 => c.fld 2 0 25 * c.fld 2 32 25
  | 3 | 4 => c.fld 2 0 13 * c.fld 2 32 25
  | _ => 0

/-- R76: a D command whose requests are all done posts its record, or a chase goes on. A G command goes on by steps of its own. -/
def State.checkDone (s : State) (cmd : Nat) : State :=
  match s.cmd cmd with
  | some c =>
    if c.group || c.stage != .running || !jobDone s cmd then s
    else if c.code = 7 then s.chaseRead c ((jobXfers s cmd).flatMap (·.data))
    else let p := c.poisonReason; s.finishCmd c (bytesMoved c) p.1 stOK p.2
  | none => s

/-- R28: the bytes before a request of the packet that it is in at its present stage, and all of them. -/
def Xfer.part (x : Xfer) : Nat × Nat := match x.st with | .toRead | .readDone => x.packet | _ => x.wpacket
/-- R28: a request begins its packet. -/
def Xfer.leads (x : Xfer) : Bool := x.part.1 == 0
/-- R28: two requests are read by one packet. -/
def sameRead (x y : Xfer) : Bool := y.job == x.job && y.run == x.run && y.off - y.packet.1 == x.off - x.packet.1
/-- R28: two requests are written by one packet. -/
def sameWrite (x y : Xfer) : Bool := y.job == x.job && y.run == x.run && y.off - y.wpacket.1 == x.off - x.wpacket.1
/-- R28: the requests of the packet that a request is to be in next. -/
def packetMates (s : State) (x : Xfer) : List Xfer :=
  s.xfers.filter fun y => match x.st with
    | .toRead => y.st == .toRead && sameRead x y
    | _ => y.st != .written && y.st != .done && sameWrite x y
/-- R28: the requests of the packet that a request is in. -/
def packetOf (s : State) (x : Xfer) : List Xfer := s.xfers.filter fun y => y.tag && y.issued == x.issued

/-- R74: an earlier write of the command to the same bytes has not performed. -/
def writeBusy (s : State) (x : Xfer) (p : Nat) : Bool :=
  s.xfers.any fun y => y.id < x.id && y.job == x.job && y.st != .written && y.st != .done && (match y.dst with
    | some d => rangesMeet { lo := p, hi := p + x.bytes } { lo := d.phys, hi := d.phys + y.bytes }
    | none => false)

/-- R336: a source that meets the destination, by the bytes themselves, is read whole before a byte is written, so that no byte outside the
overlap is affected. -/
def overlapBusy (s : State) (x : Xfer) : Bool :=
  (match s.cmd x.cmd with
    | some c => anyMeet (overlapRuns s c) (copyRuns s c (·.wr))
    | none => false)
  && s.xfers.any fun y => y.job == x.job && y.st == .toRead

/-- R78, R397: a write of the request's bytes has begun. -/
def Xfer.begun (x : Xfer) : Bool := x.st == .written || x.st == .done || (x.st == .haveData && x.tag)
/-- R78, R397: two requests of a job in one 4-KiB block of its destination; the blocks are those of the storage itself (log 147). -/
def sameBlock (x y : Xfer) : Bool :=
  x.job == y.job && (match x.dst, y.dst with | some a, some b => a.phys / 4096 == b.phys / 4096 | _, _ => false)
/-- R78, R397: while the engines are stopped a transfer goes on only in the 4-KiB blocks of its destination that it has begun, and a read
with no destination of its own goes on. -/
def blockOpen (s : State) (x : Xfer) : Bool := enginesRun s || x.dst.isNone || s.xfers.any fun y => sameBlock x y && y.begun
/-- R397: a request is done, or stands at a 4-KiB boundary of its destination with no packet on its way. -/
def standsStill (s : State) (x : Xfer) : Bool :=
  x.st == .done || (x.dst.isSome && !x.tag && !s.xfers.any fun y => sameBlock x y && y.begun)
/-- R397: every command stands at a 4-KiB boundary of its destination. -/
def atBlocks (s : State) : Bool := s.xfers.all (standsStill s)

/-- R28: tags of a core in use: one for each packet. -/
def tagsUsed (s : State) (core : Nat) : Nat := (s.xfers.filter fun x => x.tag && x.core == core && x.leads).length

/-- R28, R74: the data of a request are there, and its write need not wait. -/
def writeReady (s : State) (x : Xfer) : Bool :=
  x.st == .haveData && x.born < s.station && !overlapBusy s x && (match x.dst with | some d => !writeBusy s x d.phys | none => false)

/-- R28: the packet that a request begins would issue now: a read for a block that is open, and a write once all its bytes are there. -/
def wantsTag (s : State) (x : Xfer) : Bool :=
  !x.tag && x.leads && (match x.st, x.src, x.dst with
    | .toRead, some (.far _), _ => (packetMates s x).any (blockOpen s)
    | .haveData, _, some (.far _) => blockOpen s x && (packetMates s x).all (writeReady s)
    | _, _, _ => false)

/-- R28: a packet issues if a tag of its core is free; its requests share the tag. -/
def State.issueTag (s : State) (id : Nat) : State :=
  match s.xfers.find? fun x => x.id == id with
  | some x =>
    if wantsTag s x && tagsUsed s x.core < 2048 then
      let ids := (packetMates s x).map (·.id)
      { s with nextId := s.nextId + 1
               xfers := s.xfers.map fun (y : Xfer) => if ids.contains y.id then { y with tag := true, issued := s.nextId } else y }
    else s
  | none => s

/-- R28: packets issue while tags are free, in the order of their requests. -/
def State.issueTags (s : State) : State := (s.xfers.map (·.id)).foldl State.issueTag s

/-- R28, R29, R406: a packet that can be performed now, named by the request that begins it. -/
def packetReady (s : State) (x : Xfer) : Bool :=
  x.tag && x.leads && (match x.waitsAt with | some p => !blockBusy s x p && !shareWaits s x.own.dev p | none => false)

/-- A request put into a list in issue order. -/
def insertIssued (x : Xfer) : List Xfer → List Xfer
  | [] => [x]
  | y :: ys => if y.issued < x.issued then y :: insertIssued x ys else x :: y :: ys

/-- R31, R32: the die's move takes a page that lies under n bytes from a physical address. -/
def moveTouches (s : State) (die p n : Nat) : Bool :=
  match s.moves.get none die with
  | some v => [some v.cand, v.swap].any fun a => a.any fun m =>
      let lo := (s.stall m.1 m.2.1).phys / 2 ^ 40 * 2 ^ 40 + m.2.2 * 65536
      rangesMeet { lo := p, hi := p + n } { lo := lo, hi := lo + 65536 }
  | none => false

/-- R364: KIND of the writes of a request: of the transfer engine, of the group engine, or of a landing. -/
def Xfer.writeKind (x : Xfer) : Nat := match x.agent with | 2 => 1 | 3 => 2 | _ => 5

/-- R74: the atomic of a `datom` on its far word. -/
def State.farAtom (s : State) (x : Xfer) (p : Nat) (old : List Byte) : State :=
  match x.atom with
  | some (op, wide, a, c) =>
    let n := if wide then 8 else 4
    { s with mem := s.mem.writeN p (natToBytes n (atomNew op (8 * n) (bytesToNat old) a c).1) }
  | none => s

/-- R74: the atomic of a `datom` wrote its far word, whose old value the request holds. -/
def Xfer.atomWrote (x : Xfer) : Bool :=
  match x.atom with
  | some (op, _, _, c) => !(op == .cas && bytesToNat x.data != c)
  | none => false

/-- R28, R36, R338: one request of a read packet gets its bytes; `bad` tells that the packet read a poisoned granule. -/
def State.readPart (bad : Bool) (s : State) (x : Xfer) : State :=
  match x.src with
  | some l =>
    let r := s.noteRead x l.phys
    let old := r.1.mem.readN l.phys x.bytes
    let t := r.1.farAtom x l.phys old
    let t := match x.ref with | some rel => t.forkRef l.phys rel x.cmd | none => t
    t.setXfer { x with data := old, poison := bad, st := .readDone, born := s.station }
  | none => s

/-- R28: the bytes of one request more of a write packet. -/
def partCells (a : State × List Host.Cell) (x : Xfer) : State × List Host.Cell :=
  match x.dst with
  | some l => let w := writeCellsOf a.1 x l.phys; (w.1, a.2 ++ w.2)
  | none => a

/-- R36: the granules of a write packet that poisoned sources filled. -/
def partMarks (x : Xfer) : List Nat := match x.dst with | some l => if x.poison then granulesOf l.phys x.bytes else [] | none => []

/-- R28, R36: the requests of a write packet put their bytes down, in one store. -/
def State.writeParts (s : State) (l : List Xfer) : State :=
  let w := l.foldl partCells (s, [])
  let t := w.1.storeCells w.2
  let t := { t with poison := (l.flatMap partMarks).foldl (fun p g => if p.contains g then p else p ++ [g]) t.poison }
  l.foldl (fun t x => t.setXfer { x with st := .written, born := s.station }) t

/-- R28, R30, R36, R338: the packet that a request begins performs at the stack or loft controller: it counts once, its code words are read,
and each of its requests is served. -/
def State.performPacket (s : State) (x : Xfer) : State :=
  match x.st, x.src, x.dst with
  | .toRead, some (.far p), _ =>
    let t := (s.scan p x.packet.2).packetAt x.own.dev p
    (packetOf t x).foldl (State.readPart (poisonAt t p x.packet.2).isSome) t
  | .haveData, _, some (.far p) => (s.packetAt x.own.dev p).writeParts (packetOf s x)
  | _, _, _ => s

/-- PACKET_PERFORM. -/
def execPacketPerform (xfer : Nat) (s : State) : Host.Outcome State Fault Refusal :=
  match s.xfers.find? fun x => x.id == xfer with
  | some x => if packetReady s x then .next (s.performPacket x) else .next s
  | none => .next s

/-- R29: the packets of a core that issued before a place in the order of issue and wait to perform at a block of n far bytes, in that
order. -/
def waitingAt (s : State) (core p n bound : Nat) : List Nat :=
  let here := s.xfers.filter fun x => x.tag && x.leads && x.core == core && x.issued < bound && (match x.waitsAt with
    | some q => p / 128 ≤ q / 128 && q / 128 ≤ (p + n - 1) / 128
    | none => false)
  (here.foldr insertIssued []).map (·.id)

/-- R29: packets of a core that issued before a place in the order of issue and touch a block of n far bytes perform, in that order. -/
def State.catchUpTo (s : State) (core p n bound : Nat) : State :=
  (waitingAt s core p n bound).foldl (fun t id => match t.xfers.find? fun x => x.id == id with
    | some x => t.performPacket x
    | none => t) s
/-- R29: packets of a core that issued before an access of n far bytes perform before it, in issue order (log 129). -/
def State.catchUp (s : State) (core p n : Nat) : State := s.catchUpTo core p n s.nextId

/-- R406: packets of a device that has used its share of a stack, and that perform within a step, perform after those that wait there, of
devices that have not, and could be served. -/
def State.yieldShare (s : State) (dev p : Nat) : State :=
  if !shareWaits s dev p then s
  else
    let first := s.xfers.filter fun x => packetReady s x && (match x.waitsAt with
      | some q => (Config.rowOf q).toNat / 2 ^ 40 == (Config.rowOf p).toNat / 2 ^ 40 && !shareSpent s x.own.dev q
      | none => false)
    ((first.foldr insertIssued []).map (·.id)).foldl (fun t id => match t.xfers.find? fun x => x.id == id with
      | some x => if packetReady t x then t.performPacket x else t
      | none => t) s
/-- R28, R30, R37, R406: the packets of n far bytes of a device within a step, one for each 128-byte block. -/
def State.takePackets (s : State) (dev p n : Nat) : State :=
  if n = 0 then s
  else (List.range ((p + n - 1) / 128 - p / 128 + 1)).foldl (fun t i =>
    let q := max p ((p / 128 + i) * 128)
    (t.yieldShare dev q).packetAt dev q) s

/-- R29, R82: a packet whose reply can arrive now, named by the request that begins it, or a write at a near bank that its engine can count as
done. -/
def replyReady (s : State) (x : Xfer) : Bool :=
  x.leads && x.born < s.station && (x.st == .written || (x.st == .readDone && x.tag))

/-- R28, R336: a request is done; one of a landing then goes. -/
def State.closeXfer (s : State) (x : Xfer) : State :=
  if x.agent = 5 then { s with xfers := s.xfers.filter fun y => y.id != x.id } else s.setXfer { x with st := .done }

/-- R84: bytes written into near storage in this cycle for a request, with the poison of their source (R36): a foreign write (R364). -/
def State.nearWrite (s : State) (x : Xfer) (p : Nat) (cells : List Host.Cell) : State :=
  (s.agentStore x.own.key x.agent x.ord (.engine cells (if x.poison then granulesOf p x.bytes else []))).foreignWrite
    x.own.dev x.dstAddr x.bytes x.writeKind

/-- R29, R338, R364: the reply of its packet reaches a request: bytes read wait to be written, the old value of an atomic is written in
this cycle, and a far write is known to the watchpoints from here on; a write at a near bank is done. -/
def State.replyPart (s : State) (x : Xfer) : State :=
  let x := { x with tag := false, born := s.station }
  match x.st, x.dst with
  | .readDone, some d =>
    if x.atom.isSome then
      let t := s.nearWrite x d.phys (placeBytes d.phys x.data)
      (if x.atomWrote then t.foreignWrite x.own.dev x.srcAddr x.bytes 1 else t).closeXfer x
    else s.setXfer { x with st := .haveData }
  | .written, some (.far _) => (s.foreignWrite x.own.dev x.dstAddr x.bytes x.writeKind).closeXfer x
  | _, _ => (match x.ref with | some rel => if refMoves rel x.data then s.refWritten x.own.dev x.srcAddr else s | none => s).closeXfer x

/-- PACKET_REPLY: a reply reaches its engine and frees its tag. -/
def execPacketReply (xfer : Nat) (s : State) : Host.Outcome State Fault Refusal :=
  match s.xfers.find? fun x => x.id == xfer with
  | none => .next s
  | some x =>
    if replyReady s x then .next (((if x.tag then packetOf s x else [x]).foldl State.replyPart s).checkDone x.job) else .next s

/-- R82: a request that waits for an engine port: the physical address of its granule. -/
def portWants (s : State) (x : Xfer) : Option Nat :=
  match x.st, x.src, x.dst with
  | .toRead, some (.near p), _ => if blockOpen s x then some p else none
  | .haveData, _, some (.near p) => if writeReady s x && blockOpen s x then some p else none
  | _, _, _ => none

/-- R82: the place of a request among those of one bank in one cycle: by core, the transfer engine first, and by context; the landings of
R204 after both engines (log 148). -/
def portRank (x : Xfer) : Nat := x.core * 1024 + x.agent * 64 + x.own.key % 4

/-- ENGINE_PORT_ACCESS: a request is served at its near bank. A read takes the bytes as they stand before the cycle's
writes (R84); the atomic of a `kfork` takes its turn among them (R176). -/
def execEnginePortAccess (xfer : Nat) (s : State) : Host.Outcome State Fault Refusal :=
  match s.xfers.find? fun x => x.id == xfer with
  | none => .next s
  | some x =>
    match portWants s x with
    | none => .next s
    | some p =>
      if x.st == .toRead then
        let r := (s.scan p x.bytes).noteRead x p
        let t := match x.ref with | some rel => r.1.agentStore x.own.key x.agent x.ord (.ref p rel x.cmd) | none => r.1
        .next ((t.setXfer { x with data := r.1.mem.readN p x.bytes, poison := r.2, born := s.station
                                   st := if x.dst.isSome then .haveData else .done }).checkDone x.job)
      else
        let w := writeCellsOf s x p
        .next ((w.1.nearWrite x p w.2).setXfer { x with st := .written, born := s.station })

/-- R76: a COUNT that the spec leaves open. -/
def State.freeCount (s : State) : Nat × State :=
  ((Config.freeWord s.freeCtr).toNat % 2 ^ 32, { s with freeCtr := s.freeCtr + 1 })

end Sys2Proof.Machine
end

