-- ==== Sys2Proof/Machine/Attention.lean ====
section
/-!
DEFINITION. Sys2Proof/Machine/Attention.lean: the arithmetic of the decode engine (R113, R168), the merge (R173), partial
rows (R169), KV page headers (R164), and the plan (R172), as functions of bytes.
-/
namespace Sys2Proof.Machine

/-! ### Exact sums of products (R113) -/

/-- R113, R163: an element of the decode engine's formats times 2^149. -/
def elemVal (f : Fmt) (c : Nat) : Int := if f.isInt then signExt c f.width * (2 ^ fscale : Nat) else fval f c
/-- An element that is a NaN. -/
def elemNaN (f : Fmt) (c : Nat) : Bool := f.isFloat && isNaN f c
/-- An element that is an infinity. -/
def elemInf (f : Fmt) (c : Nat) : Bool := f.isFloat && isInf f c
/-- The sign of an element. -/
def elemNeg (f : Fmt) (c : Nat) : Bool := if f.isInt then signExt c f.width < 0 else fsign f c

/-- An exact sum: a NaN, an infinity by sign, or a value times 2^298 with the sign of an exact zero. -/
inductive ExactSum where
  | nan | inf (neg : Bool) | fin (v : Int) (negZero : Bool)
  deriving DecidableEq, Repr

/-- R113: the exact sum of products of two formats. A zero product of two integers is never -0 (R91); the sign of a zero product of an
integer and a float the spec leaves open, and the model takes the exclusive or of the signs (log 134, DESIGN CHOICE). -/
def sumProducts (f g : Fmt) (ps : List (Nat × Nat)) : ExactSum :=
  let bad := ps.any fun p => elemNaN f p.1 || elemNaN g p.2
    || (elemInf f p.1 && elemVal g p.2 == 0 && !elemInf g p.2) || (elemInf g p.2 && elemVal f p.1 == 0 && !elemInf f p.1)
  let infs := (ps.filter fun p => elemInf f p.1 || elemInf g p.2).map fun p => elemNeg f p.1 != elemNeg g p.2
  if bad then .nan
  else if infs.any (· == true) && infs.any (· == false) then .nan
  else match infs with
    | b :: _ => .inf b
    | [] =>
      let prods := ps.map fun p => elemVal f p.1 * elemVal g p.2
      let v := prods.foldl (fun a b => a + b) 0
      .fin v ((f.isFloat || g.isFloat) && !ps.isEmpty && ps.all fun p => elemVal f p.1 * elemVal g p.2 == 0 && (elemNeg f p.1 != elemNeg g p.2))

/-- RoundNE of an exact sum to FP32. -/
def roundSum : ExactSum → Nat
  | .nan => defNaN .f32
  | .inf b => infCode .f32 b
  | .fin v z => (roundScaled .f32 z v (2 * fscale) .rne).1

/-- A plain sum of FP32 codes, rounded once: products with one. -/
def sumFP32 (cs : List Nat) : Nat := roundSum (sumProducts .f32 .f32 (cs.map fun c => (c, 0x3F800000)))

/-! ### Partials (R168, R169, R173) -/

/-- R168: Empty for D dimensions. -/
def emptyRun (d : Nat) : AttRun := { m := 0xFF800000, l := 0, o := List.replicate d 0, n := 0 }

/-- R168, R341: a row whose m, l and o are the default NaN. -/
def nanRun (d n : Nat) : AttRun := { m := defNaN .f32, l := defNaN .f32, o := List.replicate d (defNaN .f32), n := n }

/-- The greater of two FP32 codes, +0 above -0; a NaN gives the default NaN. -/
def maxFP32 (a b : Nat) : Nat :=
  if isNaN .f32 a || isNaN .f32 b then defNaN .f32 else if fkey .f32 a < fkey .f32 b then b else a

/-- R168: Exp2(RoundNE(a - b, FP32)). -/
def expDiff (a b : Nat) : Nat := (exp2Code .rne (fsub .f32 .rne a b).1).1

/-- R168: Merge. -/
def mergeRuns (a b : AttRun) : AttRun :=
  if b.n = 0 then a
  else if a.n = 0 then b
  else
    let m := maxFP32 a.m b.m
    let fa := expDiff a.m m
    let fb := expDiff b.m m
    let two : Nat → Nat → Nat := fun x y => roundSum (sumProducts .f32 .f32 [(x, fa), (y, fb)])
    { m := m, l := two a.l b.l, o := List.zipWith two a.o b.o, n := a.n + b.n }

/-- R168: a score: SCALE and KSCALE times an exact sum, rounded once. -/
def scoreOf (scale kscale : Nat) : ExactSum → Nat
  | .nan => defNaN .f32
  | .inf b =>
    if isNaN .f32 scale || isZero .f32 scale || kscale = 255 then defNaN .f32 else infCode .f32 (b != fsign .f32 scale)
  | .fin v z =>
    if isNaN .f32 scale || kscale = 255 || (isInf .f32 scale && v == 0) then defNaN .f32
    else
      let neg := (if v = 0 then z else v < 0) != fsign .f32 scale
      if isInf .f32 scale then infCode .f32 neg
      else (roundScaled .f32 neg (v * fval .f32 scale * (2 ^ kscale : Nat)) (3 * fscale + 127) .rne).1

/-- R168: one row's partial of a page from its scores and the values of its tokens; a NaN or infinite score, or a VSCALE of
255, makes it the default NaN. -/
def pagePartial (f : Fmt) (vscale d : Nat) (scores : List Nat) (vals : List (List Nat)) : AttRun :=
  let n := scores.length
  if vscale = 255 || scores.any (fun s => isNaN .f32 s || isInf .f32 s) then nanRun d n
  else
    let mp := scores.foldl maxFP32 (scores.getD 0 0)
    let ps := scores.map fun s => expDiff s mp
    let o := (List.range d).map fun i =>
      match sumProducts .f32 f (List.zipWith (fun p v => (p, v.getD i 0)) ps vals) with
      | .fin v z => (roundScaled .f32 z (v * (2 ^ vscale : Nat)) (2 * fscale + 127) .rne).1
      | r => roundSum r
    { m := mp, l := sumFP32 ps, o := o, n := n }

/-- R169: the bytes of a partial row. -/
def runBytes (r : AttRun) : List Byte :=
  natToBytes 4 r.m ++ natToBytes 4 r.l ++ natToBytes 4 r.n ++ List.replicate 52 0 ++ r.o.flatMap (natToBytes 4)

/-- R169: a partial row from its bytes. -/
def runOf (d : Nat) (bs : List Byte) : AttRun :=
  let f := fun (o : Nat) => bytesToNat ((bs.drop o).take 4)
  { m := f 0, l := f 4, n := f 8, o := (List.range d).map fun i => f (64 + 4 * i) }

/-- R173: the merged row, normalised where N is set. -/
def normRun (norm : Bool) (r : AttRun) : AttRun :=
  if !norm then r
  else if r.n = 0 then { r with o := r.o.map fun _ => 0 }
  else { r with o := r.o.map fun x => divFP32 x r.l }
where
  /-- RoundNE(a / b, FP32). -/
  divFP32 (a b : Nat) : Nat :=
    let neg := fsign .f32 a != fsign .f32 b
    if isNaN .f32 a || isNaN .f32 b || (isInf .f32 a && isInf .f32 b) || (isZero .f32 a && isZero .f32 b) then defNaN .f32
    else if isInf .f32 a || isZero .f32 b then infCode .f32 neg
    else if isInf .f32 b || isZero .f32 a then signBit .f32 neg
    else (roundRat .f32 neg (fval .f32 a).natAbs (fval .f32 b).natAbs .rne).1

/-! ### KV pages (R164, R167, R168) -/

/-- R167: the checks of a page's header against what the command expects. -/
def headerOk (c : Cmd) (j : Nat) (next : Option Word) (bs : List Byte) : Bool :=
  let h := bytesToNat bs
  natField h 416 32 == c.fld 5 0 32 && natField h 384 32 == j && natField h 368 16 == c.fld 5 32 16
  && natField h 352 4 == c.gfmt / 16 % 16 && natField h 334 2 == c.gfmt / 256 % 4 && natField h 327 7 ≤ 64
  && (match next with | some a => headerNext bs == a | none => true)

/-- R168: the tokens of page j that the command takes. -/
def pageTokens (c : Cmd) (j : Nat) (bs : List Byte) : List Nat :=
  (List.range (natField (bytesToNat bs) 327 7)).filter fun t => c.t0 ≤ 64 * j + t && 64 * j + t < c.t1

/-- Elements of w bytes from a byte list. -/
def elems (w : Nat) (bs : List Byte) (n : Nat) : List Nat := (List.range n).map fun i => bytesToNat ((bs.drop (w * i)).take w)

/-- R168: every row's run after page j, from the header, the query rows, and the keys and values of the tokens taken. -/
def pageRuns (c : Cmd) (qf kf : Fmt) (hdr : List Byte) (qs ks vs : List (List Nat)) (runs : List AttRun) : List AttRun :=
  let h := bytesToNat hdr
  let d := c.headDim
  if ks.isEmpty then runs
  else
    List.zipWith (fun run q =>
      let scores := ks.map fun k => scoreOf (c.fld 6 32 32) (natField h 344 8) (sumProducts qf kf (q.zip k))
      mergeRuns run (pagePartial kf (natField h 336 8) d scores vs)) runs qs

/-! ### The plan (R172) -/

/-- R172: pages of a sequence. -/
def planPages (len : Nat) : Nat := ceilDiv len 64

/-- R172: the share of core c among n, of t pages. -/
def planShare (t n c : Nat) : Nat := t / n + (if c < t % n then 1 else 0)

/-- R172: a segment: sequence, first page, page count, core. -/
structure Segment where
  seq   : Nat
  first : Nat
  count : Nat
  core  : Nat
  deriving DecidableEq, Repr

/-- R172: the segments of the pages from `pg` of sequence b on, with room left in core c's share; fuel bounds the steps. -/
def planSegments (lens : List Nat) (t n : Nat) : Nat → Nat → Nat → Nat → Nat → List Segment
  | 0, _, _, _, _ => []
  | f + 1, b, pg, c, room =>
    if lens.length ≤ b then []
    else
      let left := planPages (lens.getD b 0) - pg
      if left = 0 then planSegments lens t n f (b + 1) 0 c room
      else if room = 0 then (if n ≤ c + 1 then [] else planSegments lens t n f b pg (c + 1) (planShare t n (c + 1)))
      else
        let k := min left room
        { seq := b, first := pg, count := k, core := c } :: planSegments lens t n f b (pg + k) c (room - k)

/-- R172: the plan: its segments. -/
def planOf (lens : List Nat) (n : Nat) : List Segment :=
  let t := lens.foldl (fun a l => a + planPages l) 0
  planSegments lens t n (2 * lens.length + 2 * n + 2) 0 0 0 (planShare t n 0)

/-- R172: the bytes of the plan: 64 directory entries, then the segments. The first segment number of a core with no segment the spec leaves
open; it is 0 (log 151, DESIGN CHOICE). -/
def planBytes (segs : List Segment) : List Byte :=
  ((List.range 64).flatMap fun c =>
    let k := (segs.filter fun g => g.core == c).length
    natToBytes 4 (if k = 0 then 0 else (segs.filter fun g => g.core < c).length) ++ natToBytes 4 k)
  ++ segs.flatMap fun g => natToBytes 4 g.seq ++ natToBytes 4 g.first ++ natToBytes 4 g.count ++ natToBytes 2 g.core ++ natToBytes 2 0

end Sys2Proof.Machine
end

