-- ==== Sys2Proof/Machine/FabricCode.lean ====
section
/-!
DEFINITION. Sys2Proof/Machine/FabricCode.lean: fragments (R196, R197), CRC-32C (R214), and the erasure code of R198 and
R199.
-/
namespace Sys2Proof.Machine

/-! ### CRC-32C (R214) -/

/-- One bit of the reflected CRC register. -/
def crcBit (c : Nat) : Nat := if c % 2 = 1 then Nat.xor (c / 2) 0x82F63B78 else c / 2
/-- One byte. -/
def crcByte (c : Nat) (b : Byte) : Nat :=
  let x := Nat.xor c b.toNat
  crcBit (crcBit (crcBit (crcBit (crcBit (crcBit (crcBit (crcBit x)))))))
/-- R214: CRC-32C of bytes in ascending order. -/
def crc32c (bs : List Byte) : Nat := Nat.xor (bs.foldl crcByte 0xFFFFFFFF) 0xFFFFFFFF

/-! ### GF(2^8) modulo 0x11D (R198) -/

/-- Multiplication by x. -/
def gfDouble (a : Nat) : Nat := if a < 128 then 2 * a else Nat.xor (2 * a) 0x11D
/-- The product over the n low bits of b. -/
def gfMulAux : Nat → Nat → Nat → Nat
  | 0, _, _ => 0
  | n + 1, a, b => Nat.xor (if b % 2 = 1 then a else 0) (gfMulAux n (gfDouble a) (b / 2))
/-- The product. -/
def gfMul (a b : Nat) : Nat := gfMulAux 8 a b
/-- a to the power n. -/
def gfPow (a : Nat) : Nat → Nat
  | 0 => 1
  | n + 1 => gfMul a (gfPow a n)
/-- The inverse; 0 has none and gives 0. -/
def gfInv (a : Nat) : Nat := gfPow a 254

/-- R198: points of the Cauchy matrix. -/
def cauchyX (j : Nat) : Nat := 128 + j
/-- R198: C[i][j]. -/
def cauchy (i j : Nat) : Nat := gfInv (Nat.xor (cauchyX j) i)

/-- Bytewise exclusive or of a scaled row. -/
def gfAxpy (c : Nat) (x acc : List Byte) : List Byte :=
  List.zipWith (fun a b => BitVec.ofNat 8 (Nat.xor a.toNat (gfMul c b.toNat))) acc x

/-! ### Fragments -/

/-- R197: the fragment size. -/
def fragSize (len k : Nat) : Nat := 64 * ceilDiv (ceilDiv len k) 64

/-- n zero bytes. -/
def zeroBytes (n : Nat) : List Byte := List.replicate n 0

/-- R197: data fragment j, padded with zeros. -/
def dataFrag (data : List Byte) (f j : Nat) : List Byte :=
  let d := (data.drop (j * f)).take f
  d ++ zeroBytes (f - d.length)

/-- R198: parity fragment i of k data fragments. -/
def parityFrag (data : List Byte) (f k i : Nat) : List Byte :=
  (List.range k).foldl (fun acc j => gfAxpy (cauchy i j) (dataFrag data f j) acc) (zeroBytes f)

/-- R198: fragment index x of a message. -/
def fragment (data : List Byte) (k x : Nat) : List Byte :=
  let f := fragSize data.length k
  if x < k then dataFrag data f x else parityFrag data f k (x - k)

/-- Product of a list in the field. -/
def gfProd (l : List Nat) : Nat := l.foldl gfMul 1

/-- Entry (j, i) of the inverse of the Cauchy matrix over data indices js and parity indices is. -/
def cauchyInv (js is : List Nat) (j i : Nat) : Nat :=
  let num := gfMul (gfProd (is.map fun i' => Nat.xor (cauchyX j) i')) (gfProd (js.map fun j' => Nat.xor (cauchyX j') i))
  let den := gfMul (Nat.xor (cauchyX j) i)
    (gfMul (gfProd ((js.filter (· != j)).map fun j' => Nat.xor (cauchyX j) (cauchyX j')))
      (gfProd ((is.filter (· != i)).map fun i' => Nat.xor i i')))
  gfMul num (gfInv den)

/-- A fragment of a list by index. -/
def fragOf (frags : List (Nat × List Byte)) (x : Nat) : Option (List Byte) :=
  (frags.find? fun e => e.1 == x).map Prod.snd

/-- R199: data fragment j from the fragments received, k of them. -/
def rebuild (frags : List (Nat × List Byte)) (k f j : Nat) : List Byte :=
  match fragOf frags j with
  | some d => d
  | none =>
    let js := (List.range k).filter fun x => (fragOf frags x).isNone
    let is := (frags.filter fun e => k ≤ e.1).map fun e => e.1 - k
    is.foldl (fun acc i =>
      let rest := (List.range k).foldl (fun a x => match fragOf frags x with
        | some d => gfAxpy (cauchy i x) d a
        | none => a) ((fragOf frags (k + i)).getD (zeroBytes f))
      gfAxpy (cauchyInv js is j i) rest acc) (zeroBytes f)

/-- R199: the message of length len from k distinct fragments. -/
def rebuildMessage (frags : List (Nat × List Byte)) (k len : Nat) : List Byte :=
  let f := fragSize len k
  ((List.range k).flatMap fun j => rebuild frags k f j).take len

/-- R199: data fragments that are rebuilt. -/
def rebuiltCount (frags : List (Nat × List Byte)) (k : Nat) : Nat := k - (frags.filter fun e => e.1 < k).length

/-- R196: header bits 223:0. -/
def hdrLow (h : FragHdr) : Nat :=
  h.dhash * 2 ^ 192 + h.gseq * 2 ^ 160 + h.mid * 2 ^ 128 + h.src * 2 ^ 112 + h.dst * 2 ^ 96 + h.tag * 2 ^ 80
    + h.inst * 2 ^ 64 + h.len * 2 ^ 39 + h.fidx * 2 ^ 34 + h.k * 2 ^ 29 + h.m * 2 ^ 25 + h.path * 2 ^ 21 + h.cls * 2 ^ 18
    + h.att * 2 ^ 17 + h.rt * 2 ^ 16 + h.kind * 2 ^ 14 + h.resv

/-- R196: the CRC of a fragment. -/
def hdrCrc (h : FragHdr) (payload : List Byte) : Nat := crc32c (natToBytes 28 (hdrLow h) ++ payload)

/-- R196: the bytes of a fragment, its header first. -/
def fragBytes (h : FragHdr) (payload : List Byte) : List Byte :=
  natToBytes 28 (hdrLow h) ++ natToBytes 4 (hdrCrc h payload) ++ payload

/-- R196: a header read from 32 bytes. -/
def parseHdr (bs : List Byte) : FragHdr :=
  let w := bytesToNat bs
  { crc := natField w 224 32, dhash := natField w 192 32, gseq := natField w 160 32, mid := natField w 128 32
    src := natField w 112 16, dst := natField w 96 16, tag := natField w 80 16, inst := natField w 64 16
    len := natField w 39 25, fidx := natField w 34 5, k := natField w 29 5, m := natField w 25 4
    path := natField w 21 4, cls := natField w 18 3, att := natField w 17 1, rt := natField w 16 1
    kind := natField w 14 2, resv := natField w 0 14 }

/-- R200: fields of a CODERATE register. -/
def crK (w : Word) : Nat := natField w.toNat 0 5
def crM (w : Word) : Nat := natField w.toNat 8 4
def crP (w : Word) : Nat := natField w.toNat 16 5
def crRetry (w : Word) : Nat := natField w.toNat 24 1

/-- R201: the path of a fragment. -/
def fragPath (mid p f : Nat) : Nat := (mid % p + f) % p

/-- R196, R200, R202: the header shared by the fragments of a new message of a class. -/
def newHdr (s : State) (cls dst tag len : Nat) : FragHdr :=
  let c := s.coderate.get 0 cls
  { crc := 0, dhash := 0, gseq := 0, mid := s.mid, src := s.pkgid, dst := dst, tag := tag, inst := 0, len := len
    fidx := 0, k := crK c, m := crM c, path := crP c, cls := cls, att := 0, rt := crRetry c, kind := 0, resv := 0 }

/-- R196: one message more is counted. -/
def State.takeMid (s : State) : State := { s with mid := (s.mid + 1) % 2 ^ 32 }

end Sys2Proof.Machine
end

