-- ==== Sys2Proof/Machine/Fabric.lean ====
section
/-!
DEFINITION. Sys2Proof/Machine/Fabric.lean: messages over the fabric (R202 to R208), reductions (R212 to R214, R427) and
timetables (R215 to R219): their commands from start to record, and the steps that the fabric's events are.
-/
namespace Sys2Proof.Machine

/-! ### Notices and lists -/

/-- A notice put on its way on every path (R206 to R208). -/
def State.notify (s : State) (k : NoticeKind) (dst mid : Nat) : State := { s with outbox := s.outbox ++ [.notice k dst mid] }

/-- R209: counts saturate. -/
def satAdd (w a : Nat) : Nat := min (a + 1) (ones w)
def State.countLate (s : State) : State := { s with fabLate := satAdd 32 s.fabLate }
def State.countYard (s : State) : State := { s with fabYard := satAdd 16 s.fabYard }
def State.countBad (s : State) : State := { s with fabBad := satAdd 16 s.fabBad }

/-- R205: a message id retires; 65,536 are kept for each source. -/
def State.retire (s : State) (src mid : Nat) : State :=
  let old := s.retired.filter fun e => e.1 == src
  let drop := match old with | e :: _ => if 65536 ≤ old.length then some e else none | [] => none
  let kept := match drop with | some e => s.retired.filter (· != e) | none => s.retired
  { s with retired := kept ++ [(src, mid)] }

/-- A message in its new state. -/
def State.setMsg (s : State) (m : Msg) : State := { s with msgs := s.msgs.map fun x => if x.id == m.id then m else x }
/-- A message gone. -/
def State.dropMsg (s : State) (id : Nat) : State := { s with msgs := s.msgs.filter fun x => x.id != id }
/-- A receive in its new state. -/
def State.setRecv (s : State) (r : Recv) : State := { s with recvs := s.recvs.map fun x => if x.id == r.id then r else x }
/-- A send in its new state. -/
def State.setSend (s : State) (x : Send) : State := { s with sends := s.sends.map fun y => if y.id == x.id then x else y }

/-- R206 to R208, R346, R427: the boundary n ticks after tick t has come. -/
def boundaryOf (s : State) (t n : Nat) : Bool := s.station % 1024 == 0 && (t + n) * 1024 ≤ s.station

/-! ### Sending (R202, R207, R211) -/

/-- R197: F of a send. -/
def Send.fragBytes (x : Send) : Nat := fragSize x.hdr.len x.hdr.k

/-- Bytes of the message that stand before the end of fragment f, or all of them for parity. -/
def Send.need (x : Send) (f : Nat) : Nat := if f < x.hdr.k then min x.hdr.len ((f + 1) * x.fragBytes) else x.hdr.len

/-- R28, R82: a request for the source of a send, of no bytes yet. -/
def sendXfer (s : State) (x : Send) (a : Word) : Xfer :=
  { id := 0, cmd := x.cmd, job := x.id, own := x.own, core := keyCore x.own.key, agent := 3, ord := a.toNat, src := none, dst := none
    bytes := 0, born := s.station }

/-- R28, R202: the requests that read the n bytes of a send's source from an offset on. -/
def sourceXfers (s : State) (x : Send) (a : Word) (n : Nat) : List Xfer :=
  let held := match s.cmd x.cmd with | some c => (c.pages, c.entries) | none => ([], [])
  runPieces (placeOf s x.own.dev held.1 held.2) (sendXfer s x a) 0 { src := some (0, a), n := n }

/-- R202, R211, R220: a send can go on with its next fragment: its bytes are there, or they can be read. Once the fabric has stopped in a shed
only a fragment that has begun goes on. -/
def sendReady (s : State) (x : Send) : Bool :=
  let l := jobXfers s x.id
  (enginesRun s || !l.isEmpty) && (match x.left with
    | f :: _ => x.need f ≤ x.data.length || (x.src.isSome && jobDone s x.id)
    | [] => false)

/-- R196, R197, R201: a fragment of a send leaves on its path. -/
def State.sendFragment (s : State) (x : Send) (f : Nat) (rest : List Nat) : State :=
  let path := fragPath x.mid x.hdr.path f
  let h : FragHdr := { x.hdr with fidx := f, path := path }
  let pay := if f < x.hdr.k then dataFrag x.data x.fragBytes f else parityFrag x.data x.fragBytes x.hdr.k (f - x.hdr.k)
  { s with outbox := s.outbox ++ [OutMsg.frag path (fragBytes h pay)] }.setSend
    { x with whole := x.data.length == x.hdr.len, left := rest, lastTick := s.tick }

/-- FRAGMENT_SEND: the next fragment, data in ascending order and then parity, leaves on its path, or the reading of its source begins. -/
def execFragmentSend (send : Nat) (s : State) : Host.Outcome State Fault Refusal :=
  match s.sends.find? fun x => x.id == send with
  | none => .next s
  | some x =>
    match x.left with
    | [] => .next s
    | f :: rest =>
      if !sendReady s x then .next s
      else if x.need f ≤ x.data.length then .next (s.sendFragment x f rest)
      else
        let l := jobXfers s x.id
        if l.isEmpty then
          let a := x.src.getD 0 + BitVec.ofNat 64 x.data.length
          .next (s.addXfers (sourceXfers s x a (x.need f - x.data.length)))
        else .next ((s.dropJob x.id).sendFragment { x with data := x.data ++ l.flatMap (·.data) } f rest)

/-- A send on its way, with its message id taken at its start (R202). -/
def State.addSend (s : State) (x : Send) : State :=
  { (s.takeMid) with nextId := s.nextId + 1, sends := s.sends ++ [{ x with id := s.nextId }] }

/-- R211: the record of a `drnx` message that is lost; what it holds beside ENG, CMD and STATUS is open. An entry for it is
reserved where there is room. -/
def State.drnxLost (s : State) (o : Owner) : State :=
  let w := (Config.freeWord s.freeCtr).toNat
  let r := mkRecord 0 (Config.freeWord (s.freeCtr + 1)).toNat w (w / 2 ^ 32) (Config.freeWord (s.freeCtr + 2)).toNat 2 6 rsOK stLOST o.key
  let s := { s with freeCtr := s.freeCtr + 3 }
  if (s.ownerCtx o).evRoom then (s.modOwner o Ctx.reserve).postRecord o r else s

/-! ### Landing (R203, R204) -/

/-- A request of a landing in a receive's destination, of no bytes yet. -/
def landXfer (s : State) (r : Recv) (off : Nat) : Xfer :=
  { id := 0, cmd := 0, job := r.id, own := r.own, core := keyCore r.own.key, agent := 5, ord := (r.addr + BitVec.ofNat 64 off).toNat
    src := none, dst := none, bytes := 0, born := s.station }

/-- R28, R82, R204: bytes land at an offset of a receive's destination, through the engine port or as far packets. -/
def State.land (s : State) (r : Recv) (off : Nat) (bs : List Byte) : State :=
  s.addXfers (runPieces (fun a => r.dst.plus (a - r.addr).toNat) (landXfer s r off) s.nextId
    { dst := some (r.addr + BitVec.ofNat 64 off), n := bs.length, data := bs })

/-- R28, R29, R204: a request of a landing that is not done performs in this cycle. -/
def State.landPart (s : State) (x : Xfer) : State :=
  match x.st, x.dst with
  | .haveData, some (.near p) => s.nearWrite x p (placeBytes p x.data)
  | .haveData, some (.far p) =>
    let t := (s.catchUpTo x.core p x.bytes (if x.tag then x.issued else s.nextId)).yieldShare x.own.dev p |>.storeCells (placeBytes p x.data)
    (if x.leads then t.packetAt x.own.dev p else t).foreignWrite x.own.dev x.dstAddr x.bytes x.writeKind
  | .written, some (.far _) => s.foreignWrite x.own.dev x.dstAddr x.bytes x.writeKind
  | _, _ => s

/-- R204: what has come for a receive has landed: the record of a receive, whose cycle R199 fixes, waits for no landing, so those that are
still on their way perform in that cycle (log 148). -/
def State.landRest (s : State) (job : Nat) : State := (jobXfers s job).foldl State.landPart (s.dropJob job)

/-- R197, R204: data fragment j lands without the bytes at L or beyond. -/
def State.landFrag (s : State) (r : Recv) (h : FragHdr) (j : Nat) (pay : List Byte) : State :=
  let f := fragSize h.len h.k
  s.land r (j * f) (pay.take (h.len - j * f))

/-- R199: the cycle in which the decode of a message ends, from the arrival cycle of its k-th fragment. -/
def decodeEnd (a : Nat) (m : Msg) : Nat :=
  let r := rebuiltCount m.frags m.hdr.k
  if r = 0 then a else a + 16 + ceilDiv (fragSize m.hdr.len m.hdr.k) 64 * r

/-- R203, R213, R218: a message goes to a receive. -/
def recvMatches (r : Recv) (m : Msg) : Bool :=
  r.own.dev == m.dev && r.kind == m.hdr.kind && r.msg.isNone && m.recv.isNone && (r.src == m.hdr.src || (r.kind == 0 && r.src == 0xFFFF))
  && r.tag == m.hdr.tag && (if r.kind = 2 then r.inst == m.hdr.gseq else r.cmd != 0 || r.inst == m.hdr.inst)

/-- R203: the order among receives is that of acceptance. -/
def Recv.rank (r : Recv) : Nat := if r.cmd = 0 then r.id else r.cmd

/-- The least of a list by a rank. -/
def leastBy {α : Type} (f : α → Nat) : List α → Option α
  | [] => none
  | a :: l => match leastBy f l with
    | some b => if f b < f a then some b else some a
    | none => some a

/-- The open entry of a timetable for a receive goes. -/
def State.closeEntry (s : State) (r : Recv) : State :=
  if r.cmd ≠ 0 then s
  else s.modCore (keyCore r.own.key) fun k =>
    { k with gtt := k.gtt.map fun t => { t with recvs := t.recvs.filter fun e => e.2 != r.id } }

/-- R204, R206, R346: a receive ends with its record; a timetable's posts none, and its entry stays open where its decode has not
ended (R217). LOST raises cause 0x22. -/
def State.endRecv (s : State) (r : Recv) (count reason status : Nat) : State :=
  let s := s.landRest r.id
  let s := { s with recvs := s.recvs.filter fun x => x.id != r.id }
  let s := match s.cmd r.cmd with
    | some c =>
      let p := if reason = rsOK then c.poisonReason else (reason, 0)
      { s with sends := s.sends.filter fun x => x.cmd != c.id }.finishCmd c count p.1 status p.2
    | none => (if reason = rsOK && status = stOK then s.closeEntry r else s).release r.own.dev r.liens
  if status = stLOST then s.postAsync r.own 0x22 r.addr else s

/-- R203 to R205: a receive takes a message: what has arrived lands, or a message that is too long is refused. Of a refused one that is not
whole the arrivals go on being counted, without their bytes, until it retires. -/
def State.take (s : State) (r : Recv) (m : Msg) : State :=
  if r.cap < m.hdr.len then
    let t := if m.full.isSome then s.dropMsg m.id
      else s.setMsg { m with recv := some 0, frags := m.frags.map fun (e : Nat × List Byte) => (e.1, []) }
    (t.notify .finalLoss m.hdr.src m.hdr.mid).endRecv r 0 rsOUTSIDE stOK
  else
    let s := (s.setMsg { m with
        recv := some r.id, yard := coreDie (keyCore r.own.key)
        doneAt := m.full.map fun a => max (decodeEnd a m) s.station }).setRecv { r with msg := some m.id, wait := 0 }
    (m.frags.filter fun e => e.1 < m.hdr.k).foldl (fun s e => s.landFrag r m.hdr e.1 e.2) s

/-- R203: an open receive takes the message it matches: the one of lowest MID from the source it names, or the one whose
first fragment came first. -/
def State.seek (s : State) (r : Recv) : State :=
  match leastBy (fun m : Msg => if r.src = 0xFFFF then m.id else m.hdr.mid) (s.msgs.filter (recvMatches r)) with
  | some m => s.take r m
  | none => s

/-- R203: a message that no receive has taken goes to the first that matches. -/
def State.offer (s : State) (m : Msg) : State :=
  match leastBy Recv.rank (s.recvs.filter fun r => recvMatches r m) with
  | some r => s.take r m
  | none => s

/-- A receive posted. -/
def State.addRecv (s : State) (r : Recv) : State :=
  let r : Recv := { r with id := s.nextId }
  { s with nextId := s.nextId + 1, recvs := s.recvs ++ [r] }.seek r

/-- A receive whose message is gone is open again. -/
def State.reopen (s : State) (m : Msg) : State :=
  match s.recvs.find? fun r => some r.id == m.recv with
  | some r => let r : Recv := { r with msg := none }; (s.setRecv r).seek r
  | none => s

/-- R208: the message that a receive had taken, as the receive goes without it: another receive takes it, or it is held where it is whole. -/
def State.unclaim (s : State) (recv : Nat) : State :=
  match s.msgs.find? fun m => m.recv == some recv with
  | none => s
  | some m =>
    let m : Msg := { m with recv := none, doneAt := none }
    let s := (s.setMsg m).offer m
    if m.full.isSome && m.hdr.kind != 1 && (s.msgs.find? fun x => x.id == m.id).any (·.recv.isNone)
    then s.notify .held m.hdr.src m.hdr.mid else s

/-- Receives go, what has come for them landed, and their messages are free for others (log 130). -/
def State.dropRecvs (s : State) (p : Recv → Bool) : State :=
  let gone := s.recvs.filter p
  let s := gone.foldl (fun (s : State) r => s.landRest r.id) { s with recvs := s.recvs.filter fun r => !p r }
  gone.foldl (fun (s : State) r => s.unclaim r.id) s

/-- R217, R219: the timetable of a core goes. The receives that it has posted go with it and give their liens back: R62 and R347
speak of entries not yet started and of sends only (log 130, DESIGN CHOICE). -/
def State.dropTimetable (s : State) (n : Nat) : State :=
  match (s.core n).gtt with
  | none => s
  | some t =>
    let mine := s.recvs.filter fun r => t.recvs.any fun e => e.2 == r.id
    let s := mine.foldl (fun (s : State) r => s.release r.own.dev r.liens) (s.dropRecvs fun r => t.recvs.any fun e => e.2 == r.id)
    s.modCore n fun k => { k with gtt := none }

/-- ENGINE_INTERNAL_ERROR (R76): the command ends with REASON ENGINE and an unspecified COUNT, and the issuing context takes
cause 0x21. -/
def execEngineInternalError (cmd : Nat) (s : State) : Host.Outcome State Fault Refusal :=
  match s.cmd cmd with
  | some c =>
    if c.stage == .running then
      let f := (if c.group && c.code == 9 then s.dropTimetable (keyCore c.own.key) else s).freeCount
      .next (((({ f.2 with sends := f.2.sends.filter fun x => x.cmd != cmd }).dropRecvs fun x => x.cmd == cmd).finishCmd c f.1 rsENGINE stOK 0).postAsync c.own 0x21 0)
    else .next s
  | none => .next s

/-! ### The end of a send (R207, R208) -/

/-- R207, R213: a send ends, delivered or lost. -/
def State.endSend (s : State) (x : Send) (lost : Bool) : State :=
  let s := { s with sends := s.sends.filter fun y => y.id != x.id }.dropJob x.id
  if x.quiet then s.release x.own.dev x.liens
  else match s.cmd x.cmd with
    | some c =>
      let p := c.poisonReason
      if !lost then s.finishCmd c x.hdr.len p.1 stOK p.2
      else
        let f := s.freeCount
        let s := f.2.dropRecvs fun r => r.cmd == c.id
        let t := s.finishCmd c f.1 p.1 stLOST p.2
        if c.code = 8 then t.postAsync c.own 0x22 (c.addr 1) else t
    | none => if lost then s.drnxLost x.own else s

/-- The send of a message id. -/
def State.sendOf (s : State) (mid : Nat) : Option Send := s.sends.find? fun x => x.mid == mid

/-- R220, R397: the package takes what arrives over the fabric: not from the third step of shed entry to the end of the exit (log 142, DEDUCED). -/
def takesArrivals (s : State) : Bool := enginesRun s

/-- R207: the send of a message id, for a notice that the package takes. -/
def State.heard (s : State) (mid : Nat) : Option Send := if takesArrivals s then s.sendOf mid else none

/-- DELIVERY_NOTICE (R207). -/
def execDeliveryNotice (mid : Nat) (s : State) : Host.Outcome State Fault Refusal :=
  match s.heard mid with
  | some x => if x.hdr.kind = 0 then .next (s.endSend x false) else .next s
  | none => .next s

/-- FINAL_LOSS_NOTICE (R207, R213, R427). -/
def execFinalLossNotice (mid : Nat) (s : State) : Host.Outcome State Fault Refusal :=
  match s.heard mid with
  | some x => .next (s.endSend x true)
  | none => .next s

/-- HELD_NOTICE (R208). -/
def execHeldNotice (mid : Nat) (s : State) : Host.Outcome State Fault Refusal :=
  match s.heard mid with
  | some x => .next (s.setSend { x with held := some s.tick })
  | none => .next s

/-- R213: the fragments of a result to one member under a new message id of its switch. -/
def State.sendResult (s : State) (g : SwitchResult) : State :=
  let h := g.hdr
  let mid := s.switchMid.get 0 h.src
  let h := { h with mid := mid }
  let p := crP (s.coderate.get 0 h.cls)
  let out := (List.range (h.k + h.m)).map fun f =>
    let path := fragPath mid (max p 1) f
    OutMsg.frag path (fragBytes { h with fidx := f, path := path } (fragment g.data h.k f))
  { s with switchMid := s.switchMid.set 0 h.src ((mid + 1) % 2 ^ 32), outbox := s.outbox ++ out
           results := if h.rt = 1 && h.att = 0 then s.results ++ [{ g with hdr := h }] else s.results }

/-- R206, R213: a result that a member asks for once more is sent again by its switch, which keeps it until then (log 132). -/
def State.resendResult (s : State) (mid missing : Nat) : State :=
  match s.results.find? fun g => g.hdr.mid == mid with
  | some g =>
    if g.hdr.k < missing then s
    else { s with results := s.results.filter (· != g) }.sendResult { g with hdr := { g.hdr with att := 1 } }
  | none => s

/-- RESEND_NOTICE (R206): one resend of the whole message under a new MID, with ATT = 1; `missing` is what the receiver
says it lacked. -/
def execResendNotice (mid missing : Nat) (s : State) : Host.Outcome State Fault Refusal :=
  match s.heard mid with
  | some x =>
    if x.hdr.rt = 1 && x.hdr.att = 0 && missing ≤ x.hdr.k then
      .next ((s.takeMid).setSend
        { x with mid := s.mid, hdr := { x.hdr with mid := s.mid, att := 1 }, held := none
                 left := List.range (x.hdr.k + x.hdr.m) })
    else .next s
  | none => .next (if takesArrivals s then s.resendResult mid missing else s)

/-- R207, R208, R427: the deadline of a send is this boundary. -/
def sendLate (s : State) (x : Send) : Bool :=
  match x.held with
  | some h => boundaryOf s h (4 * s.losstmo)
  | none => x.left.isEmpty && boundaryOf s x.lastTick (4 * s.losstmo)

/-- GSEND_DEADLINE (R207, R208): LOST at a deadline of its own, and an abandon notice to DST. -/
def execGsendDeadline (send : Nat) (s : State) : Host.Outcome State Fault Refusal :=
  match s.sends.find? fun x => x.id == send with
  | some x =>
    if x.hdr.kind = 0 && sendLate s x then .next ((s.notify .abandon x.hdr.dst x.mid).endSend x true) else .next s
  | none => .next s

/-- The send of a command's contribution. -/
def State.sentByCmd (s : State) (cmd : Nat) : Option Send := s.sends.find? fun x => x.cmd == cmd && x.hdr.kind == 1

/-- GRED_DEADLINE (R427). -/
def execGredDeadline (cmd : Nat) (s : State) : Host.Outcome State Fault Refusal :=
  match s.sentByCmd cmd with
  | some x => if sendLate s x then .next (s.endSend x true) else .next s
  | none => .next s

/-! ### Receives that end (R199, R204, R346) -/

/-- GRECV_WAIT_EXPIRY (R346). -/
def waitExpired (s : State) (r : Recv) : Bool := r.wait != 0 && r.msg.isNone && boundaryOf s r.from_ r.wait
def execGrecvWaitExpiry (recv : Nat) (s : State) : Host.Outcome State Fault Refusal :=
  match s.recvs.find? fun r => r.id == recv with
  | some r => if waitExpired s r then .next (s.endRecv r 0 rsOK stNONE) else .next s
  | none => .next s

/-- RECEIVE_DECODE_END (R199, R204, R207): the missing data fragments are written, the record is posted, and a delivery
notice leaves; a rebuilt fragment is counted (R408). -/
def decodeDone (s : State) (m : Msg) : Bool := match m.doneAt with | some d => d ≤ s.station | none => false
def execReceiveDecodeEnd (msg : Nat) (s : State) : Host.Outcome State Fault Refusal :=
  match s.msgs.find? fun m => m.id == msg with
  | none => .next s
  | some m =>
    match s.recvs.find? fun r => some r.id == m.recv with
    | none => .next s
    | some r =>
      if !decodeDone s m then .next s
      else
        let f := fragSize m.hdr.len m.hdr.k
        let lost := (List.range m.hdr.k).filter fun j => (fragOf m.frags j).isNone
        let s := lost.foldl (fun (s : State) j => s.landFrag r m.hdr j (rebuild m.frags m.hdr.k f j)) s
        let s := s.countCore (keyCore r.own.key) r.own.dev 0x07 lost.length
        let count := match s.cmd r.cmd with
          | some c => if c.code = 8 then c.fld 2 0 23 else m.hdr.len
          | none => m.hdr.len
        let s := if m.hdr.kind = 0 then s.notify .delivery m.hdr.src m.hdr.mid else s
        .next ((s.dropMsg m.id).endRecv r count rsOK stOK)

/-! ### Reductions at the switch (R213, R214, R427) -/

/-- R214: the eight bytes that DHASH covers. -/
def descBytes (group cls sat ty op n : Nat) : List Byte :=
  natToBytes 2 group ++ natToBytes 1 cls ++ natToBytes 1 (sat + 2 * ty) ++ natToBytes 1 op ++ natToBytes 3 n

/-- R214: DHASH of a command. -/
def Cmd.dhash (c : Cmd) : Nat :=
  crc32c (descBytes (c.fld 3 32 16) (c.fld 3 8 3) (c.fld 3 7 1) (c.fld 3 5 2) (c.fld 3 0 4) (c.fld 2 0 23))

/-- The descriptor of a contribution, found by its hash: SAT, TYPE, OP and element count. A block-fixed message holds one granule of
exponents for each 64 blocks or part of them, in 8,256 bytes or less (R106). -/
def descOf (h : FragHdr) : Option (Nat × Nat × Nat × Nat) :=
  let n := fun (ty : Nat) => if ty = 0 then h.len / 4 else if ty = 1 then h.len / 8 else (h.len - 64 * ceilDiv h.len 8256) / 4
  let fits := fun (ty n : Nat) => (if ty = 0 then 4 * n else if ty = 1 then 8 * n else blockFixedBytes n) == h.len
  let cands := (List.range 3).flatMap fun ty =>
    if !fits ty (n ty) then [] else (List.range 2).flatMap fun sat => (List.range 6).map fun op => (sat, ty, op, n ty)
  cands.find? fun d => crc32c (descBytes h.tag h.cls d.1 d.2.1 d.2.2.1 d.2.2.2) == h.dhash

/-- R213: one element combined. -/
def redElem (w op sat a b : Nat) : Nat :=
  match op with
  | 0 => if sat = 1 then wrapInt (satS w (signExt a w + signExt b w)) w else (a + b) % 2 ^ w
  | 1 => Nat.land a b
  | 2 => Nat.lor a b
  | 3 => Nat.xor a b
  | 4 => if signExt b w < signExt a w then b else a
  | _ => if signExt a w < signExt b w then b else a

/-- R213: the elements of two messages combined; bytes beyond the elements are the first's. -/
def redCombine (w op sat n : Nat) (a b : List Byte) : List Byte :=
  let word := fun (l : List Byte) (i : Nat) => bytesToNat ((l.drop (w / 8 * i)).take (w / 8))
  ((List.range n).flatMap fun i => natToBytes (w / 8) (redElem w op sat (word a i) (word b i))) ++ a.drop (w / 8 * n)

/-- The contributions of a reduction that are at the switch. -/
def State.parts (s : State) (r : Reduction) : List Msg :=
  s.msgs.filter fun m => m.hdr.kind == 1 && m.dev == r.dev && m.hdr.tag == r.group && m.hdr.gseq == r.gseq

/-- The members of a reduction's group and its switch. -/
def State.redGroup (s : State) (r : Reduction) : Nat × List Nat := (groupOf s r.dev r.group).getD (0, [])

/-- A reduction in its new state; one that no longer collects drops its contributions. -/
def State.closeRed (s : State) (r : Reduction) (st : RedSt) : State :=
  let ps := s.parts r
  let s := ps.foldl (fun s m => s.retire m.hdr.src m.hdr.mid)
    { s with msgs := s.msgs.filter fun m => !ps.any fun p => p.id == m.id }
  { s with reductions := s.reductions.map fun x => if x.id == r.id then { x with st := st } else x }

/-- A notice to every member, for the contribution each of them sent where it is known. -/
def State.notifyMembers (s : State) (r : Reduction) (k : NoticeKind) : State :=
  (s.redGroup r).2.foldl (fun s d =>
    s.notify k d (match (s.parts r).find? fun m => m.hdr.src == d with | some m => m.hdr.mid | none => 0)) s

/-- R213: every member's contribution is rebuilt: the switch combines them in ascending rank and sends the result. -/
def State.combine (s : State) (r : Reduction) : State :=
  let ms := (s.redGroup r).2
  let parts := ms.filterMap fun d => (s.parts r).find? fun m => m.hdr.src == d && m.full.isSome
  if parts.length ≠ ms.length then s
  else match parts with
    | [] => s
    | m :: rest =>
      match descOf m.hdr with
      | none => s
      | some (sat, ty, op, n) =>
        let w := if ty = 1 then 64 else 32
        let bytes := fun (m : Msg) => rebuildMessage m.frags m.hdr.k m.hdr.len
        let data := rest.foldl (fun acc m => redCombine w op sat n acc (bytes m)) (bytes m)
        ms.foldl (fun (s : State) d => s.sendResult { dev := r.dev, group := r.group, data := data
                                                      hdr := { m.hdr with kind := 2, src := (s.redGroup r).1, dst := d, att := 0 } })
          (s.closeRed r .closed)

/-- REDUCTION_TIMEOUT (R427): some member's contribution is absent at the boundary. -/
def reductionLate (s : State) (r : Reduction) : Bool :=
  r.st == .collecting && boundaryOf s r.first s.losstmo && !(s.redGroup r).2.all fun d => r.came.contains d
def execReductionTimeout (red : Nat) (s : State) : Host.Outcome State Fault Refusal :=
  match s.reductions.find? fun r => r.id == red with
  | some r => if reductionLate s r then .next ((s.notifyMembers r .finalLoss).closeRed r .lost) else .next s
  | none => .next s

/-- The reduction of a contribution, a new one at its first fragment. -/
def State.reductionFor (s : State) (dev : Nat) (h : FragHdr) : Reduction × State :=
  match s.reductions.find? fun r => r.dev == dev && r.group == h.tag && r.gseq == h.gseq with
  | some r => (r, s)
  | none =>
    let r : Reduction := { id := s.nextId, dev := dev, group := h.tag, gseq := h.gseq, first := s.tick }
    (r, { s with nextId := s.nextId + 1, reductions := s.reductions ++ [r] })

/-- R214: the running `gred` of a group with a GSEQ. -/
def orderedGred (s : State) (dev group gseq : Nat) : Option Cmd :=
  match s.recvs.find? fun r => r.kind == 2 && r.own.dev == dev && r.tag == group && r.inst == gseq with
  | some r => s.cmd r.cmd
  | none => none
/-- COLLECTIVE_ORDER_NOTICE (R214): the `gred` of that GSEQ posts NONE, and its context takes cause 0x23. -/
def execCollectiveOrderNotice (dev : Nat) (red : GroupSeq) (s : State) : Host.Outcome State Fault Refusal :=
  match if takesArrivals s then orderedGred s dev red.group red.gseq else none with
  | none => .next s
  | some c =>
    let f := s.freeCount
    let s := { f.2 with sends := f.2.sends.filter fun x => x.cmd != c.id }.dropRecvs fun x => x.cmd == c.id
    let p := c.poisonReason
    .next ((s.finishCmd c f.1 p.1 stNONE p.2).postAsync c.own 0x23 (c.addr 1))

/-! ### Arrivals (R196, R199, R204, R205, R218) -/

/-- R204: bytes of the yard of a die in use: every fragment held for want of a receive, and parity. -/
def yardUsed (s : State) (die : Nat) : Nat :=
  s.msgs.foldl (fun n m =>
    if m.yard != die || m.hdr.kind == 1 || m.recv == some 0 then n
    else n + ((m.frags.filter fun e => m.recv.isNone || m.hdr.k ≤ e.1).length) * fragSize m.hdr.len m.hdr.k) 0

/-- R196: a fragment that passes: its header is whole, its CRC matches and no reserved bit is set. -/
def fragGood (header payload : List Byte) : Bool :=
  let h := parseHdr header
  header.length == 32 && h.resv == 0 && hdrCrc h payload == h.crc

/-- R196, R197: its fields name a fragment that some message has. -/
def fragFits (h : FragHdr) (payload : List Byte) : Bool :=
  1 ≤ h.k && h.k ≤ 16 && h.m ≤ 8 && h.fidx < h.k + h.m && 1 ≤ h.len && h.len ≤ 2 ^ 24 && payload.length == fragSize h.len h.k

/-- R218: the timetable of a device that has a receive entry for a message's source and tag, where its core runs or where it is saved. -/
def tableFor (s : State) (dev : Nat) (h : FragHdr) : Option Timetable :=
  let fits := fun (t : Timetable) => t.own.dev == dev && t.entries.any fun x => x.kind == 2 && x.peer == h.src && x.tag == h.tag
  let saved := ((s.cores.filterMap fun e => e.2.leanTo) ++ s.overflow).filterMap (·.gtt)
  ((s.cores.filterMap fun e => e.2.gtt) ++ saved).find? fits

/-- R216, R218: how many instances of a timetable have started before a cycle, whether they ran or were missed. -/
def Timetable.passed (t : Timetable) (now : Nat) : Nat :=
  if now ≤ t.tick * 1024 then 0 else min t.count ((now - 1 - t.tick * 1024) / (t.period * 1024) + 1)

/-- R218: how far INST is ahead of the current instance in a cycle, modulo 65,536. -/
def instAhead (t : Timetable) (now inst : Nat) : Nat := (inst + 65536 + 1 - (t.first + t.passed now) % 65536) % 65536

/-- R199, R205, R208: one more fragment of a message; the k-th retires it, starts the decode or makes it held. -/
def State.addFragment (s : State) (m : Msg) (f : Nat) (pay : List Byte) : State :=
  let dead := m.recv == some 0
  let m : Msg := { m with frags := m.frags ++ [(f, if dead then [] else pay)] }
  let whole := m.frags.length == m.hdr.k
  let m : Msg := if whole then { m with full := some s.station } else m
  let r := s.recvs.find? fun r => some r.id == m.recv
  let m : Msg := if whole && r.isSome then { m with doneAt := some (decodeEnd s.station m) } else m
  let s := s.setMsg m
  let s := match r with
    | some r => if f < m.hdr.k then s.landFrag r m.hdr f pay else s
    | none => s
  if !whole then s
  else
    let s := s.retire m.hdr.src m.hdr.mid
    if dead then s.dropMsg m.id
    else if r.isNone && m.hdr.kind != 1 then s.notify .held m.hdr.src m.hdr.mid
    else s

/-- A fragment of a message or result that is on time. -/
def State.acceptFragment (s : State) (dev port : Nat) (h : FragHdr) (pay : List Byte) : State :=
  let old := s.msgs.find? fun m => m.dev == dev && m.hdr.kind == h.kind && m.hdr.src == h.src && m.hdr.mid == h.mid
  let id := s.nextId
  let s := match old with
    | some _ => s
    | none =>
      let m : Msg := { id := id, dev := dev, hdr := h, first := s.tick, frags := [], yard := port / 4 }
      { s with nextId := s.nextId + 1, msgs := s.msgs ++ [m] }.offer m
  match s.msgs.find? fun m => m.id == (match old with | some m => m.id | none => id) with
  | none => s
  | some m =>
    if (fragOf m.frags h.fidx).isSome || m.full.isSome then s
    else if (m.recv.isNone || m.hdr.k ≤ h.fidx) && m.recv != some 0 && 2 ^ 23 < yardUsed s m.yard + pay.length then s.countYard
    else s.addFragment m h.fidx pay

/-- R213, R214, R427: a fragment of a contribution at the switch. -/
def State.acceptPart (s : State) (dev port : Nat) (h : FragHdr) (pay : List Byte) : State :=
  let q := s.reductionFor dev h
  let r := q.1
  let s := q.2
  match r.st with
  | .closed => s
  | .ordered => (s.notify .order h.src h.mid).retire h.src h.mid
  | .lost => (s.notify .finalLoss h.src h.mid).retire h.src h.mid
  | .collecting =>
    let r : Reduction := { r with came := if r.came.contains h.src then r.came else r.came ++ [h.src] }
    let s := { s with reductions := s.reductions.map fun (x : Reduction) => if x.id == r.id then r else x }
    let s := s.acceptFragment dev port h pay
    if (s.parts r).any fun m => m.hdr.dhash != h.dhash then (s.notifyMembers r .order).closeRed r .ordered
    else s.combine r

/-- FRAGMENT_ARRIVAL. A package that is shed takes none (R220). -/
def execFragmentArrival (dev port : Nat) (header payload : List Byte) (s : State) : Host.Outcome State Fault Refusal :=
  let h := parseHdr header
  if !takesArrivals s then .next s
  else if !fragGood header payload then .next s.countBad
  else if !fragFits h payload then .next s
  else if s.retired.contains (h.src, h.mid) then .next (if h.kind = 1 then s else s.countLate)
  else match h.kind with
    | 0 =>
      match tableFor s dev h with
      | none => .next (s.acceptFragment dev port h payload)
      | some t =>
        let d := instAhead t s.station h.inst
        if d ≤ 1 then .next (s.acceptFragment dev port h payload)
        else if d < 32768 then .next (s.postAsync t.own 0x24 0)
        else .next s.countLate
    | 1 => .next (s.acceptPart dev port h payload)
    | 2 => .next (s.acceptFragment dev port h payload)
    | _ => .next s

/-- R206: a message is lost at this boundary. -/
def msgLate (s : State) (m : Msg) : Bool := m.full.isNone && boundaryOf s m.first s.losstmo

/-- MESSAGE_LOST (R205, R206, R213). -/
def execMessageLost (msg : Nat) (s : State) : Host.Outcome State Fault Refusal :=
  match s.msgs.find? fun m => m.id == msg with
  | none => .next s
  | some m =>
    if !msgLate s m then .next s
    else
      let s := (s.dropMsg m.id).retire m.hdr.src m.hdr.mid
      if m.recv = some 0 then .next s
      else if m.hdr.rt = 1 && m.hdr.att = 0 then
        .next ((s.notify .resend m.hdr.src m.hdr.mid).reopen m)
      else if m.hdr.kind = 1 then
        match s.reductions.find? fun r => r.dev == m.dev && r.group == m.hdr.tag && r.gseq == m.hdr.gseq with
        | some r => .next (((s.notify .finalLoss m.hdr.src m.hdr.mid).notifyMembers r .finalLoss).closeRed r .lost)
        | none => .next s
      else
        let s := s.notify .finalLoss m.hdr.src m.hdr.mid
        match s.recvs.find? fun r => some r.id == m.recv with
        | some r => .next (s.endRecv r 0 rsOK stLOST)
        | none => .next s

/-- R208: a held message is discarded at this boundary. -/
def heldLate (s : State) (m : Msg) : Bool :=
  m.recv.isNone && m.hdr.kind != 1 && (match m.full with | some a => boundaryOf s (a / 1024) (2 * s.losstmo) | none => false)

/-- HELD_MESSAGE_DISCARD (R208). -/
def execHeldMessageDiscard (msg : Nat) (s : State) : Host.Outcome State Fault Refusal :=
  match s.msgs.find? fun m => m.id == msg with
  | some m => if heldLate s m then .next (((s.dropMsg m.id).countYard).notify .finalLoss m.hdr.src m.hdr.mid) else .next s
  | none => .next s

/-- ABANDON_NOTICE (R208): what has come of a message that no decode has taken is discarded, and its id retires, also where nothing
of it has come. -/
def execAbandonNotice (src mid : Nat) (s : State) : Host.Outcome State Fault Refusal :=
  if !takesArrivals s then .next s
  else
    let t := if s.retired.contains (src, mid) then s else s.retire src mid
    match s.msgs.find? fun m => m.hdr.src == src && m.hdr.mid == mid && m.hdr.kind == 0 && (m.full.isNone || m.recv.isNone) with
    | some m => .next ((t.dropMsg m.id).reopen m)
    | none => .next t

/-! ### Timetables (R215 to R219) -/

/-- R215: entry i of a timetable's bytes. -/
def ttEntry (bs : List Byte) (i : Nat) : TTEntry :=
  let f := fun (o n : Nat) => bytesToNat ((bs.drop (64 + 32 * i + o)).take n)
  { stamp := f 0 4, kind := f 4 1, cls := f 5 1, peer := f 6 2, tag := f 8 2, consume := f 12 4
    addr := BitVec.ofNat 64 (f 16 8), len := f 24 4 }

/-- R215: an entry within the limits. -/
def ttEntryOk (bs : List Byte) (length i : Nat) : Bool :=
  let e := ttEntry bs i
  let f := fun (o n : Nat) => bytesToNat ((bs.drop (64 + 32 * i + o)).take n)
  e.stamp < length && (e.kind == 1 || e.kind == 2) && e.cls < 8 && f 10 2 == 0 && f 28 4 == 0 && 1 ≤ e.len && e.len ≤ 2 ^ 24
  && (e.kind == 1 || (e.stamp < e.consume && e.consume < length))
  && (i == 0 || (ttEntry bs (i - 1)).stamp ≤ e.stamp)

/-- R215: entry count, LENGTH, PERIOD and instance count of a header. -/
def ttHeader (bs : List Byte) : Nat × Nat × Nat × Nat :=
  let f := fun (o n : Nat) => bytesToNat ((bs.drop o).take n)
  (f 0 2, f 2 2 + 1, f 4 2, f 6 2)

/-- R215: a timetable's bytes are within the limits. -/
def ttOk (bs : List Byte) : Bool :=
  let h := ttHeader bs
  1 ≤ h.1 && h.1 ≤ 1024 && 1 ≤ h.2.2.2 && (h.2.2.2 == 1 || ceilDiv h.2.1 1024 + 1 ≤ h.2.2.1)
  && ((bs.drop 8).take 56).all (· == 0) && (List.range h.1).all (ttEntryOk bs h.2.1)

/-- R215, R216, R347: a `gtt` starts: the timetable is read, checked and installed. -/
def State.startTable (s : State) (c : Cmd) : State :=
  let a := c.addr 0
  let x := (s.view c.own.dev).stall (addrStall a)
  if !x.sync then s.failCmd c rsWRONGLEVEL stOK a else
  let s := s.scan (x.at a) 64
  let n := bytesToNat (s.mem.readN (x.at a) 2)
  if 1 ≤ n && n ≤ 1024 && 64 * x.len < addrOffset a + 64 + 32 * n then
    s.failCmd c rsOUTSIDE stOK (stallAddr x.id (64 * x.len))
  else
    let s := s.scan (x.at a) (64 + 32 * n)
    let bs := s.mem.readN (x.at a) (64 + 32 * n)
    if !ttOk bs then s.failCmd c rsBADPARAM stOK 0
    else
      let b := s.beginCmd c
      let h := ttHeader bs
      b.1.modCore (keyCore c.own.key) fun k =>
        { k with gtt := some { cmd := c.id, own := c.own, stall := x.id, entries := (List.range n).map (ttEntry bs)
                               length := h.2.1, period := h.2.2.1, count := h.2.2.2, first := c.fld 2 0 16
                               tick := c.fld 1 0 54 } }

/-- R216: the start value of instance i. -/
def Timetable.startOf (t : Timetable) (i : Nat) : Nat := (t.tick + i * t.period) * 1024
/-- R216: the start value of the running instance. -/
def Timetable.begun (t : Timetable) : Nat := t.startOf (t.inst - 1)
/-- R216: INST of the running instance. -/
def Timetable.instNo (t : Timetable) : Nat := (t.first + t.inst - 1) % 65536

/-- TIMETABLE_INSTANCE_START (R216, R219). -/
def instanceDue (s : State) (core : Nat) : Bool :=
  match (s.core core).gtt with
  | some t => !t.running && t.inst < t.count && s.station == t.startOf t.inst && !(s.core core).stopping
  | none => false
def execTimetableInstanceStart (s : State) : Host.Outcome State Fault Refusal :=
  let core := s.myCore
  if instanceDue s core then
    .next (s.modCore core fun k => { k with gtt := k.gtt.map fun t => { t with running := true, inst := t.inst + 1, ran := t.ran + 1 } })
  else .next s

/-- R217: the entries of the running instance that act at an offset of its start. -/
def entryAt (s : State) (core entry : Nat) (kind : Nat) (at_ : TTEntry → Nat) : Option (Timetable × TTEntry) :=
  match (s.core core).gtt with
  | some t =>
    match t.entries[entry]? with
    | some e => if t.running && e.kind == kind && s.station == t.begun + at_ e then some (t, e) else none
    | none => none
  | none => none

/-- R217: the near stall of an entry's local address, where it passes R47. -/
def entryStall (s : State) (core : Nat) (t : Timetable) (e : TTEntry) : Option Stall :=
  let x := (s.view t.own.dev).stall (addrStall e.addr)
  if isStallAddr e.addr && x.id != 0 && addrOffset e.addr + e.len ≤ 64 * x.len && isNearLevel x.level && sameQuad x.core core
    && x.live s.tick && lienRoom (s.dev t.own.dev) [x.id] then some x else none

/-- TIMETABLE_SEND_ENTRY (R217): as a `gsend` that posts no record and is never resent. -/
def execTimetableSendEntry (core entry : Nat) (s : State) : Host.Outcome State Fault Refusal :=
  match entryAt s core entry 1 TTEntry.stamp with
  | none => .next s
  | some (t, e) =>
    match entryStall s core t e with
    | none => .next (s.postAsync t.own 0x20 e.addr)
    | some x =>
      let h := newHdr s e.cls e.peer e.tag e.len
      .next ((s.placeLiens t.own.dev [x.id]).addSend
        { id := 0, cmd := 0, own := t.own, mid := h.mid, hdr := { h with inst := t.instNo, rt := 0 }, data := []
          whole := false, left := List.range (h.k + h.m), liens := [x.id], src := some e.addr, quiet := true })

/-- R217: a receive entry is posted. -/
def State.postEntry (s : State) (core entry : Nat) : State :=
  match entryAt s core entry 2 TTEntry.stamp with
  | none => s
  | some (t, e) =>
    let s := s.modCore core fun k => { k with gtt := k.gtt.map fun t => { t with recvs := t.recvs ++ [(entry, s.nextId)] } }
    match entryStall s core t e with
    | none => { s with nextId := s.nextId + 1 }
    | some x =>
      (s.placeLiens t.own.dev [x.id]).addRecv
        { id := 0, cmd := 0, own := t.own, src := e.peer, tag := e.tag, inst := t.instNo, kind := 0, cap := e.len
          dst := .near (x.at e.addr), addr := e.addr, from_ := s.tick, wait := 0, liens := [x.id] }

/-- R217: every receive entry of the core that is due in this cycle. -/
def State.postEntries (s : State) (core : Nat) : State :=
  match (s.core core).gtt with
  | some t => (List.range t.entries.length).foldl (fun s i => s.postEntry core i) s
  | none => s

/-- TIMETABLE_CONSUME_DEADLINE (R217). -/
def consumeLate (s : State) (core entry : Nat) : Bool :=
  match entryAt s core entry 2 TTEntry.consume with
  | some (t, _) => t.recvs.any fun e => e.1 == entry
  | none => false
def execTimetableConsumeDeadline (core entry : Nat) (s : State) : Host.Outcome State Fault Refusal :=
  match entryAt s core entry 2 TTEntry.consume with
  | some (t, e) => if t.recvs.any fun x => x.1 == entry then .next (s.postAsync t.own 0x20 e.addr) else .next s
  | none => .next s

/-- TIMETABLE_INSTANCE_END (R219). -/
def instanceOver (s : State) (core : Nat) : Bool :=
  match (s.core core).gtt with
  | some t => t.running && s.station == t.begun + t.length
  | none => false
def execTimetableInstanceEnd (s : State) : Host.Outcome State Fault Refusal :=
  let core := s.myCore
  match (s.core core).gtt with
  | none => .next s
  | some t =>
    if !instanceOver s core then .next s
    else
      let u := s.dropTimetable core
      if t.inst < t.count then
        .next (u.modCore core fun k => { k with gtt := some { t with running := false, recvs := [] } })
      else match u.cmd t.cmd with
        | some c => .next (u.finishCmd c t.ran rsOK stOK 0)
        | none => .next u

/-- R62, R347: the SYNC stall of a core's timetable lapses: the `gtt` ends with the instances completed. -/
def State.abortTable (s : State) (core dev stall : Nat) : State :=
  match (s.core core).gtt with
  | none => s
  | some t =>
    if t.own.dev != dev || t.stall != stall then s
    else
      let u := s.dropTimetable core
      match u.cmd t.cmd with
      | some c => u.finishCmd c (if t.running then t.ran - 1 else t.ran) rsEXPIRED stNONE (c.addr 0)
      | none => u

end Sys2Proof.Machine
end

