-- ==== Sys2Proof/Machine/Group.lean ====
section
/-!
DEFINITION. Sys2Proof/Machine/Group.lean: the G slot (R162, R333, R340 to R347), the start of G commands, and the decode
engine, the planner and the block-cache control at work (R167 to R176).
-/
namespace Sys2Proof.Machine

/-! ### The G slot -/

def slotAdec (c : XNum) (t eq : Bool) (s : State) : SlotOut := acceptCmd true 1 0 c t eq s
def execAdec (c : XNum) (t eq : Bool) (s : State) : Host.Outcome State Fault Refusal := finishSlot .G s (slotAdec c t eq s)
def slotAplan (c : XNum) (t eq : Bool) (s : State) : SlotOut := acceptCmd true 2 0 c t eq s
def execAplan (c : XNum) (t eq : Bool) (s : State) : Host.Outcome State Fault Refusal := finishSlot .G s (slotAplan c t eq s)
def slotAmerge (norm : Bool) (c : XNum) (t eq : Bool) (s : State) : SlotOut := acceptCmd true 3 (bnat norm) c t eq s
def execAmerge (norm : Bool) (c : XNum) (t eq : Bool) (s : State) : Host.Outcome State Fault Refusal :=
  finishSlot .G s (slotAmerge norm c t eq s)
def slotKvinv (c : XNum) (t eq : Bool) (s : State) : SlotOut := acceptCmd true 4 0 c t eq s
def execKvinv (c : XNum) (t eq : Bool) (s : State) : Host.Outcome State Fault Refusal := finishSlot .G s (slotKvinv c t eq s)
def slotKfork (rel : Bool) (c : XNum) (t eq : Bool) (s : State) : SlotOut := acceptCmd true 5 (bnat rel) c t eq s
def execKfork (rel : Bool) (c : XNum) (t eq : Bool) (s : State) : Host.Outcome State Fault Refusal :=
  finishSlot .G s (slotKfork rel c t eq s)
def slotGsend (c : XNum) (t eq : Bool) (s : State) : SlotOut := acceptCmd true 6 0 c t eq s
def execGsend (c : XNum) (t eq : Bool) (s : State) : Host.Outcome State Fault Refusal := finishSlot .G s (slotGsend c t eq s)
def slotGrecv (c : XNum) (t eq : Bool) (s : State) : SlotOut := acceptCmd true 7 0 c t eq s
def execGrecv (c : XNum) (t eq : Bool) (s : State) : Host.Outcome State Fault Refusal := finishSlot .G s (slotGrecv c t eq s)
def slotGred (c : XNum) (t eq : Bool) (s : State) : SlotOut := acceptCmd true 8 0 c t eq s
def execGred (c : XNum) (t eq : Bool) (s : State) : Host.Outcome State Fault Refusal := finishSlot .G s (slotGred c t eq s)
def slotGtt (c : XNum) (eq : Bool) (s : State) : SlotOut := acceptCmd true 9 0 c false eq s
def execGtt (c : XNum) (eq : Bool) (s : State) : Host.Outcome State Fault Refusal := finishSlot .G s (slotGtt c eq s)

/-! ### Starts -/

/-- R344: the range of a `kvinv` fails: its reason and address. -/
def kvinvFail (s : State) (c : Cmd) : Option (Nat × Word) :=
  let a := c.addr 0
  let x := (s.view c.own.dev).stall (addrStall a)
  if !isStallAddr a || addrStall a = 0 || x.id = 0 || 64 * x.len ≤ addrOffset a then some (rsOUTSIDE, a)
  else if 64 * x.len < addrOffset a + 8 * c.fld 1 0 17 then some (rsOUTSIDE, stallAddr x.id (64 * x.len))
  else if !x.live s.tick then some (rsEXPIRED, a)
  else none

/-- R174: an entry address among those that a `kvinv` names. -/
def kvinvNames (c : Cmd) (a : Word) : Bool := c.reg 0 ≤ a.toNat && a.toNat < c.reg 0 + 8 * c.fld 1 0 17

/-- R174: an `adec` of the device that resolved an entry the command names. -/
def resolvedNamed (c d : Cmd) : Bool :=
  d.group && d.code == 1 && d.own.dev == c.own.dev && d.cached.any fun a => kvinvNames c a

/-- R174: the block caches without the entries that a `kvinv` names. -/
def clearNamed (c : Cmd) (m : FMap (List (Nat × Word × Word))) : FMap (List (Nat × Word × Word)) :=
  (m.map fun (d : Nat × List (Nat × Word × Word)) =>
    (d.1, d.2.filter fun e => !(e.1 == c.own.dev && kvinvNames c e.2.1))).filter fun d => !d.2.isEmpty

/-- R333: a G command that has left its queue stands at its head again. -/
def Ctx.requeue (id : Nat) (c : Ctx) : Ctx := { c with gq := id :: c.gq, gleft := 0 }

/-- R167, R174, R334: an `adec` that has resolved a named entry and does not start before this cycle resolves it anew, from the table, and
translates its new pages; one whose entries are bad now ends as R167 says. One that started in this cycle already waits for its start
again: it starts in this cycle after all where R69 lets it, with the range of its new pages (log 156, DEDUCED). -/
def State.resolveAgain (s : State) (c : Cmd) (id : Nat) : State :=
  match s.cmd id with
  | some d =>
    let began : Bool := d.stage == .running && d.start == s.station
    if !(began || d.stage == .translated || (d.stage == .queued && d.step == 1)) || !resolvedNamed c d then s
    else
      let t := if began then (s.dropLiens d.own.dev d.liens).modOwner d.own (Ctx.requeue d.id) else s
      t.resolve { d with stage := .queued, step := 0, liens := [], runs := [], waits := [] }
  | none => s

/-- R174: the commands that started earlier, run and have resolved a named entry. -/
def resolvers (s : State) (c : Cmd) : List Nat :=
  s.cmds.filterMap fun (e : Nat × Option Cmd) => match e.2 with
    | some d => if d.stage == .running && d.start < s.station && resolvedNamed c d then some d.id else none
    | none => none

/-- R174: the start of a `kvinv`: the entries leave every die's block cache, before the resolution of any `adec` that starts in the
same cycle, and the commands that resolved one of them earlier and run are waited for. -/
def State.startKvinv (s : State) (c : Cmd) : State :=
  let t := { s with bcache := clearNamed c s.bcache }
  let t := (s.cmds.map Prod.fst).foldl (fun t id => t.resolveAgain c id) t
  (t.beginCmd { c with waits := resolvers s c }).1

/-- R202, R203, R212, R214: a fabric command starts. -/
def State.startFabric (s : State) (c : Cmd) : State :=
  let place := fun (a : Word) => placeOf s c.own.dev c.pages c.entries a
  if c.code = 6 then
    let h := newHdr s (c.fld 1 0 3) (c.fld 1 48 16) (c.fld 1 32 16) (c.fld 2 0 25)
    s.addSend { id := 0, cmd := c.id, own := c.own, mid := h.mid, hdr := h, data := [], whole := false
                left := List.range (h.k + h.m), src := some (c.addr 0) }
  else if c.code = 7 then
    s.addRecv { id := 0, cmd := c.id, own := c.own, src := c.fld 1 48 16, tag := c.fld 1 32 16, inst := 0, kind := 0
                cap := c.fld 2 0 25, dst := place (c.addr 0), addr := c.addr 0, from_ := s.tick, wait := c.fld 3 0 16 }
  else
    let g := c.fld 3 32 16
    let key := c.own.dev * 2 ^ 16 + g
    let gseq := s.gredCount.get 0 key
    let s := { s with gredCount := s.gredCount.set 0 key ((gseq + 1) % 2 ^ 32) }
    let sw := match groupOf s c.own.dev g with | some x => x.1 | none => 0
    let h : FragHdr := { newHdr s (c.fld 3 8 3) sw g c.redBytes with gseq := gseq, dhash := c.dhash, kind := 1 }
    (s.addSend { id := 0, cmd := c.id, own := c.own, mid := h.mid, hdr := h, data := [], whole := false
                 left := List.range (h.k + h.m), src := some (c.addr 0) }).addRecv
      { id := 0, cmd := c.id, own := c.own, src := sw, tag := g, inst := gseq, kind := 2, cap := c.redBytes
        dst := place (c.addr 1), addr := c.addr 1, from_ := s.tick, wait := 0 }

/-- R82, R172, R173: the sources of an `aplan` and an `amerge`: the lengths, or the partials. -/
def sourceRuns (c : Cmd) : List Run :=
  match c.code with
  | 2 => [{ src := some (0, c.addr 0), n := 4 * c.fld 2 0 13 }]
  | 3 => (List.range (c.fld 3 0 7)).map fun k =>
      { src := some (0, c.addr 0 + BitVec.ofNat 64 (k * c.fld 2 0 32)), n := (c.fld 3 8 4 + 1) * c.partialRow }
  | _ => []

/-- R28, R82: a group command goes on by reading runs of bytes; its step is 2 meanwhile. -/
def State.beginReads (s : State) (c : Cmd) (rs : List Run) : State :=
  (s.setCmd { c with step := 2, when_ := s.station }).addXfers (runXfers s c rs)

/-- R176: the one request of a `kfork`, for the page header. -/
def refXfer (s : State) (c : Cmd) : Xfer :=
  { cmdXfer s c with src := some (placeOf s c.own.dev c.pages c.entries (c.addr 0)), srcAddr := c.addr 0, bytes := 64, packet := (0, 64)
                     wpacket := (0, 64), ref := some (c.low == 1) }

/-- GROUP_COMMAND_START. -/
def execGroupCommandStart (cmd : Nat) (s : State) : Host.Outcome State Fault Refusal :=
  match s.cmd cmd with
  | some c =>
    if !c.group || !startNow s c || gttLate s c then .next s
    else if cmdZero c then .next (s.failCmd c rsOK stNONE 0)
    else if c.code = 4 then
      match kvinvFail s c with
      | some (r, a) => .next (s.failCmd c r stOK a)
      | none => .next (s.startKvinv c)
    else match stampFail s c with
      | some (r, a) => .next (s.failCmd c r stOK a)
      | none =>
        if c.code = 9 then .next (s.startTable c)
        else
          let b := s.beginCmd c
          if c.code = 1 then .next (b.1.setCmd { b.2 with runs := List.replicate c.rowsQ (emptyRun c.headDim) })
          else if c.code = 2 || c.code = 3 then .next (b.1.beginReads b.2 (sourceRuns c))
          else if c.code = 5 then .next (b.1.addXfers [refXfer b.1 b.2])
          else .next (b.1.startFabric b.2)
  | none => .next s

/-! ### Decoding (R167 to R171) -/

/-- R162, R333, R349: an `amerge` has the decode engine of a core, one of another launch perhaps, that ran on as its context was saved. -/
def mergeRunning (s : State) (core : Nat) : Bool :=
  (runningCmds s core).any fun r => r.group && r.code == 3 && r.stage == .running

/-- R171: the decode engine of the command's core stands at a page boundary of it and may go on. -/
def decoding (s : State) (c : Cmd) : Bool :=
  c.isAdec && c.stage == .running && c.step == 0 && c.when_ < s.station && cmdHere s c && !(s.core (keyCore c.own.key)).stopping
  && enginesRun s && !mergeRunning s (keyCore c.own.key)

/-- R167, R170: an `adec` can go on with a page: with the reading of the next one's header, or from its header or its rows, which are read. -/
def pageReady (s : State) (c : Cmd) : Bool :=
  (decoding s c && c.next < c.resolved.length)
  || (c.isAdec && c.stage == .running && (c.step == 2 || c.step == 3) && c.when_ < s.station && jobDone s c.id)

/-- R163, R166: the bytes of the query rows, and of one key or value row. -/
def Cmd.queryBytes (c : Cmd) : Nat := c.rowsQ * c.headDim * fmtBytes c.qFmt
def Cmd.kvRow (c : Cmd) : Nat := c.headDim * fmtBytes c.kFmt

/-- R164, R166: the header address of the page that an `adec` is on. -/
def Cmd.pageAt (c : Cmd) : Word := c.resolved.getD c.next 0

/-- R82, R164, R168: what an `adec` reads of the page that it is on once it has the header: the query rows, and the key and value rows of the
tokens taken. -/
def pageReads (c : Cmd) (toks : List Nat) : List Run :=
  let row := fun (i : Nat) => ({ src := some (1, c.pageAt + BitVec.ofNat 64 (64 + i * c.kvRow)), n := c.kvRow } : Run)
  { src := some (0, c.addr 0), n := c.queryBytes } :: (toks.map row ++ toks.map fun t => row (64 + t))

/-- R168: the runs of a command after the page that it is on, from the header and the rows read. -/
def runsAfter (c : Cmd) (hdr rows : List Byte) : List AttRun :=
  match c.qFmt, c.kFmt with
  | some qf, some kf =>
    let n := (pageTokens c (c.firstPage + c.next) hdr).length
    let w := fmtBytes c.qFmt
    let qs := (List.range c.rowsQ).map fun i => elems w (rows.drop (i * c.headDim * w)) c.headDim
    let kv := rows.drop c.queryBytes
    let vecs := fun (k : Nat) => (List.range n).map fun i => elems (fmtBytes c.kFmt) (kv.drop ((k * n + i) * c.kvRow)) c.headDim
    pageRuns c qf kf hdr qs (vecs 0) (vecs 1) c.runs
  | _, _ => c.runs

/-- R341: a request read a poisoned granule of the query rows, or of the keys and values of the page at an address; that of its header spoils
no row. -/
def spoilsRows (page : Word) (x : Xfer) : Bool := x.poison && !(x.opnd == 1 && (x.srcAddr - page).toNat < 64)

/-- R168: an `adec` is through with its page. -/
def State.nextPage (s : State) (c : Cmd) : State := (s.dropJob c.id).setCmd { c with step := 0, next := c.next + 1, when_ := s.station }

/-- R167, R168: the header of the page is read: it is checked, and the rows of its tokens are read next; a header that fails ends the
command. -/
def State.pageHeader (s : State) (c : Cmd) (hdr : List Byte) : State :=
  let j := c.firstPage + c.next
  if !headerOk c j c.resolved[c.next + 1]? hdr then
    let f := s.freeCount
    (f.2.finishCmd c f.1 rsENGINE stOK c.pageAt).postAsync c.own 0x21 c.pageAt
  else
    let toks := pageTokens c j hdr
    if toks.isEmpty then s.nextPage c
    else (s.setCmd { c with step := 3, when_ := s.station }).addXfers (runXfers s c (pageReads c toks))

/-- DECODE_PAGE: the next page's header is read and checked, and its tokens are read and merged. A poisoned key, value or query among them
makes every row a NaN (R341). -/
def execDecodePage (cmd : Nat) (s : State) : Host.Outcome State Fault Refusal :=
  match s.cmd cmd with
  | some c =>
    let mine := jobXfers s cmd
    let bs := mine.flatMap (·.data)
    if !pageReady s c then .next s
    else if c.step = 0 then .next (s.beginReads c [{ src := some (1, c.pageAt), n := 64 }])
    else if c.step = 2 then .next (s.pageHeader c bs)
    else
      .next (s.nextPage { c with runs := runsAfter c (bs.take 64) (bs.drop 64)
                                 nanRows := c.nanRows || mine.any (spoilsRows c.pageAt) })
  | none => .next s

/-- R169, R341: the partial rows of an `adec`; every row is a NaN where a poisoned granule was read. -/
def partialBytes (c : Cmd) : List Byte :=
  c.runs.flatMap fun r => runBytes (if c.nanRows then nanRun c.headDim r.n else r)

/-! ### Planning, merging, and completion -/

/-- R172: the lengths of an `aplan`, from the bytes read. -/
def planLengths (c : Cmd) (bs : List Byte) : List Nat := words32 bs (c.fld 2 0 13)

/-- R173: row i merged over the partials in ascending order, from the bytes of all of them. -/
def mergedRow (c : Cmd) (bs : List Byte) (i : Nat) : AttRun :=
  let p := fun (k : Nat) => runOf c.headDim (bs.drop ((k * (c.fld 3 8 4 + 1) + i) * c.partialRow))
  normRun (c.low == 1) ((List.range (c.fld 3 0 7 - 1)).foldl (fun acc k => mergeRuns acc (p (k + 1))) (p 0))

/-- R173: the bytes of an `amerge`. -/
def mergeBytes (c : Cmd) (bs : List Byte) : List Byte := (List.range (c.fld 3 8 4 + 1)).flatMap fun i => runBytes (mergedRow c bs i)

/-- A command whose result is ready to be written: the pages of an `adec` are through, or the sources of an `aplan` or `amerge` are read. -/
def resultReady (s : State) (c : Cmd) : Bool :=
  c.group && c.stage == .running
  && (match c.code with
    | 1 => decoding s c && c.next == c.resolved.length
    | 2 | 3 => c.step == 2 && c.when_ < s.station && jobDone s c.id
    | _ => false)

/-- A command whose record is due: its result is written (R169); a `kvinv` that nothing holds up (R174); a `dmig` in the
cycle after its start (R339). Where the last `adec` that a `kvinv` waits for posts its record in the very cycle of its start, R174 gives two
cycles, and the model takes the cycle after the start (log 150, DESIGN CHOICE). -/
def recordReady (s : State) (c : Cmd) : Bool :=
  c.stage == .running
  && (if !c.group then c.code == 8 && c.start < s.station
      else match c.code with
        | 1 | 2 | 3 => c.step == 1 && c.when_ < s.station && jobDone s c.id
        | 4 => c.start < s.station && c.waits.all fun id => match s.cmd id with | some d => d.stage != .running | none => true
        | 5 => c.step == 2 && c.when_ < s.station && jobDone s c.id
        | _ => false)

/-- R82, R169: the result of a command goes to its address, and its COUNT and STATUS are known; its step is 1 until it is written. -/
def State.putResult (s : State) (c : Cmd) (a : Word) (bs : List Byte) (count status : Nat) : State :=
  ((s.dropJob c.id).setCmd { c with step := 1, when_ := s.station, count := count, status := status }).addXfers
    (runXfers s c [{ dst := some a, n := bs.length, data := bs }])

/-- The result of a command, from the bytes that it has read. -/
def State.writeResult (s : State) (c : Cmd) (bs : List Byte) : State :=
  match c.code with
  | 1 => s.putResult c (c.addr 3) (partialBytes c) (c.runs.foldl (fun n r => n + r.n) 0) (if c.t1 ≤ c.t0 then stNONE else stOK)
  | 2 =>
    let segs := planOf (planLengths c bs) (c.fld 2 16 7)
    if segs.isEmpty then s.putResult c (c.addr 1) [] 0 stNONE else s.putResult c (c.addr 1) (planBytes segs) segs.length stOK
  | _ => s.putResult c (c.addr 1) (mergeBytes c bs) (c.fld 3 0 7) stOK

/-- GROUP_COMMAND_COMPLETE: the last writes of a command begin, or its record once they are done. -/
def execGroupCommandComplete (cmd : Nat) (s : State) : Host.Outcome State Fault Refusal :=
  match s.cmd cmd with
  | some c =>
    if resultReady s c then .next (s.writeResult c ((jobXfers s cmd).flatMap (·.data)))
    else if recordReady s c then
      let p := c.poisonReason
      .next (s.finishCmd c (if c.group && c.code == 4 then c.fld 1 0 17 else c.count) p.1 c.status p.2)
    else .next s
  | none => .next s

end Sys2Proof.Machine
end

