-- ==== Sys2Proof/Machine/Scalar.lean ====
section
/-!
DEFINITION. Sys2Proof/Machine/Scalar.lean: the S slots (R253 to R259, R261). Each slotX is what the syllable does at the
issue of its bundle, each execX the syllable alone in a bundle.
-/
namespace Sys2Proof.Machine

/-- R254: a shift amount, bits 5:0 of xb. -/
def shAmt (b : Word) : Nat := b.toNat % 64
/-- R254: leading zeros of a word. -/
def clz64 (a : Word) : Nat := if a = 0 then 64 else 63 - Nat.log2 a.toNat
/-- R254: trailing zeros of a word. -/
def ctz64 (a : Word) : Nat := ((List.range 64).find? fun i => a.getLsbD i).getD 64
/-- R254: one bits of a word. -/
def popc64 (a : Word) : Nat := ((List.range 64).filter fun i => a.getLsbD i).length

/-- R254: signed and natural extremes. -/
def minS (a b : Word) : Word := if a.toInt ≤ b.toInt then a else b
def maxS (a b : Word) : Word := if a.toInt ≤ b.toInt then b else a
def minN (a b : Word) : Word := if a.toNat ≤ b.toNat then a else b
def maxN (a b : Word) : Word := if a.toNat ≤ b.toNat then b else a

/-- R257: the upper halves of the products. -/
def mulHigh (a b : Word) : Word := BitVec.ofInt 64 (a.toInt * b.toInt / 2 ^ 64)
def mulHighN (a b : Word) : Word := BitVec.ofNat 64 (a.toNat * b.toNat / 2 ^ 64)

/-- R258: quotient and remainder, signed. -/
def divS (a b : Word) : Word × Word :=
  if b = 0 then (BitVec.allOnes 64, a)
  else if a.toInt = -2 ^ 63 ∧ b.toInt = -1 then (a, 0)
  else
    let q := a.toInt.tdiv b.toInt
    (BitVec.ofInt 64 q, BitVec.ofInt 64 (a.toInt - q * b.toInt))
/-- R258: quotient and remainder, natural. -/
def divN (a b : Word) : Word × Word :=
  if b = 0 then (BitVec.allOnes 64, a)
  else (BitVec.ofNat 64 (a.toNat / b.toNat), BitVec.ofNat 64 (a.toNat % b.toNat))

/-- R256: `lih`: bits 16q + 15 to 16q replaced. -/
def insertHalf (old : Word) (imm : BitVec 16) (q : BitVec 2) : Word :=
  BitVec.ofNat 64 (mergeNat old.toNat (0xFFFF * 2 ^ (16 * q.toNat)) (imm.toNat * 2 ^ (16 * q.toNat)))

/-- R259: lanes of a vote. -/
def voteCount : VoteLanes → Nat | .l1024 => 1024 | .l512 => 512 | .l256 => 256 | .l128 => 128

/-- R120, R261: a staging write: ds and gs land at the context's next bundle, mp and rt take effect for the whole core in
the cycle after the issue cycle. -/
def stgWrite (sl : SSlot) (n : BitVec 6) (v : Word) (s : State) : SlotOut :=
  let k := n.toNat
  if k < 8 then .ok (s.sched [mkPend s.me sl.slot 1 (.ds k) (ones 64) v.toNat])
  else if k < 16 then .ok (s.sched [mkPend s.me sl.slot 1 (.gs (k - 8)) (ones 64) v.toNat])
  else if k < 24 then .ok (s.modCore s.myCore fun c => { c with stg := c.stg ++ [(false, k - 16, v)] })
  else if k < 28 then .ok (s.modCore s.myCore fun c => { c with stg := c.stg ++ [(true, k - 24, v)] })
  else .trap 0x02 0

/-- R254: `add`. -/
def slotAdd (sl : SSlot) (d a b : XNum) (s : State) : SlotOut := sWrite sl latS d (s.me.xr a + s.me.xr b) s
def execAdd (sl : SSlot) (d a b : XNum) (s : State) : Host.Outcome State Fault Refusal :=
  finishSlot sl.slot s (slotAdd sl d a b s)
/-- R254: `sub`. -/
def slotSub (sl : SSlot) (d a b : XNum) (s : State) : SlotOut := sWrite sl latS d (s.me.xr a - s.me.xr b) s
def execSub (sl : SSlot) (d a b : XNum) (s : State) : Host.Outcome State Fault Refusal :=
  finishSlot sl.slot s (slotSub sl d a b s)
/-- R254: `and`. -/
def slotAnd (sl : SSlot) (d a b : XNum) (s : State) : SlotOut := sWrite sl latS d (s.me.xr a &&& s.me.xr b) s
def execAnd (sl : SSlot) (d a b : XNum) (s : State) : Host.Outcome State Fault Refusal :=
  finishSlot sl.slot s (slotAnd sl d a b s)
/-- R254: `or`. -/
def slotOr (sl : SSlot) (d a b : XNum) (s : State) : SlotOut := sWrite sl latS d (s.me.xr a ||| s.me.xr b) s
def execOr (sl : SSlot) (d a b : XNum) (s : State) : Host.Outcome State Fault Refusal :=
  finishSlot sl.slot s (slotOr sl d a b s)
/-- R254: `xor`. -/
def slotXor (sl : SSlot) (d a b : XNum) (s : State) : SlotOut := sWrite sl latS d (s.me.xr a ^^^ s.me.xr b) s
def execXor (sl : SSlot) (d a b : XNum) (s : State) : Host.Outcome State Fault Refusal :=
  finishSlot sl.slot s (slotXor sl d a b s)
/-- R254: `shl`. -/
def slotShl (sl : SSlot) (d a b : XNum) (s : State) : SlotOut := sWrite sl latS d (s.me.xr a <<< shAmt (s.me.xr b)) s
def execShl (sl : SSlot) (d a b : XNum) (s : State) : Host.Outcome State Fault Refusal :=
  finishSlot sl.slot s (slotShl sl d a b s)
/-- R254: `shr`. -/
def slotShr (sl : SSlot) (d a b : XNum) (s : State) : SlotOut := sWrite sl latS d (s.me.xr a >>> shAmt (s.me.xr b)) s
def execShr (sl : SSlot) (d a b : XNum) (s : State) : Host.Outcome State Fault Refusal :=
  finishSlot sl.slot s (slotShr sl d a b s)
/-- R254: `sra`. -/
def slotSra (sl : SSlot) (d a b : XNum) (s : State) : SlotOut := sWrite sl latS d ((s.me.xr a).sshiftRight (shAmt (s.me.xr b))) s
def execSra (sl : SSlot) (d a b : XNum) (s : State) : Host.Outcome State Fault Refusal :=
  finishSlot sl.slot s (slotSra sl d a b s)
/-- R254: `min`. -/
def slotMin (sl : SSlot) (d a b : XNum) (s : State) : SlotOut := sWrite sl latS d (minS (s.me.xr a) (s.me.xr b)) s
def execMin (sl : SSlot) (d a b : XNum) (s : State) : Host.Outcome State Fault Refusal :=
  finishSlot sl.slot s (slotMin sl d a b s)
/-- R254: `max`. -/
def slotMax (sl : SSlot) (d a b : XNum) (s : State) : SlotOut := sWrite sl latS d (maxS (s.me.xr a) (s.me.xr b)) s
def execMax (sl : SSlot) (d a b : XNum) (s : State) : Host.Outcome State Fault Refusal :=
  finishSlot sl.slot s (slotMax sl d a b s)
/-- R254: `minn`. -/
def slotMinn (sl : SSlot) (d a b : XNum) (s : State) : SlotOut := sWrite sl latS d (minN (s.me.xr a) (s.me.xr b)) s
def execMinn (sl : SSlot) (d a b : XNum) (s : State) : Host.Outcome State Fault Refusal :=
  finishSlot sl.slot s (slotMinn sl d a b s)
/-- R254: `maxn`. -/
def slotMaxn (sl : SSlot) (d a b : XNum) (s : State) : SlotOut := sWrite sl latS d (maxN (s.me.xr a) (s.me.xr b)) s
def execMaxn (sl : SSlot) (d a b : XNum) (s : State) : Host.Outcome State Fault Refusal :=
  finishSlot sl.slot s (slotMaxn sl d a b s)
/-- R254: `mov`. -/
def slotMov (sl : SSlot) (d a : XNum) (s : State) : SlotOut := sWrite sl latS d (s.me.xr a) s
def execMov (sl : SSlot) (d a : XNum) (s : State) : Host.Outcome State Fault Refusal :=
  finishSlot sl.slot s (slotMov sl d a s)
/-- R254: `sel`. -/
def slotSel (sl : SSlot) (d a b : XNum) (c : BitVec 3) (s : State) : SlotOut := 
  sWrite sl latS d (if s.me.cr c then s.me.xr a else s.me.xr b) s
def execSel (sl : SSlot) (d a b : XNum) (c : BitVec 3) (s : State) : Host.Outcome State Fault Refusal :=
  finishSlot sl.slot s (slotSel sl d a b c s)
/-- R254: `clz`. -/
def slotClz (sl : SSlot) (d a : XNum) (s : State) : SlotOut := 
  sWrite sl latS d (BitVec.ofNat 64 (clz64 (s.me.xr a))) s
def execClz (sl : SSlot) (d a : XNum) (s : State) : Host.Outcome State Fault Refusal :=
  finishSlot sl.slot s (slotClz sl d a s)
/-- R254: `ctz`. -/
def slotCtz (sl : SSlot) (d a : XNum) (s : State) : SlotOut := 
  sWrite sl latS d (BitVec.ofNat 64 (ctz64 (s.me.xr a))) s
def execCtz (sl : SSlot) (d a : XNum) (s : State) : Host.Outcome State Fault Refusal :=
  finishSlot sl.slot s (slotCtz sl d a s)
/-- R254: `popc`. -/
def slotPopc (sl : SSlot) (d a : XNum) (s : State) : SlotOut := 
  sWrite sl latS d (BitVec.ofNat 64 (popc64 (s.me.xr a))) s
def execPopc (sl : SSlot) (d a : XNum) (s : State) : Host.Outcome State Fault Refusal :=
  finishSlot sl.slot s (slotPopc sl d a s)
/-- R257: `mul`. -/
def slotMul (sl : SSlot) (d a b : XNum) (s : State) : SlotOut := sWrite sl latMul d (s.me.xr a * s.me.xr b) s
def execMul (sl : SSlot) (d a b : XNum) (s : State) : Host.Outcome State Fault Refusal :=
  finishSlot sl.slot s (slotMul sl d a b s)
/-- R257: `mulh`. -/
def slotMulh (sl : SSlot) (d a b : XNum) (s : State) : SlotOut := sWrite sl latMul d (mulHigh (s.me.xr a) (s.me.xr b)) s
def execMulh (sl : SSlot) (d a b : XNum) (s : State) : Host.Outcome State Fault Refusal :=
  finishSlot sl.slot s (slotMulh sl d a b s)
/-- R257: `mulhn`. -/
def slotMulhn (sl : SSlot) (d a b : XNum) (s : State) : SlotOut := sWrite sl latMul d (mulHighN (s.me.xr a) (s.me.xr b)) s
def execMulhn (sl : SSlot) (d a b : XNum) (s : State) : Host.Outcome State Fault Refusal :=
  finishSlot sl.slot s (slotMulhn sl d a b s)
/-- R258: `divs`. -/
def slotDivs (sl : SSlot) (d a b : XNum) (s : State) : SlotOut := sWrite sl latDiv d (divS (s.me.xr a) (s.me.xr b)).1 s
def execDivs (sl : SSlot) (d a b : XNum) (s : State) : Host.Outcome State Fault Refusal :=
  finishSlot sl.slot s (slotDivs sl d a b s)
/-- R258: `divn`. -/
def slotDivn (sl : SSlot) (d a b : XNum) (s : State) : SlotOut := sWrite sl latDiv d (divN (s.me.xr a) (s.me.xr b)).1 s
def execDivn (sl : SSlot) (d a b : XNum) (s : State) : Host.Outcome State Fault Refusal :=
  finishSlot sl.slot s (slotDivn sl d a b s)
/-- R258: `rems`. -/
def slotRems (sl : SSlot) (d a b : XNum) (s : State) : SlotOut := sWrite sl latDiv d (divS (s.me.xr a) (s.me.xr b)).2 s
def execRems (sl : SSlot) (d a b : XNum) (s : State) : Host.Outcome State Fault Refusal :=
  finishSlot sl.slot s (slotRems sl d a b s)
/-- R258: `remn`. -/
def slotRemn (sl : SSlot) (d a b : XNum) (s : State) : SlotOut := sWrite sl latDiv d (divN (s.me.xr a) (s.me.xr b)).2 s
def execRemn (sl : SSlot) (d a b : XNum) (s : State) : Host.Outcome State Fault Refusal :=
  finishSlot sl.slot s (slotRemn sl d a b s)
/-- R255: `addi`. -/
def slotAddi (sl : SSlot) (d a : XNum) (imm : BitVec 13) (s : State) : SlotOut := 
  sWrite sl latS d (s.me.xr a + imm13 imm) s
def execAddi (sl : SSlot) (d a : XNum) (imm : BitVec 13) (s : State) : Host.Outcome State Fault Refusal :=
  finishSlot sl.slot s (slotAddi sl d a imm s)
/-- R255: `andi`. -/
def slotAndi (sl : SSlot) (d a : XNum) (imm : BitVec 13) (s : State) : SlotOut := 
  sWrite sl latS d (s.me.xr a &&& imm13 imm) s
def execAndi (sl : SSlot) (d a : XNum) (imm : BitVec 13) (s : State) : Host.Outcome State Fault Refusal :=
  finishSlot sl.slot s (slotAndi sl d a imm s)
/-- R255: `ori`. -/
def slotOri (sl : SSlot) (d a : XNum) (imm : BitVec 13) (s : State) : SlotOut := 
  sWrite sl latS d (s.me.xr a ||| imm13 imm) s
def execOri (sl : SSlot) (d a : XNum) (imm : BitVec 13) (s : State) : Host.Outcome State Fault Refusal :=
  finishSlot sl.slot s (slotOri sl d a imm s)
/-- R255: `xori`. -/
def slotXori (sl : SSlot) (d a : XNum) (imm : BitVec 13) (s : State) : SlotOut := 
  sWrite sl latS d (s.me.xr a ^^^ imm13 imm) s
def execXori (sl : SSlot) (d a : XNum) (imm : BitVec 13) (s : State) : Host.Outcome State Fault Refusal :=
  finishSlot sl.slot s (slotXori sl d a imm s)
/-- R255: `shli`. -/
def slotShli (sl : SSlot) (d a : XNum) (n : BitVec 6) (s : State) : SlotOut := 
  sWrite sl latS d (s.me.xr a <<< n.toNat) s
def execShli (sl : SSlot) (d a : XNum) (n : BitVec 6) (s : State) : Host.Outcome State Fault Refusal :=
  finishSlot sl.slot s (slotShli sl d a n s)
/-- R255: `shri`. -/
def slotShri (sl : SSlot) (d a : XNum) (n : BitVec 6) (s : State) : SlotOut := 
  sWrite sl latS d (s.me.xr a >>> n.toNat) s
def execShri (sl : SSlot) (d a : XNum) (n : BitVec 6) (s : State) : Host.Outcome State Fault Refusal :=
  finishSlot sl.slot s (slotShri sl d a n s)
/-- R255: `srai`. -/
def slotSrai (sl : SSlot) (d a : XNum) (n : BitVec 6) (s : State) : SlotOut := 
  sWrite sl latS d ((s.me.xr a).sshiftRight n.toNat) s
def execSrai (sl : SSlot) (d a : XNum) (n : BitVec 6) (s : State) : Host.Outcome State Fault Refusal :=
  finishSlot sl.slot s (slotSrai sl d a n s)
/-- R256: `li`. -/
def slotLi (sl : SSlot) (d : XNum) (imm : BitVec 19) (s : State) : SlotOut := sWrite sl latS d (imm19 imm) s
def execLi (sl : SSlot) (d : XNum) (imm : BitVec 19) (s : State) : Host.Outcome State Fault Refusal :=
  finishSlot sl.slot s (slotLi sl d imm s)
/-- R256: `lih` reads its own destination at issue. -/
def slotLih (sl : SSlot) (d : XNum) (imm : BitVec 16) (q : BitVec 2) (s : State) : SlotOut := 
  sWrite sl latS d (insertHalf (s.me.xr d) imm q) s
def execLih (sl : SSlot) (d : XNum) (imm : BitVec 16) (q : BitVec 2) (s : State) : Host.Outcome State Fault Refusal :=
  finishSlot sl.slot s (slotLih sl d imm q s)
/-- R259: `ceq`. -/
def slotCeq (sl : SSlot) (c : BitVec 3) (a b : XNum) (s : State) : SlotOut := 
  cWrite sl c (s.me.xr a == s.me.xr b) s
def execCeq (sl : SSlot) (c : BitVec 3) (a b : XNum) (s : State) : Host.Outcome State Fault Refusal :=
  finishSlot sl.slot s (slotCeq sl c a b s)
/-- R259: `cne`. -/
def slotCne (sl : SSlot) (c : BitVec 3) (a b : XNum) (s : State) : SlotOut := 
  cWrite sl c (s.me.xr a != s.me.xr b) s
def execCne (sl : SSlot) (c : BitVec 3) (a b : XNum) (s : State) : Host.Outcome State Fault Refusal :=
  finishSlot sl.slot s (slotCne sl c a b s)
/-- R259: `clt`. -/
def slotClt (sl : SSlot) (c : BitVec 3) (a b : XNum) (s : State) : SlotOut := 
  cWrite sl c (decide ((s.me.xr a).toInt < (s.me.xr b).toInt)) s
def execClt (sl : SSlot) (c : BitVec 3) (a b : XNum) (s : State) : Host.Outcome State Fault Refusal :=
  finishSlot sl.slot s (slotClt sl c a b s)
/-- R259: `cltn`. -/
def slotCltn (sl : SSlot) (c : BitVec 3) (a b : XNum) (s : State) : SlotOut := 
  cWrite sl c (decide ((s.me.xr a).toNat < (s.me.xr b).toNat)) s
def execCltn (sl : SSlot) (c : BitVec 3) (a b : XNum) (s : State) : Host.Outcome State Fault Refusal :=
  finishSlot sl.slot s (slotCltn sl c a b s)
/-- R259: `cle`. -/
def slotCle (sl : SSlot) (c : BitVec 3) (a b : XNum) (s : State) : SlotOut := 
  cWrite sl c (decide ((s.me.xr a).toInt ≤ (s.me.xr b).toInt)) s
def execCle (sl : SSlot) (c : BitVec 3) (a b : XNum) (s : State) : Host.Outcome State Fault Refusal :=
  finishSlot sl.slot s (slotCle sl c a b s)
/-- R259: `clen`. -/
def slotClen (sl : SSlot) (c : BitVec 3) (a b : XNum) (s : State) : SlotOut := 
  cWrite sl c (decide ((s.me.xr a).toNat ≤ (s.me.xr b).toNat)) s
def execClen (sl : SSlot) (c : BitVec 3) (a b : XNum) (s : State) : Host.Outcome State Fault Refusal :=
  finishSlot sl.slot s (slotClen sl c a b s)
/-- R259: `anyk`. -/
def slotAnyk (sl : SSlot) (c : BitVec 3) (k : KNum) (lanes : VoteLanes) (s : State) : SlotOut := 
  cWrite sl c ((List.range (voteCount lanes)).any fun i => (s.me.kr k).getLsbD i) s
def execAnyk (sl : SSlot) (c : BitVec 3) (k : KNum) (lanes : VoteLanes) (s : State) : Host.Outcome State Fault Refusal :=
  finishSlot sl.slot s (slotAnyk sl c k lanes s)
/-- R259: `allk`. -/
def slotAllk (sl : SSlot) (c : BitVec 3) (k : KNum) (lanes : VoteLanes) (s : State) : SlotOut := 
  cWrite sl c ((List.range (voteCount lanes)).all fun i => (s.me.kr k).getLsbD i) s
def execAllk (sl : SSlot) (c : BitVec 3) (k : KNum) (lanes : VoteLanes) (s : State) : Host.Outcome State Fault Refusal :=
  finishSlot sl.slot s (slotAllk sl c k lanes s)
/-- R261: `stg`. -/
def slotStg (sl : SSlot) (n : BitVec 6) (a : XNum) (s : State) : SlotOut := stgWrite sl n (s.me.xr a) s
def execStg (sl : SSlot) (n : BitVec 6) (a : XNum) (s : State) : Host.Outcome State Fault Refusal :=
  finishSlot sl.slot s (slotStg sl n a s)
/-- R261: `stgi`. -/
def slotStgi (sl : SSlot) (n : BitVec 6) (imm : BitVec 19) (s : State) : SlotOut := 
  stgWrite sl n (imm19 imm) s
def execStgi (sl : SSlot) (n : BitVec 6) (imm : BitVec 19) (s : State) : Host.Outcome State Fault Refusal :=
  finishSlot sl.slot s (slotStgi sl n imm s)

end Sys2Proof.Machine
end

