-- ==== Sys2Proof/Machine/Scale.lean ====
section
/-!
DEFINITION. Sys2Proof/Machine/Scale.lean: the Q slot (R329 to R331): the scale registers of the core.
-/
namespace Sys2Proof.Machine

/-- R329: a scale register's write. -/
def scPend (c : Ctx) (lat : Nat) (n : BitVec 3) (v : Nat) : Pend := mkPend c .Q lat (.sc n.toNat) (ones 4096) v

/-- R330: `qld`: 512 bytes of a NEAR stall of the own core, landing 4 bundles later. -/
def slotQld (n : BitVec 3) (a : XNum) (s : State) : SlotOut :=
  let p := s.me.xr a
  (nearStall s s.myCore s.me.dev (some 1) .own false p 512).slot fun x =>
  (poisonCheck s x p (List.range 512)).slot fun _ =>
  watched true false [(p, 512)] p s fun s =>
    .ok (s.addAccess (s.station + 1) p.toNat (.load [(x.at p, 512)] .raw [scPend s.me 4 n (ones 4096)]))
def execQld (n : BitVec 3) (a : XNum) (s : State) : Host.Outcome State Fault Refusal := finishSlot .Q s (slotQld n a s)

/-- R331: `qset`: byte i is byte i mod 8 of the register. -/
def slotQset (n : BitVec 3) (a : XNum) (s : State) : SlotOut :=
  .ok (s.sched [scPend s.me 1 n (packLanes 64 (fun _ => (s.me.xr a).toNat) 64)])
def execQset (n : BitVec 3) (a : XNum) (s : State) : Host.Outcome State Fault Refusal := finishSlot .Q s (slotQset n a s)

/-- R331: `qclr`. -/
def slotQclr (n : BitVec 3) (s : State) : SlotOut := .ok (s.sched [scPend s.me 1 n 0])
def execQclr (n : BitVec 3) (s : State) : Host.Outcome State Fault Refusal := finishSlot .Q s (slotQclr n s)

end Sys2Proof.Machine
end

