-- ==== Sys2Proof/Machine/Rent.lean ====
section
/-!
DEFINITION. Sys2Proof/Machine/Rent.lean: accounts and charges (R38 to R44), the placing of stalls (R44, R64) and the rent
operations (R50 to R56, R428, R270 to R273).
-/
namespace Sys2Proof.Machine

/-! ### Accounts and charges (R38, R40, R43) -/

/-- R43: the chargeable granule count. -/
def chargeable (len : Nat) (tolerant : Bool) : Nat := if tolerant then ceilDiv (7 * len) 8 else len
/-- R43: CG of a stall. -/
def Stall.cg (x : Stall) : Nat := chargeable x.len x.tolerant

/-- The allowance of an account of a device. -/
def Device.allow (d : Device) (acct : Nat) : Int := d.accts.get 0 acct
/-- An allowance raised by n, which saturates at 2^63 - 1 (R38). -/
def Device.credit (d : Device) (acct : Nat) (n : Int) : Device :=
  { d with accts := d.accts.set 0 acct (satS 64 (d.allow acct + n)) }
/-- An allowance lowered by n, which saturates at -2^63 (R38). -/
def Device.debit (d : Device) (acct : Nat) (n : Nat) : Device :=
  { d with accts := d.accts.set 0 acct (satS 64 (d.allow acct - n)) }
/-- R38, R43, R53: a charge that is not refused with NOFUNDS. -/
def Device.canPay (d : Device) (acct cost : Nat) : Bool :=
  decide (0 ≤ d.allow acct) && decide ((cost : Int) ≤ d.allow acct) && cost ≤ 2 ^ 62

/-- R40: at USER ring an account other than the launch's own may not be charged. -/
def acctDenied (s : State) (acct : Nat) : Bool := s.me.ring == .user && acct != s.me.acct

/-! ### Placing a stall (R35, R44, R64) -/

/-- R35: a format map that `rent` accepts. -/
def fmapOk (w : Nat) : Bool :=
  let ty := natField w 0 4
  let planes := natField w 12 4
  natField w 16 16 == 0 && natField w 4 2 == 0 && 1 ≤ ty && ty ≤ 8
  && (if ty = 8 then 1 ≤ planes && planes ≤ 3 else planes == 0)

/-- R44: the length of a stall or of a child at a level. -/
def roundLen (level len : Nat) : Nat := if level = 0 then ceilDiv len 32 * 32 else len

/-- R44: the lowest free stall id of a device. -/
def freeId (d : Device) : Option Nat :=
  ((List.range (d.stalls.length + 1)).find? fun i => (d.stall (i + 1)).id = 0).bind fun i =>
    if i + 1 ≤ 32767 then some (i + 1) else none

/-- The ranges of near storage in use: root stalls of every device, and what has not returned to its pool (R64). -/
def nearUsed (s : State) : List Range :=
  (s.devs.flatMap fun e => e.2.stalls.filterMap fun x =>
    if isNearLevel x.2.level && x.2.parent == 0 then some x.2.range else none)
  ++ (s.returning.filter fun r => isNearLevel r.level).map fun r => { lo := r.phys, hi := r.phys + 64 * r.len }

/-- R44: the lowest granule index of a level of a core at which a length fits. -/
def nearFit (s : State) (core level len : Nat) : Option Nat :=
  let base := nearBase core level
  let top := base + 64 * nearGranules level
  let used := (nearUsed s).filter fun r => base < r.hi && r.lo < top
  let fits := fun (p : Nat) => p + 64 * len ≤ top && !used.any fun r => p < r.hi && r.lo < p + 64 * len
  (((base :: used.map (·.hi)).filter fits).foldl (fun (m : Option Nat) p => match m with
    | some q => some (min p q)
    | none => some p) none).map fun p => (p - base) / 64

/-- R35: granules that a stall takes from its pool. -/
def poolNeed (len : Nat) (tolerant : Bool) : Nat := if tolerant then len - len / 8 else len

/-- R10, R41: the pool of a far level, by dies. -/
def poolOf (s : State) (level : Nat) : List Nat := if level = 3 then s.poolHbm else s.poolLoft
/-- The sum of numbers. -/
def sumNat (l : List Nat) : Nat := l.foldl (· + ·) 0
/-- R41, R64: the granules free in the pool of a far level. -/
def poolFree (s : State) (level : Nat) : Nat := sumNat (poolOf s level)
/-- The granules that each die of a pool gives towards n: the lowest die first (log 5). -/
def spread : List Nat → Nat → List Nat
  | [], _ => []
  | a :: as, n => min a n :: spread as (n - min a n)
/-- Granules given back to a pool, by dies. -/
def State.givePool (s : State) (level : Nat) (l : List Nat) : State :=
  let p := List.zipWith (· + ·) (poolOf s level) l
  if level = 3 then { s with poolHbm := p } else { s with poolLoft := p }
/-- Granules taken from a pool, by dies. -/
def State.takePool (s : State) (level : Nat) (l : List Nat) : State :=
  let p := List.zipWith (· - ·) (poolOf s level) l
  if level = 3 then { s with poolHbm := p } else { s with poolLoft := p }

/-- The die of page i among those that have been given to dies in order, so many to each. -/
def seatDie : List Nat → Nat → Nat
  | [], _ => 0
  | n :: ns, i => if i < n then 0 else seatDie ns (i - n) + 1

/-- R41, R414: where a new TIER stall of a length stands: the loft storage that it takes, and how many pages it has in the HBM of each
die. It takes loft storage, and HBM for the last pages that find none; none where HBM has no room for them (log 5). -/
def tierPlace (s : State) (len : Nat) (tolerant : Bool) : Option (List Nat × List Nat) :=
  let need := poolNeed len tolerant
  let free := sumNat s.poolLoft
  if need ≤ free then some (spread s.poolLoft need, [0, 0, 0, 0])
  else
    let page := poolNeed 1024 tolerant
    let rest := ceilDiv len 1024 - free / page
    let seats := spread (s.poolHbm.map fun n => n / 1024) rest
    if sumNat seats < rest then none else some (spread s.poolLoft (free / page * page), seats)

/-- R30: the pages of a new TIER stall, so many of the last ones in the HBM of each die. -/
def newPages (dev id len : Nat) (seats : List Nat) : List TierPage :=
  let n := ceilDiv len 1024
  let k := n - sumNat seats
  (List.range n).map fun p =>
    { dev := dev, id := id, page := p, heat := 0, hbm := k ≤ p, loft := p < k
      die := if p < k then Config.homeDie dev id p % 4 else seatDie seats (p - k) }

/-- What a `rent` asks for (R51): the device, account and core it is for, and the terms of the stall. -/
structure RentReq where
  dev      : Nat
  acct     : Nat
  core     : Nat
  level    : Nat
  len      : Nat
  ticks    : Nat
  sync     : Bool
  shared   : Bool
  tolerant : Bool
  fmap     : Nat
  deriving DecidableEq, Repr

/-- R51: the fault of a `rent`, in the order of R428. -/
def RentReq.fault (r : RentReq) : Option Nat :=
  if 6 ≤ r.level || (r.tolerant && !fmapOk r.fmap) then some 0x02
  else if r.tolerant && isNearLevel r.level then some 0x14
  else none

/-- Where a stall of a length would stand: BASE and its first physical byte; none where there is no room (R44, R51). -/
def placeFor (s : State) (r : RentReq) (len : Nat) : Option (Nat × Nat) :=
  if isNearLevel r.level then
    (nearFit s r.core r.level len).map fun g => (g, nearBase r.core r.level + 64 * g)
  else if 2 ^ 34 < len then none
  else if (if r.level = 4 then (tierPlace s len r.tolerant).isNone else poolFree s r.level < poolNeed len r.tolerant) then none
  else some (s.nextRoot % 2 ^ 29, s.nextRoot * 2 ^ 40)

/-- R51, R428: a `rent` that raises no fault: its status, the new stall's address, and the state after it. -/
def State.rent (s : State) (r : RentReq) : Nat × Word × State :=
  let d := s.dev r.dev
  let len := roundLen r.level r.len
  if r.ticks = 0 || r.len = 0 then (stNONE, 0, s)
  else match freeId d, placeFor s r len with
    | some id, some (base, phys) =>
      let rate := d.rates.get 0 r.level
      let cost := r.ticks * rate * chargeable len r.tolerant
      if !d.canPay r.acct cost then (stNOFUNDS, 0, s)
      else
        let place := if r.level = 4 then (tierPlace s len r.tolerant).getD ([], [])
          else (spread (poolOf s r.level) (poolNeed len r.tolerant), [])
        let x : Stall :=
          { base := base, len := len, paid := s.tick + r.ticks, fmap := if r.tolerant then r.fmap else 0, rate := rate
            acct := r.acct, sync := r.sync, shared := r.shared, tolerant := r.tolerant, level := r.level
            core := if isNearLevel r.level then r.core else 0, id := id, phys := phys, born := s.nextId
            split := if isNearLevel r.level then [] else place.1 }
        let t := { s with nextId := s.nextId + 1 }.setDev r.dev ((d.debit r.acct cost).setStall id x)
        let t := if isNearLevel r.level then t else { t.takePool r.level x.split with nextRoot := s.nextRoot + 1 }
        (stOK, stallAddr id 0, if r.level = 4
          then { t.takePool 3 (place.2.map fun n => 1024 * n) with tier := t.tier ++ newPages r.dev id len place.2 } else t)
    | _, _ => (stNOSPACE, 0, s)

/-! ### The operations on a stall (R50, R52 to R56) -/

/-- R50: the stall that a rent operation names. -/
def namedStall (s : State) (a : Word) : Chk Stall :=
  if !isStallAddr a then .bad 0x14 a
  else
    let x := s.stall s.me.dev (addrStall a)
    if addrStall a = 0 || x.id = 0 then .bad 0x13 a else .ok x

/-- A stall of the issuing device after a change, and its account charged. -/
def State.putStall (s : State) (x : Stall) (cost : Nat) : State :=
  s.modDev s.me.dev fun d => (d.debit x.acct cost).setStall x.id x

/-- The limit that a parent sets to PAID (R52, R53). -/
def paidLimit (d : Device) (x : Stall) (paid : Nat) : Nat := if x.parent = 0 then paid else min paid (d.stall x.parent).paid

/-- R52: `prepay` of an ACTIVE stall: status and state. -/
def State.prepay (s : State) (x : Stall) (n : Nat) : Nat × State :=
  let d := s.dev s.me.dev
  let new := paidLimit d x (x.paid + n)
  let cost := (new - x.paid) * x.rate * x.cg
  if n = 0 then (stOK, s)
  else if new ≤ x.paid then (stCLIPPED, s)
  else if !d.canPay x.acct cost then (stNOFUNDS, s)
  else (if new < x.paid + n then stCLIPPED else stOK, s.putStall { x with paid := new } cost)

/-- R53: `renew`: status and state. -/
def State.renew (s : State) (x : Stall) (n : Nat) : Nat × State :=
  let d := s.dev s.me.dev
  let t := s.tick
  let new := paidLimit d x (t + n)
  let st := if new < t + n then stCLIPPED else stOK
  let cost := (new - x.paid) * x.rate * x.cg
  if x.parent ≠ 0 && (d.stall x.parent).st != .active then (stCLIPPED, s)
  else if new ≤ t && x.st != .active then (stCLIPPED, s)
  else if new ≤ x.paid then (st, s)
  else if !d.canPay x.acct cost then (stNOFUNDS, s)
  else (st, s.putStall { x with paid := new, st := .active, vac := false } cost)

/-- R54: `vacate` of a stall of a device: status and state. -/
def State.vacate (s : State) (dev : Nat) (x : Stall) : Nat × State :=
  if x.children ≠ 0 then (stNONE, s)
  else if x.st == .active then
    (stOK, s.modDev dev fun d =>
      (d.credit x.acct ((x.paid - s.tick - 1) * x.rate * x.cg : Nat)).setStall x.id { x with paid := s.tick, vac := true })
  else (stOK, s.setStall dev x.id { x with vac := true })

/-- R55: `sublet` of a parent that passes its checks: status, the child's address and the state. -/
def State.sublet (s : State) (x : Stall) (off len n acct : Nat) : Nat × Word × State :=
  let d := s.dev s.me.dev
  if n = 0 || len = 0 then (stNONE, 0, s)
  else match freeId d with
    | none => (stNOSPACE, 0, s)
    | some id =>
      let paid := min (s.tick + n) x.paid
      let cost := (paid - s.tick) * x.rate * chargeable len x.tolerant
      if 255 ≤ x.children then (stNOSPACE, 0, s)
      else if !d.canPay acct cost then (stNOFUNDS, 0, s)
      else
        let y : Stall :=
          { x with base := if isNearLevel x.level then x.base + off else x.base, len := len, paid := paid, parent := x.id
                   liens := 0, acct := acct, children := 0, vac := false, id := id, phys := x.phys + 64 * off, born := s.nextId
                   split := [] }
        (if paid < s.tick + n then stCLIPPED else stOK, stallAddr id 0,
          { s with nextId := s.nextId + 1 }.setDev s.me.dev (((d.debit acct cost).setStall x.id { x with children := x.children + 1 }).setStall id y))

/-- R56: what `rentq` returns for an address. -/
def rentqOf (s : State) (a : Word) : Word × Word :=
  let id := if isStallAddr a then addrStall a else 0
  let x := s.stall s.me.dev id
  if id = 0 || x.id = 0 then (BitVec.ofNat 64 (3 * 2 ^ 30 + id), 0)
  else (BitVec.ofNat 64 x.bits, BitVec.ofNat 64 x.paid)

/-! ### The Y slot (R270 to R273) -/

/-- R242, R270: an operand of n registers. -/
def groupOk (x : XNum) (n : Nat) : Bool := x.toNat % n == 0

/-- R270: register xn + i of an operand. -/
def operandX (s : State) (x : XNum) (i : Nat) : Word := s.me.xr (x + BitVec.ofNat 6 i)

/-- R270: values returned to xn, xn + 1 and so on, at latency 1. -/
def State.returnX (s : State) (x : XNum) (i : Nat) (v : Word) : State := s.wrX .Y 1 (x.toNat + i) v

/-- R271: the terms of a `rent`. -/
def rentReq (s : State) (x : XNum) : RentReq :=
  let w := (operandX s x 0).toNat
  { dev := s.me.dev, acct := s.me.acct, core := s.myCore, level := natField w 0 3, len := (operandX s x 1).toNat
    ticks := natField (operandX s x 2).toNat 0 32, sync := bitAt w 3, shared := bitAt w 4, tolerant := bitAt w 5
    fmap := natField w 32 32 }

/-- R271: `rent`. -/
def slotRent (x : XNum) (s : State) : SlotOut :=
  if !groupOk x 4 then .trap 0x02 0
  else
    let r := rentReq s x
    match r.fault with
    | some code => .trap code 0
    | none =>
      let o := s.rent r
      .ok ((o.2.2.returnX x 0 o.2.1).returnX x 1 (BitVec.ofNat 64 o.1))
def execRent (x : XNum) (s : State) : Host.Outcome State Fault Refusal := finishSlot .Y s (slotRent x s)

/-- R272: `prepay`. -/
def slotPrepay (x : XNum) (s : State) : SlotOut :=
  if !groupOk x 2 then .trap 0x02 0
  else
    let a := operandX s x 0
    (namedStall s a).slot fun y =>
      if acctDenied s y.acct then .trap 0x04 0
      else if y.st != .active then .trap 0x10 a
      else
        let o := s.prepay y (natField (operandX s x 1).toNat 0 32)
        .ok (o.2.returnX x 1 (BitVec.ofNat 64 o.1))
def execPrepay (x : XNum) (s : State) : Host.Outcome State Fault Refusal := finishSlot .Y s (slotPrepay x s)

/-- R272: `renew`. -/
def slotRenew (x : XNum) (s : State) : SlotOut :=
  if !groupOk x 2 then .trap 0x02 0
  else
    let a := operandX s x 0
    (namedStall s a).slot fun y =>
      if acctDenied s y.acct then .trap 0x04 0
      else
        let o := s.renew y (natField (operandX s x 1).toNat 0 32)
        .ok (o.2.returnX x 1 (BitVec.ofNat 64 o.1))
def execRenew (x : XNum) (s : State) : Host.Outcome State Fault Refusal := finishSlot .Y s (slotRenew x s)

/-- R272: `vacate`. -/
def slotVacate (x : XNum) (s : State) : SlotOut :=
  let a := operandX s x 0
  (namedStall s a).slot fun y =>
    if acctDenied s y.acct then .trap 0x04 0
    else let o := s.vacate s.me.dev y; .ok (o.2.returnX x 0 (BitVec.ofNat 64 o.1))
def execVacate (x : XNum) (s : State) : Host.Outcome State Fault Refusal := finishSlot .Y s (slotVacate x s)

/-- R272: `rentq`. -/
def slotRentq (x : XNum) (s : State) : SlotOut :=
  if !groupOk x 2 then .trap 0x02 0
  else
    let o := rentqOf s (operandX s x 0)
    .ok ((s.returnX x 0 o.1).returnX x 1 o.2)
def execRentq (x : XNum) (s : State) : Host.Outcome State Fault Refusal := finishSlot .Y s (slotRentq x s)

/-- R273: `sublet`. -/
def slotSublet (x : XNum) (s : State) : SlotOut :=
  if !groupOk x 4 then .trap 0x02 0
  else
    let a := operandX s x 0
    let off := (operandX s x 1).toNat
    let acct := natField (operandX s x 3).toNat 32 8
    (namedStall s a).slot fun y =>
      let len := roundLen y.level (operandX s x 2).toNat
      if acctDenied s acct then .trap 0x04 0
      else if (y.level == 0 && off % 32 != 0) || y.len < off + len then .trap 0x13 a
      else if y.st != .active then .trap 0x10 a
      else
        let o := s.sublet y off len (natField (operandX s x 3).toNat 0 32) acct
        .ok ((o.2.2.returnX x 0 o.2.1).returnX x 1 (BitVec.ofNat 64 o.1))
def execSublet (x : XNum) (s : State) : Host.Outcome State Fault Refusal := finishSlot .Y s (slotSublet x s)

end Sys2Proof.Machine
end

