-- ==== Sys2Proof/Machine/Jcb.lean ====
section
/-!
DEFINITION. Sys2Proof/Machine/Jcb.lean: job-control blocks (R278, R279): their bytes and checks, the fire, and the launches
that a fire releases (R376, R377); and what a releasing operation waits for (R276, R358).
-/
namespace Sys2Proof.Machine

/-! ### The block (R278) -/

/-- The bytes of a JCB as the operations of this cycle see them: those before in this cycle have left theirs (R279). -/
def jcbWord (s : State) (phys : Nat) : Nat :=
  let mine := s.accesses.filterMap fun a => if a.agent == 6 then (match a.op with | .store cs false => some (0, cs) | _ => none) else none
  bytesToNat ((List.range 64).map fun i => overlay mine (phys + i) (s.mem.read (phys + i)))

/-- R278: the fields of a block; STATE 3 reads as idle. -/
def jcbExpected (w : Nat) : Nat := natField w 0 32
def jcbDone (w : Nat) : Nat := natField w 32 32
def jcbState (w : Nat) : Nat := if natField w 64 2 = 3 then 0 else natField w 64 2
def jcbMapped (w key : Nat) : Bool := bitAt w (256 + key)
/-- Bits lo to lo + n - 1 of a block replaced. -/
def jcbSet (w lo n v : Nat) : Nat := mergeNat w (ones n * 2 ^ lo) (v % 2 ^ n * 2 ^ lo)

/-- R279: the address checks of a JCB operation of a device. -/
def jcbStall (s : State) (dev : Nat) (a : Word) : Chk Stall :=
  if !isStallAddr a then .bad 0x14 a
  else
    let x := (s.view dev).stall (addrStall a)
    if addrStall a = 0 || x.id = 0 || 64 * x.len < addrOffset a + 64 || addrOffset a % 64 ≠ 0 then .bad 0x13 a
    else if x.level ≠ 1 || !x.sync then .bad 0x14 a
    else if !x.live s.tick then .bad 0x10 a
    else .ok x

/-- R87, R279: the block of an operation that passes the checks of R279; a poisoned one takes cause 0x32 after them (log 10). -/
def jcbOpen (s : State) (dev : Nat) (a : Word) : Chk Stall :=
  (jcbStall s dev a).bind fun x => (poisonCheck s x a (List.range 64)).bind fun _ => .ok x

/-- The bytes of a block that differ from what stood there. -/
def jcbCells (phys old new : Nat) : List Host.Cell :=
  (placeBytes phys (natToBytes 64 new)).filter fun c => (natToBytes 64 old).getD (c.1 - phys) 0 != c.2

/-- R84, R279: the system unit's write of a block, in this cycle. -/
def State.jcbWrite (s : State) (key phys : Nat) (cells : List Host.Cell) : State :=
  s.agentStore key 6 phys (.store cells false)

/-! ### Launches released (R376, R377) -/

/-- R376: a launch's dependences: every nonzero DEP names a JCB that is fired. -/
def depsFired (s : State) (l : Launch) : Bool :=
  l.record.deps.all fun a => a == 0 || (match jcbStall s l.dev a with
    | .ok x => jcbState (jcbWord s (x.at a)) == 2
    | .bad _ _ => false)

/-- R375: a record with a level of FABRIC domain. -/
def LaunchRec.fabric (r : LaunchRec) : Bool := r.levels.any fun l => l.domain == 5

/-- R375: the members of a launch's group other than this package. -/
def otherMembers (s : State) (l : Launch) : List Nat :=
  match groupOf s l.dev l.record.group with
  | some (_, ms) => ms.filter (· != s.pkgid)
  | none => []

/-- R375: a launch over several packages that becomes eligible on its home is copied to the other members, with DEP0, DEP1
and DONEJ cleared; its name among the packages is the home and its number there. -/
def State.sendCopies (s : State) (l : Launch) : State :=
  if !l.record.fabric || l.gang ≠ 0 then s.setLaunch l
  else
    let g := s.pkgid * 2 ^ 32 + l.id
    { s.setLaunch { l with gang := g } with
      outbox := s.outbox ++ (otherMembers s l).map fun d => OutMsg.copy d g l.dev (s.dev l.dev).fabdom { l.record with deps := [0, 0], donej := 0 } }

/-- R377: a launch becomes eligible in this cycle; class 0 a `launch`, 1 a JCB release, 2 a wake, 3 the table. -/
def State.makeEligible (s : State) (cls : Nat) (l : Launch) : State :=
  { s with nextId := s.nextId + 1 }.sendCopies
    { l with stage := .eligible, order := (s.station * 4 + cls) * 2 ^ 40 + s.nextId }

/-- R279, R376: the launches whose last dependence has fired are released. -/
def State.releaseLaunches (s : State) : State :=
  s.launches.foldl (fun t e => match e.2 with
    | some l => if l.stage == .waiting && depsFired s l then t.makeEligible 1 l else t
    | none => t) s

/-! ### The fire (R279) -/

/-- R279: the record of a fire. -/
def fireRecord (a : Word) (start done key : Nat) : Record := mkRecord a start 0 done 0 4 1 rsOK stOK key

/-- JCB_FIRE (R279): the block becomes fired, its record goes into the reservation of the `jinit` that armed it, and the
launches that wait for it are released. The records of a cycle's fires reach the queues after its bundles. -/
def State.jcbFire (s : State) (key : Nat) (a : Word) (phys old w : Nat) : State :=
  let s := s.jcbWrite key phys (jcbCells phys old (jcbSet w 64 2 2))
  let s := match s.armed.find? fun e => e.1 == phys with
    | some (_, o) =>
      { s with armed := s.armed.filter fun e => e.1 != phys }.handRecord 0 o (fireRecord a s.station (jcbDone w) o.key)
    | none => s
  s.releaseLaunches

/-- The reservation held for a block given back without a record (R279). -/
def State.disarm (s : State) (phys : Nat) : State :=
  match s.armed.find? fun e => e.1 == phys with
  | some (_, o) => { s with armed := s.armed.filter fun e => e.1 != phys }.unreserve o
  | none => s

/-- R279: one `jdone` by a context: it counts, and at the expected count the block fires. -/
def State.jcbDoneBy (s : State) (key : Nat) (a : Word) (phys w : Nat) : State :=
  let v := jcbSet (jcbSet w (256 + key) 1 1) 32 32 (jcbDone w + 1)
  if jcbDone v = jcbExpected v then s.jcbFire key a phys w v
  else s.jcbWrite key phys (jcbCells phys w v)

/-- R279: `jdone` may count. -/
def jcbCounts (w : Nat) : Bool := jcbState w == 1 && jcbDone w != jcbExpected w

/-! ### Waiting for earlier writes (R276, R358) -/

/-- The accesses of a context issued before this cycle that have not performed by its end. -/
def lateAccesses (s : State) (key : Nat) : List Access :=
  s.accesses.filter fun a => a.key == key && a.agent == 0 && a.born < s.station && s.station < a.due

/-- R276: a buffered store of the context waits for a tick boundary; those in the buffer commit at a boundary. -/
def bufferedLeft (s : State) (key : Nat) : Bool :=
  (!(s.ctx key).sbuf.isEmpty)
  || s.accesses.any fun a => a.key == key && a.agent == 0 && a.born < s.station && (match a.op with | .store _ b => b | _ => false)

/-- A plain store. -/
def AccOp.isStore : AccOp → Bool | .store .. => true | _ => false

/-- R358: what a release waits for. -/
def releaseHold (s : State) (key : Nat) : Option HoldWhy :=
  if bufferedLeft s key then some .commit
  else if (lateAccesses s key).any fun a => a.op.isStore then some .queue
  else none

/-- A command of a context that was accepted before this cycle and has not posted its record. -/
def cmdsLeft (s : State) (key : Nat) : Bool :=
  let c := s.ctx key
  s.cmds.any fun e => match e.2 with
    | some d => d.own.key == key && d.own.launch == c.launch && d.accepted < s.station && d.stage != .posted
    | none => false

/-- R276: what a fence waits for. -/
def fenceHold (s : State) (key : Nat) (scope : FenceScope) (kind : FenceKind) : Option HoldWhy :=
  if kind == .acq then none
  else if bufferedLeft s key then some .commit
  else if !(lateAccesses s key).isEmpty then some .queue
  else if (scope == .pkg || scope == .sys) && cmdsLeft s key then some .queue
  else none

/-! ### The Y slot (R276 to R279) -/

/-- A hold where there is a reason, else the effect. -/
def holdFor (h : Option HoldWhy) (f : SlotOut) : SlotOut := match h with | some w => .hold w | none => f

/-- R276: `fence`. -/
def slotFence (scope : FenceScope) (kind : FenceKind) (s : State) : SlotOut := holdFor (fenceHold s s.cur scope kind) (.ok s)
def execFence (scope : FenceScope) (kind : FenceKind) (s : State) : Host.Outcome State Fault Refusal :=
  finishSlot .Y s (slotFence scope kind s)

/-- R277: `realign`: the boundary that ends it comes after the cycle in which the bundle first came up to issue. -/
def slotRealign (s : State) : SlotOut :=
  let since := match s.me.hold with | some h => h.since | none => s.station
  if since / 1024 < s.tick then .ok s else .hold .realign
def execRealign (s : State) : Host.Outcome State Fault Refusal := finishSlot .Y s (slotRealign s)

/-- R279: `jinit`. -/
def slotJinit (x : XNum) (s : State) : SlotOut :=
  if !groupOk x 2 then .trap 0x02 0
  else
    let a := operandX s x 0
    (jcbOpen s s.me.dev a).slot fun y =>
      let p := y.at a
      let w := jcbWord s p
      if jcbState w = 1 then .trap 0x31 a
      else if !s.me.evRoom then .hold .queue
      else
        let n := natField (operandX s x 1).toNat 0 32
        let v := n + 2 ^ 64 + s.myCore * 2 ^ 74 + s.cur % 4 * 2 ^ 80
        let s := ((s.scan p 64).disarm p).modCtx s.cur Ctx.reserve
        let s := { s with armed := s.armed ++ [(p, s.owner)] }
        let s := s.jcbWrite s.cur p (placeBytes p (natToBytes 64 v))
        .ok (if n = 0 then s.jcbFire s.cur a p v v else s)
def execJinit (x : XNum) (s : State) : Host.Outcome State Fault Refusal := finishSlot .Y s (slotJinit x s)

/-- R279: `jadd`. -/
def slotJadd (x : XNum) (s : State) : SlotOut :=
  if !groupOk x 2 then .trap 0x02 0
  else
    let a := operandX s x 0
    (jcbOpen s s.me.dev a).slot fun y =>
      let p := y.at a
      let w := jcbWord s p
      let n := jcbExpected w + natField (operandX s x 1).toNat 0 32
      if jcbState w ≠ 1 || jcbMapped w s.cur || 2 ^ 32 ≤ n then .trap 0x31 a
      else .ok ((s.scan p 64).jcbWrite s.cur p (jcbCells p w (jcbSet w 0 32 n)))
def execJadd (x : XNum) (s : State) : Host.Outcome State Fault Refusal := finishSlot .Y s (slotJadd x s)

/-- R138, R279, R358: `jdone`. Each cycle of its hold tests STATE and DONE again. -/
def slotJdone (x : XNum) (s : State) : SlotOut :=
  let a := operandX s x 0
  (jcbOpen s s.me.dev a).slot fun y =>
    let w := jcbWord s (y.at a)
    if jcbCounts w then holdFor (releaseHold s s.cur) (.ok ((s.scan (y.at a) 64).jcbDoneBy s.cur a (y.at a) w)) else .trap 0x31 a
def execJdone (x : XNum) (s : State) : Host.Outcome State Fault Refusal := finishSlot .Y s (slotJdone x s)

/-- R279: `jwait` reads STATE in its place among the operations of its cycle; one that has held commits in the cycle after the
fire. -/
def slotJwait (x : XNum) (s : State) : SlotOut :=
  let a := operandX s x 0
  (jcbOpen s s.me.dev a).slot fun y =>
    let before := bytesToNat (s.mem.readN (y.at a) 64)
    match jcbState (jcbWord s (y.at a)) with
    | 0 => .trap 0x31 a
    | 1 => .hold .job
    | _ => if s.me.hold.isSome && jcbState before == 1 then .hold .job else .ok (s.scan (y.at a) 64)
def execJwait (x : XNum) (s : State) : Host.Outcome State Fault Refusal := finishSlot .Y s (slotJwait x s)

end Sys2Proof.Machine
end

