-- ==== Sys2Proof/Machine/Launch.lean ====
section
/-!
DEFINITION. Sys2Proof/Machine/Launch.lean: launch records and kernel images (R365 to R367), how a hierarchy maps onto cores
(R368, R369), the device queue (R376, R377, R280) and wakes (R281, R380, R381).
-/
namespace Sys2Proof.Machine

/-! ### The record (R365) -/

/-- Word i of a record's bytes. -/
def recWord (bs : List Byte) (i : Nat) : Nat := bytesToNat ((bs.drop (8 * i)).take 8)

/-- R365: stall entry i. -/
def recEntry (bs : List Byte) (i : Nat) : StallEntry :=
  let a := recWord bs (21 + 2 * i)
  let b := recWord bs (22 + 2 * i)
  { ticks := natField a 40 24, tolerant := bitAt a 39, shared := bitAt a 38, sync := bitAt a 37, level := natField a 34 3
    len := natField a 0 34, fmap := natField b 32 32, data := natField b 0 32 }

/-- R365: level word i. -/
def recLevel (bs : List Byte) (i : Nat) : LevelWord :=
  let w := recWord bs (3 + i)
  { extent := natField w 32 32, scope := natField w 8 3, domain := natField w 0 3 }

/-- R365, R367: a reserved field of the parts that are read is nonzero. -/
def recReserved (bs : List Byte) : Bool :=
  let c := recWord bs 1
  natField c 24 4 != 0 || natField c 8 8 != 0 || natField c 5 2 != 0 || natField c 1 2 != 0 || recWord bs 31 != 0
  || (List.range (min 8 (natField c 16 4))).any fun i =>
      natField (recWord bs (3 + i)) 11 21 != 0 || natField (recWord bs (3 + i)) 3 5 != 0

/-- R365: a record from its 256 bytes. -/
def parseRecord (bs : List Byte) : LaunchRec :=
  let c := recWord bs 1
  { kimg := BitVec.ofNat 64 (recWord bs 0), mode := bitAt c 0, prio := natField c 3 2, snap := bitAt c 7
    nlev := natField c 16 4, nstall := natField c 20 4, paddock := natField c 28 4, waitlim := natField c 32 8
    acct := natField c 40 8, group := natField c 48 16, resv := recReserved bs, donej := BitVec.ofNat 64 (recWord bs 2)
    levels := (List.range (min 8 (natField c 16 4))).map (recLevel bs)
    args := (List.range 8).map fun i => BitVec.ofNat 64 (recWord bs (11 + i))
    deps := [BitVec.ofNat 64 (recWord bs 19), BitVec.ofNat 64 (recWord bs 20)]
    entries := (List.range (min 5 (natField c 20 4))).map (recEntry bs) }

/-! ### The kernel image (R366) -/

/-- R366: the header of an image: the code's offset and length, the dictionary's offset and entries, the microcode's offset
and micro-ops, and the routine table's offset. -/
structure ImageHdr where
  code    : Nat
  codeLen : Nat
  dict    : Nat
  dictN   : Nat
  micro   : Nat
  microN  : Nat
  table   : Nat
  deriving DecidableEq, Repr

/-- R366: a header from its 64 bytes. -/
def parseImage (bs : List Byte) : ImageHdr :=
  let f := fun (o n : Nat) => bytesToNat ((bs.drop o).take n)
  { code := f 0 4, codeLen := f 4 4, dict := f 8 4, dictN := f 12 2, micro := f 16 4, microN := f 20 2, table := f 24 4 }

/-- R366: a header within its limits, in an image of a size in bytes. -/
def imageOk (bs : List Byte) (size : Nat) : Bool :=
  let h := parseImage bs
  let zero := fun (o n : Nat) => ((bs.drop o).take n).all (· == 0)
  2 ≤ h.codeLen && h.codeLen ≤ 262144 && h.codeLen % 2 == 0 && h.dictN ≤ 2048 && h.microN ≤ 1024
  && zero 14 2 && zero 22 2 && zero 28 36
  && h.code + h.codeLen ≤ size && h.dict + 48 * h.dictN ≤ size && h.micro + 8 * h.microN ≤ size
  && (h.table == 0 || h.table + 128 ≤ size)

/-! ### Availability and units (R368, R369) -/

/-- The cores of a paddock, in R11 order. -/
def paddockCores (s : State) (p : Nat) : List Nat := (List.range 64).filter fun c => s.paddocks.get 0 c == p

/-- The unit of a domain that a core lies in: 1 CORE, 2 QUAD, 3 DIE; one unit above. -/
def unitIn (d core : Nat) : Nat := if d ≤ 1 then core else if d = 2 then core / 4 else if d = 3 then core / 16 else 0

/-- R368: the levels of a domain, outermost first. -/
def LaunchRec.dom (r : LaunchRec) (d : Nat) : List LevelWord := r.levels.filter fun l => l.domain == d
/-- R368: Q_D. -/
def LaunchRec.prodQ (r : LaunchRec) (d : Nat) : Nat := (r.dom d).foldl (fun n l => n * l.extent) 1
/-- The SCOPE of a domain's levels. -/
def LaunchRec.scopeOf (r : LaunchRec) (d : Nat) : Nat := match r.dom d with | l :: _ => l.scope | [] => 4

/-- R369: the units of a domain from CORE to DIE wholly in a list of cores. -/
def wholeUnits (d : Nat) (cores : List Nat) : List Nat :=
  (List.range 64).filter fun u =>
    let mine := (List.range 64).filter fun c => unitIn d c == u
    !mine.isEmpty && mine.all fun c => cores.contains c

/-- The first core of a unit. -/
def unitFirst (d u : Nat) : Nat := if d ≤ 1 then u else if d = 2 then 4 * u else 16 * u

/-- The least number of a list, 0 for none. -/
def leastNat : List Nat → Nat
  | [] => 0
  | [n] => n
  | n :: l => min n (leastNat l)

/-- R369: n_D of CORE, QUAD or DIE: the least number of units of D over the units of SCOPE that hold any. -/
def countUnits (d scope : Nat) (cores : List Nat) : Nat :=
  let us := wholeUnits d cores
  leastNat (((List.range 64).map fun v => (us.filter fun u => unitIn scope (unitFirst d u) == v).length).filter (· != 0))

/-- R369: n_D. -/
def unitsOf (s : State) (dev : Nat) (r : LaunchRec) (d : Nat) : Nat :=
  if d = 0 then (if r.mode then 4 else 1)
  else if d ≤ 3 then countUnits d (r.scopeOf d) (paddockCores s r.paddock)
  else if d = 4 then 1
  else match groupOf s dev r.group with | some (_, ms) => ms.length | none => 0

/-- R369: the units of a domain with levels that one wave uses. -/
def waveUnits (s : State) (dev : Nat) (r : LaunchRec) (d : Nat) : Nat := min (r.prodQ d) (unitsOf s dev r d)

/-- R368: W_D. -/
def waveRadix (s : State) (dev : Nat) (r : LaunchRec) (d : Nat) : Nat :=
  if (r.dom d).isEmpty then 1 else ceilDiv (r.prodQ d) (unitsOf s dev r d)

/-- R368: the number of waves. -/
def waveCount (s : State) (dev : Nat) (r : LaunchRec) : Nat := (List.range 6).foldl (fun n d => n * waveRadix s dev r d) 1

/-- R369: the first m candidates that can hold their share, numbered from 0. -/
def firstFits (m : Nat) (f : Nat → Option (List (Nat × Nat × Nat × Nat))) : List Nat → List (List (Nat × Nat × Nat × Nat)) →
    Option (List (List (Nat × Nat × Nat × Nat)))
  | [], acc => if m ≤ acc.length then some acc else none
  | u :: us, acc =>
    if m ≤ acc.length then some acc
    else match f u with
      | some l => firstFits m f us (acc ++ [l])
      | none => firstFits m f us acc

/-- R369: the cores of a region for one unit above them: (core, DIE, QUAD, CORE unit) with the upper units still 0. -/
def placeCores (s : State) (dev : Nat) (r : LaunchRec) (free region : List Nat) : Option (List (Nat × Nat × Nat × Nat)) :=
  let m := if (r.dom 1).isEmpty then 1 else waveUnits s dev r 1
  let cs := (region.filter fun c => free.contains c).take m
  if m = 0 || cs.length < m then none else some ((List.range m).map fun i => (cs.getD i 0, 0, 0, i))

/-- The SCOPE of the highest domain with levels below a domain confines it to one unit of the domain (R365). -/
def confined (r : LaunchRec) (d : Nat) : Bool :=
  match (List.range d).reverse.find? fun e => !(r.dom e).isEmpty with
  | some e => r.scopeOf e ≤ d
  | none => true

/-- R369: the units of QUAD (d = 2) or DIE (d = 3) in a region, wholly free ones where the domain has levels, each filled by f;
`tag` writes the unit's number. -/
def placeUnits (s : State) (dev : Nat) (r : LaunchRec) (d : Nat) (free region : List Nat)
    (tag : Nat → Nat × Nat × Nat × Nat → Nat × Nat × Nat × Nat) (f : List Nat → Option (List (Nat × Nat × Nat × Nat))) :
    Option (List (Nat × Nat × Nat × Nat)) :=
  let part := fun (u : Nat) => region.filter fun c => unitIn d c == u
  if !(r.dom d).isEmpty then
    let m := waveUnits s dev r d
    if m = 0 then none
    else (firstFits m (fun u => f (part u)) (wholeUnits d (region.filter fun c => free.contains c)) []).map fun ls =>
      (List.range ls.length).flatMap fun i => (ls.getD i []).map (tag i)
  else if confined r d then
    (firstFits 1 (fun u => f (part u)) (List.range 64) []).map fun ls => (ls.getD 0 []).map (tag 0)
  else f region

/-- R369: the cores of one wave among those of the paddock that are free; none where they do not suffice. -/
def placeWave (s : State) (dev : Nat) (r : LaunchRec) (free : List Nat) : Option (List (Nat × Nat × Nat × Nat)) :=
  placeUnits s dev r 3 free (paddockCores s r.paddock) (fun i u => (u.1, i, u.2.2.1, u.2.2.2)) fun die =>
    placeUnits s dev r 2 free die (fun i u => (u.1, u.2.1, i, u.2.2.2)) fun quad => placeCores s dev r free quad

/-- R368: the digits of a number over a list of radices, outermost first. -/
def mixedDigits : List Nat → Nat → List Nat
  | [], _ => []
  | _ :: rs, q => q / rs.foldl (fun a b => a * b) 1 :: mixedDigits rs (q % rs.foldl (fun a b => a * b) 1)

/-- R368: wdig_D of a wave. -/
def waveDigit (s : State) (dev : Nat) (r : LaunchRec) (wave d : Nat) : Nat :=
  wave / (List.range d).foldl (fun n e => n * waveRadix s dev r e) 1 % waveRadix s dev r d

/-- R368: the indices of the leaf with a unit in each domain (CTX, CORE, QUAD, DIE, PKG, FABRIC), in a wave; none where there
is no such leaf. -/
def leafIndices (s : State) (dev : Nat) (r : LaunchRec) (wave : Nat) (units : List Nat) : Option (List Nat) :=
  let q := fun (d : Nat) => waveDigit s dev r wave d * unitsOf s dev r d + units.getD d 0
  if (List.range 6).all fun d => (r.dom d).isEmpty || q d < r.prodQ d then
    some ((List.range r.levels.length).map fun l =>
      let d := (r.levels.getD l { extent := 1, scope := 0, domain := 0 }).domain
      let before := ((r.levels.take l).filter fun e => e.domain == d).length
      (mixedDigits ((r.dom d).map (·.extent)) (q d)).getD before 0)
  else none

/-- R375: this package's unit of FABRIC. -/
def fabricUnit (s : State) (dev : Nat) (r : LaunchRec) : Nat :=
  if r.fabric then (groupRank s dev r.group).getD 0 else 0

/-- R368, R370: the leaves of a wave on given cores, by context key. -/
def leavesOf (s : State) (dev : Nat) (r : LaunchRec) (wave : Nat) (units : List (Nat × Nat × Nat × Nat)) :
    List (Nat × List Nat) :=
  units.flatMap fun u => (List.range (if (r.dom 0).isEmpty then 1 else waveUnits s dev r 0)).filterMap fun x =>
    (leafIndices s dev r wave [x, u.2.2.2, u.2.2.1, u.2.1, 0, fabricUnit s dev r]).map fun is => (4 * u.1 + x, is)

/-! ### Refusal (R367, R375) -/

/-- R367: the stall entry of a record is within R35 and R41, and its initial contents lie in the image. -/
def entryOk (size : Nat) (e : StallEntry) : Bool :=
  e.level < 6 && (!e.tolerant || (fmapOk e.fmap && !isNearLevel e.level)) && (e.data == 0 || e.data + 64 * e.len ≤ size)

/-- R367: the levels of a record. -/
def levelsOk (r : LaunchRec) : Bool :=
  1 ≤ r.nlev && r.nlev ≤ 8
  && r.levels.all (fun l => l.extent != 0 && l.domain < 6 && l.domain ≤ l.scope && (l.scope ≤ 4 || (l.domain == 5 && l.scope == 5)))
  && (List.zip r.levels (r.levels.drop 1)).all (fun p => p.2.domain ≤ p.1.domain)
  && (List.range 6).all fun d => (r.dom d).all fun l => l.scope == r.scopeOf d

/-- R367, R375: a record that is not refused by a device. -/
def recordOk (s : State) (dev : Nat) (r : LaunchRec) : Bool :=
  let x := (s.dev dev).stall (addrStall r.kimg)
  !r.resv && r.nstall ≤ 5 && levelsOk r
  && isStallAddr r.kimg && addrOffset r.kimg == 0 && x.id != 0 && x.live s.tick && imageOk (s.mem.readN x.phys 64) (64 * x.len)
  && r.entries.all (entryOk (64 * x.len))
  && r.deps.all (fun a => a == 0 || (match jcbStall s dev a with | .ok _ => true | .bad _ _ => false))
  && (!r.fabric || (groupRank s dev r.group).isSome)
  && (placeWave s dev r (paddockCores s r.paddock)).isSome

/-! ### The device queue (R280, R367, R376, R377) -/

/-- R374, R375: the last leaf of the launch's last wave here has halted. -/
def Launch.shareOver (l : Launch) : Bool := l.endAt.isSome && l.waves ≤ l.wave + 1
/-- R374, R375: the launch has ended, and what follows its end is still to come; one over several packages ends on its home when every
other member has reported. -/
def isOver (s : State) (l : Launch) : Bool :=
  l.shareOver && (l.gang == 0 || l.gang / 2 ^ 32 != s.pkgid
    || (match groupOf s l.dev l.record.group with | some (_, ms) => ms.all fun m => m == s.pkgid || l.gone.contains m | none => true))

/-- The launches of a device that have not ended. -/
def deviceLaunches (s : State) (dev : Nat) : List Launch :=
  s.launches.filterMap fun e => match e.2 with | some l => if l.dev == dev && !isOver s l then some l else none | none => none

/-- A record posted to an owner's queue where there is room. -/
def State.postFree (s : State) (o : Owner) (r : Record) : State :=
  if (s.ownerCtx o).alive && (s.ownerCtx o).evRoom then (s.modOwner o Ctx.reserve).postRecord o r else s

/-- R367: a report of a launch: to the context that issued it, or to the driver ring of the device. -/
def State.report (s : State) (dev : Nat) (dest : Option Owner) (a : Word) (cmd reason status : Nat) : State :=
  match dest with
  | some o => s.postFree o (mkRecord a s.station 0 0 0 6 cmd reason status o.key)
  | none => s.drvRecord dev (mkRecord a s.station 0 0 0 6 cmd reason status 0)

/-- R375: what a member tells the home of a launch: 0 its share of the wave is placed and loaded, 1 its share has ended, 2 it
refused or could not enqueue the copy, 16 + STATUS its rents failed. -/
def State.tellHome (s : State) (gang cause : Nat) : State :=
  { s with outbox := s.outbox ++ [OutMsg.report (gang / 2 ^ 32) gang cause] }

/-- Where a record to be enqueued comes from: its device, address, reporter, class of R377, table entry, and the name of a
launch over several packages of which it is a copy. -/
structure Source where
  dev      : Nat
  addr     : Word
  reporter : Option Owner := none
  cls      : Nat
  slot     : Option Nat := none
  gang     : Nat := 0
  deriving DecidableEq, Repr

/-- R376: the new launch of a record. -/
def State.addLaunch (s : State) (src : Source) (r : LaunchRec) : State :=
  let l : Launch :=
    { id := s.nextId, dev := src.dev, record := r, recAddr := src.addr, reporter := src.reporter, waves := waveCount s src.dev r
      gang := src.gang, slot := src.slot }
  let s := { s with nextId := s.nextId + 1 }
  if depsFired s l then s.makeEligible src.cls l else s.setLaunch l

/-- R280, R367, R376: a record read and enqueued; a refused one is reported. While a device is not enabled its wakes and `launch`
commits are ignored (R403), and a member that is not enabled refuses its copy (R375). -/
def State.enqueue (s : State) (src : Source) (r : LaunchRec) : State :=
  let full := 512 ≤ (deviceLaunches s src.dev).length
  if src.gang ≠ 0 && !(s.dev src.dev).en then s.tellHome src.gang 2
  else if src.gang ≠ 0 then (if full || !recordOk s src.dev r then s.tellHome src.gang 2 else s.addLaunch src r)
  else if full then s.report src.dev src.reporter src.addr 1 rsOK stNOSPACE
  else if !recordOk s src.dev r then s.report src.dev src.reporter src.addr 1 rsBADPARAM stOK
  else s.addLaunch src r

/-! ### `launch` (R280, R358) -/

/-- The bytes of a record in near storage as the issuing context's earlier stores leave them: those that perform or commit
in this cycle are among them (R350, R358). -/
def recordBytes (s : State) (p : Nat) : List Byte :=
  let mine := s.accesses.filterMap fun a =>
    if a.key == s.cur && a.agent == 0 && a.born < s.station && a.due ≤ s.station then
      (match a.op with | .store cs _ => some (a.id, cs) | _ => none) else none
  let bs := s.readAs s.cur [(p, 256)]
  (List.range 256).map fun i => overlay mine (p + i) (bs.getD i 0)

/-- R280: the commit of a `launch` whose record passed its checks. -/
def State.commitLaunch (s : State) (x : XNum) (a : Word) (r : LaunchRec) : State :=
  if !(s.dev s.me.dev).en then
    { s with freeCtr := s.freeCtr + 1 }.returnX x 0 (Config.freeWord s.freeCtr)
  else if 512 ≤ (deviceLaunches s s.me.dev).length then s.returnX x 0 (BitVec.ofNat 64 stNOSPACE)
  else (s.enqueue { dev := s.me.dev, addr := a, reporter := some s.owner, cls := 0 } r).returnX x 0 (BitVec.ofNat 64 stOK)

/-- R280: `launch`. -/
def slotLaunch (x : XNum) (s : State) : SlotOut :=
  let a := operandX s x 0
  (nearStall s s.myCore s.me.dev (some 1) .own (!alignedTo a 256) a 256).slot fun y =>
  (poisonCheck s y a (List.range 256)).slot fun _ =>
    holdFor (releaseHold s s.cur)
      (let r := parseRecord (recordBytes s (y.at a))
       if acctDenied s r.acct then .trap 0x04 0 else .ok ((s.scan (y.at a) 256).commitLaunch x a r))
def execLaunch (x : XNum) (s : State) : Host.Outcome State Fault Refusal := finishSlot .Y s (slotLaunch x s)

/-! ### Wakes (R281, R380, R381) -/

/-- R47, R63: the record at an index of a device's submission ring; zeros outside its stall, or where that may not be read. -/
def ringRecord (s : State) (dev i : Nat) : Word × List Byte :=
  let d := s.dev dev
  let a := d.subring + BitVec.ofNat 64 (256 * i)
  let x := d.stall (addrStall d.subring)
  (a, if isStallAddr d.subring && x.id != 0 && x.live s.tick && addrOffset d.subring + 256 * i + 256 ≤ 64 * x.len
      then s.mem.readN (x.at a) 256 else List.replicate 256 0)

/-- R380: the records from the ring's head up to a tail are enqueued; fuel bounds their number. -/
def State.serveRing : Nat → State → Nat → Nat → State
  | 0, s, _, _ => s
  | f + 1, s, dev, tail =>
    let d := s.dev dev
    if d.subHead = tail then s
    else
      let r := ringRecord s dev d.subHead
      let s := s.setDev dev { d with subHead := (d.subHead + 1) % (d.subSize + 1) }
      State.serveRing f (s.enqueue { dev := dev, addr := r.1, cls := 2 } (parseRecord r.2)) dev tail

/-- R380: a wake served. -/
def State.serveWake (s : State) (dev tail : Nat) : State := State.serveRing 4096 s dev (tail % ((s.dev dev).subSize + 1))

/-- R381: a write of WAKE: served where a token is there, else kept. A device that is not enabled ignores it (R403). -/
def State.wakeWrite (s : State) (dev tail : Nat) : State :=
  let d := s.dev dev
  if !d.en then s
  else if 0 < d.tokens then (s.setDev dev { d with tokens := d.tokens - 1 }).serveWake dev tail
  else s.setDev dev { d with wakeTail := tail, wakeAgain := true }

/-- R281: `wake`. -/
def slotWake (x : XNum) (s : State) : SlotOut := .ok (s.wakeWrite s.me.dev (natField (operandX s x 0).toNat 0 32))
def execWake (x : XNum) (s : State) : Host.Outcome State Fault Refusal := finishSlot .Y s (slotWake x s)

/-- HOST_WAKE (R380, R381). -/
def execHostWake (dev tail : Nat) (s : State) : Host.Outcome State Fault Refusal := .next (s.wakeWrite dev (tail % 2 ^ 32))

/-- WAKE_REFILL (R381): at a boundary the bucket is refilled, and a wake that waited takes a token. -/
def execWakeRefill (s : State) : Host.Outcome State Fault Refusal :=
  let dev := s.cur
  let d := s.dev dev
  let d := { d with tokens := min d.burst (d.tokens + d.rate) }
  if d.wakeAgain && 0 < d.tokens && d.en then
    .next ((s.setDev dev { d with tokens := d.tokens - 1, wakeAgain := false }).serveWake dev d.wakeTail)
  else .next (s.setDev dev d)

end Sys2Proof.Machine
end

