-- ==== Sys2Proof/Machine/Tack.lean ====
section
/-!
DEFINITION. Sys2Proof/Machine/Tack.lean: the tack room (R186 to R195, R282): acceptance, the snapshot ring and its choices,
the start and the completion of commands, locks, and the image of a `tsnap`.
-/
namespace Sys2Proof.Machine

/-! ### Slots and rings (R186, R188) -/

/-- R186: the binding of a slot of core n as a device sees it. -/
def slotOf (s : State) (n dev i : Nat) : Option TSlot :=
  match (s.core n).tack.slots.get none i with
  | some b => if b.dev = dev then some b else none
  | none => none

/-- R188: SB of a binding. -/
def slotBytes (s : State) (b : TSlot) : Nat := 64 * (s.stall b.dev b.stall).len

/-- The physical address of a stall address of a device. -/
def physOf (s : State) (dev : Nat) (a : Word) : Nat := (s.stall dev (addrStall a)).at a

/-- R188: a directory entry. -/
structure DirEntry where
  key    : Nat
  seqid  : Nat
  layer  : Nat
  estate : Nat
  deriving DecidableEq, Repr

/-- R188: entry e of the ring of a binding. -/
def dirEntry (s : State) (b : TSlot) (e : Nat) : DirEntry :=
  let w := bytesToNat (s.mem.readN (physOf s b.dev b.ring + 64 * e) 16)
  { key := natField w 0 64, seqid := natField w 64 32, layer := natField w 96 16, estate := natField w 112 8 }

/-- R188: the bytes of an entry that is complete. -/
def entryBytes (b : TSlot) (key done : Nat) : List Byte :=
  natToBytes 64 (key + b.seqid * 2 ^ 64 + b.layer * 2 ^ 96 + 2 * 2 ^ 112 + done % 2 ^ 64 * 2 ^ 128)

/-- The address of an entry, of its ESTATE, and of its data. -/
def entryAddr (b : TSlot) (e : Nat) : Word := b.ring + BitVec.ofNat 64 (64 * e)
def estateAddr (b : TSlot) (e : Nat) : Word := b.ring + BitVec.ofNat 64 (64 * e + 14)
def dataAddr (s : State) (b : TSlot) (e : Nat) : Word := b.ring + BitVec.ofNat 64 (512 + e * slotBytes s b)

/-- R191: the entry that a `troll` chooses under a bound: the greatest KEY, and the lowest-numbered entry that has it. -/
def chooseEntry (s : State) (b : TSlot) (bound : Nat) : Option Nat :=
  (List.range 8).foldl (fun (m : Option Nat) e =>
    let d := dirEntry s b e
    if d.estate = 2 && d.key ≤ bound && d.seqid == b.seqid && d.layer == b.layer then
      (match m with
        | some f => if (dirEntry s b f).key < d.key then some e else some f
        | none => some e)
    else m) none

/-- The complete entries of a ring with a KEY that satisfies p. -/
def completeWhere (s : State) (b : TSlot) (p : Nat → Bool) : List Nat :=
  (List.range 8).filter fun e => (dirEntry s b e).estate == 2 && p (dirEntry s b e).key

/-- R190: the entry that a `tsnap` writes, once the entries of its key and above are dropped. -/
def snapEntry (s : State) (b : TSlot) (key : Nat) : Nat :=
  let stays := completeWhere s b fun k => k < key
  match (List.range 8).find? fun e => !stays.contains e with
  | some e => e
  | none => (List.range 8).foldl (fun m e => if (dirEntry s b e).key < (dirEntry s b m).key then e else m) 0

/-! ### The start (R187, R189 to R192) -/

/-- R189: the STATE stall named by a register. -/
def stateNamed (s : State) (n dev : Nat) (a : Word) : Except (Nat × Word) Stall :=
  let x := (s.view dev).stall (addrStall a)
  if !isStallAddr a then .error (rsWRONGLEVEL, a)
  else if addrStall a = 0 || x.id = 0 then .error (rsOUTSIDE, a)
  else if x.level ≠ 2 || x.core ≠ n then .error (rsWRONGLEVEL, a)
  else if !x.live s.tick then .error (rsEXPIRED, a)
  else .ok x

/-- R186, R189: the stall of a ring of a size in bytes. -/
def ringNamed (s : State) (dev : Nat) (a : Word) (size : Nat) : Except (Nat × Word) Stall :=
  let x := (s.view dev).stall (addrStall a)
  if !isStallAddr a then .error (rsWRONGLEVEL, a)
  else if addrStall a = 0 || x.id = 0 || 64 * x.len ≤ addrOffset a then .error (rsOUTSIDE, a)
  else if isNearLevel x.level then .error (rsWRONGLEVEL, a)
  else if 64 * x.len < addrOffset a + size then .error (rsOUTSIDE, a)
  else if !x.live s.tick then .error (rsEXPIRED, a)
  else .ok x

/-- R47, R187: the ring of a bound slot, or its STATE stall too. -/
def boundCheck (s : State) (n : Nat) (b : TSlot) : Except (Nat × Word) (List Nat) :=
  match stateNamed s n b.dev (stallAddr b.stall 0), ringNamed s b.dev b.ring 0 with
  | .error e, _ => .error e
  | _, .error e => .error e
  | .ok x, .ok y => .ok [x.id, y.id]

/-- Bits of a register of a command. -/
def TCmd.fld (c : TCmd) (i lo n : Nat) : Nat := natField (c.regs.getD i 0).toNat lo n
/-- R189: the slot of a command. -/
def TCmd.slot (c : TCmd) : Nat := c.fld 0 0 8
/-- R189: the binding that a `tbind` or `tfork` makes. -/
def TCmd.binding (c : TCmd) : TSlot :=
  { dev := c.own.dev, stall := addrStall (c.regs.getD 1 0), ring := c.regs.getD 2 0, seqid := c.fld 3 0 32, layer := c.fld 3 32 16 }
/-- R189: a `tbind` that unbinds. -/
def TCmd.unbinds (c : TCmd) : Bool := c.code == 1 && c.regs.getD 1 0 == 0
/-- R188: its ring is not granule-aligned. -/
def TCmd.ringBad (c : TCmd) : Bool := (c.code == 1 || c.code == 4) && !c.unbinds && c.fld 2 0 6 != 0

/-- R189, R192: the stalls of a new binding. -/
def newStalls (s : State) (n : Nat) (c : TCmd) : Except (Nat × Word) (List Nat) :=
  match stateNamed s n c.own.dev (c.regs.getD 1 0) with
  | .error e => .error e
  | .ok x =>
    match ringNamed s c.own.dev (c.regs.getD 2 0) (512 + 8 * (64 * x.len)) with
    | .error e => .error e
    | .ok y => .ok [x.id, y.id]

/-- R192: the source slot's ring, in the place of the first register. -/
def forkSource (s : State) (n : Nat) (c : TCmd) : Except (Nat × Word) (List Nat) :=
  match slotOf s n c.own.dev (c.fld 0 8 8) with
  | none => .ok []
  | some b => match ringNamed s b.dev b.ring 0 with
    | .error e => .error e
    | .ok y => .ok [y.id]

/-- R187: the stalls on which a command that starts places liens, or its failure; an unbound slot needs none. -/
def tackStalls (s : State) (n : Nat) (c : TCmd) : Except (Nat × Word) (List Nat) :=
  if c.ringBad then .error (rsBADPARAM, 0)
  else if c.unbinds then .ok []
  else if c.code = 1 then newStalls s n c
  else if c.code = 4 then
    match forkSource s n c with
    | .error e => .error e
    | .ok src => match newStalls s n c with
      | .error e => .error e
      | .ok ids => .ok (src ++ ids)
  else match slotOf s n c.own.dev c.slot with
    | some b => boundCheck s n b
    | none => .ok []

/-- Bytes written at addresses of a device, with the numbers of their poisoned granules. -/
abbrev TWrites := List (Word × List Byte × List Nat)

/-- R190: the image of a stall as it stands. -/
def stallImage (s : State) (dev i : Nat) : List Byte × List Nat :=
  let x := s.stall dev i
  (s.mem.readN x.phys (64 * x.len), badGranules s x.phys (64 * x.len))

/-- R36: a command with the image that it copies, read from an address. -/
def TCmd.withImage (c : TCmd) (img : List Byte × List Nat) (src : Word) : TCmd :=
  { c with image := img.1, imgBad := img.2, bad := img.2.head?.map fun g => BitVec.ofNat 64 ((src.toNat + 64 * g) / 64 * 64) }

/-- R190: the start of a `tsnap` on a binding. -/
def snapBegin (s : State) (c : TCmd) (b : TSlot) : TCmd × TWrites :=
  let key := c.fld 1 0 64
  let e := snapEntry s b key
  let img := match c.images.find? fun i => i.1 == b.stall with
    | some i => i.2
    | none => stallImage s b.dev b.stall
  ({ c.withImage img (stallAddr b.stall 0) with entry := some e, count := slotBytes s b, addr := c.regs.getD 1 0 },
    (completeWhere s b fun k => key ≤ k).map (fun f => (estateAddr b f, [0], [])) ++ [(estateAddr b e, [1], [])])

/-- The image that a ring holds in an entry. -/
def ringImage (s : State) (b : TSlot) (e size : Nat) : List Byte × List Nat :=
  let p := physOf s b.dev (dataAddr s b e)
  (s.mem.readN p size, badGranules s p size)

/-- R191: the start of a `troll` on a binding. -/
def rollBegin (s : State) (c : TCmd) (b : TSlot) : TCmd × TWrites :=
  match chooseEntry s b (c.fld 1 0 64) with
  | none => ({ c with status := stNONE }, [])
  | some e =>
    let key := (dirEntry s b e).key
    ({ c.withImage (ringImage s b e (slotBytes s b)) (dataAddr s b e) with
        entry := some e, count := slotBytes s b, addr := BitVec.ofNat 64 key },
      (completeWhere s b fun k => key < k).map fun f => (estateAddr b f, [0], []))

/-- R192: the start of a `tfork`. -/
def forkBegin (s : State) (n : Nat) (c : TCmd) : TCmd :=
  match slotOf s n c.own.dev (c.fld 0 8 8) with
  | none => { c with status := stNONE }
  | some b =>
    match chooseEntry s b (c.fld 0 16 48) with
    | none => { c with status := stNONE }
    | some e =>
      let size := min (slotBytes s b) (slotBytes s c.binding)
      { c.withImage (ringImage s b e size) (dataAddr s b e) with
          entry := some e, count := size, addr := BitVec.ofNat 64 (dirEntry s b e).key }

/-- The command as it starts, with what it writes at once. -/
def tackBegin (s : State) (n : Nat) (c : TCmd) : TCmd × TWrites :=
  if c.code = 1 then (c, [])
  else if c.code = 4 then (forkBegin s n c, [])
  else match slotOf s n c.own.dev c.slot with
    | none => ({ c with status := stNONE }, [])
    | some b => if c.code = 2 then snapBegin s c b else rollBegin s c b

/-! ### The end (R189 to R192) -/

/-- What a command does as it completes: a binding made or undone, and bytes of the ring and of the slot. -/
structure TEffect where
  bind : Option (Option TSlot) := none
  far  : TWrites := []
  near : TWrites := []
  deriving DecidableEq, Repr

/-- R189: ESTATE = 0 in all eight entries. -/
def clearRing (b : TSlot) : TWrites := (List.range 8).map fun e => (estateAddr b e, [0], [])

/-- R190: n bytes of a command's image from a place on, for an address that stands for its first byte. -/
def TCmd.piece (c : TCmd) (a : Word) (off n : Nat) : Word × List Byte × List Nat :=
  (a + BitVec.ofNat 64 off, (c.image.drop off).take n,
    (c.imgBad.filter fun g => off ≤ 64 * g && 64 * g < off + n).map fun g => g - off / 64)

/-- R189 to R192: what a command that has started does as it completes. -/
def tackDone (s : State) (n : Nat) (c : TCmd) : TEffect :=
  match c.code with
  | 1 =>
    if c.unbinds then { bind := some none }
    else { bind := some (some c.binding), far := if c.fld 0 8 1 = 1 then clearRing c.binding else [] }
  | 2 =>
    match slotOf s n c.own.dev c.slot, c.entry with
    | some b, some e =>
      { far := [c.piece (dataAddr s b e) c.done (c.image.length - c.done), (entryAddr b e, entryBytes b (c.fld 1 0 64) s.station, [])] }
    | _, _ => {}
  | 3 => { near := match slotOf s n c.own.dev c.slot, c.entry with | some b, some _ => [(stallAddr b.stall 0, c.image, c.imgBad)] | _, _ => [] }
  | _ =>
    { bind := some (some c.binding), far := clearRing c.binding
      near := if c.entry.isSome then [(stallAddr c.binding.stall 0, c.image, c.imgBad)] else [] }

/-- The binding part of an effect. A `tbind` of 0 on a slot that another device has bound, which to it counts as unbound (R186), removes
that binding: the spec does not say (log 149, DESIGN CHOICE). -/
def State.bindSlot (s : State) (n i : Nat) (b : Option (Option TSlot)) : State :=
  match b with
  | some v => s.modCore n fun k => { k with tack := { k.tack with slots := k.tack.slots.set none i v } }
  | none => s

/-- R36: bytes stored from a physical address, some granules of them poisoned. -/
def State.storeMarked (s : State) (p : Nat) (bs : List Byte) (bad : List Nat) : State :=
  let t := s.storeCells (placeBytes p bs)
  { t with poison := t.poison ++ (bad.map fun g => p / 64 + g).filter fun g => !t.poison.contains g }

/-- R28, R29, R364: writes of a command of core n to a ring, foreign writes of KIND 4, by packets that perform within the step (log 129). -/
def State.ringWrites (s : State) (n dev : Nat) (ws : TWrites) : State :=
  ws.foldl (fun s w =>
    let p := physOf s dev w.1
    let t := ((s.seePages n dev p w.2.1.length).catchUp n p w.2.1.length).takePackets dev p w.2.1.length
    (t.storeMarked p w.2.1 w.2.2).foreignWrite dev w.1 w.2.1.length 4) s

/-- R84: writes of a slot, by agent 4 of the core. -/
def State.slotWrites (s : State) (o : Owner) (ws : TWrites) : State :=
  ws.foldl (fun s w =>
    let p := physOf s o.dev w.1
    (s.agentStore o.key 4 w.1.toNat (.engine (placeBytes p w.2.1) (w.2.2.map fun g => p / 64 + g))).foreignWrite o.dev w.1 w.2.1.length 4) s

/-- Writes taken as done in memory. -/
def State.reckonWrites (s : State) (dev : Nat) (ws : TWrites) : State :=
  ws.foldl (fun s w => s.storeMarked (physOf s dev w.1) w.2.1 w.2.2) s

/-- R190: the state as a command leaves it when it is taken as complete. -/
def State.reckon (s : State) (n : Nat) (c : TCmd) : State :=
  let go := fun (s : State) (c : TCmd) =>
    let e := tackDone s n c
    (s.reckonWrites c.own.dev (e.far ++ e.near)).bindSlot n c.slot e.bind
  if c.start ≠ 0 then go s c
  else match tackStalls s n c with
    | .error _ => s
    | .ok _ =>
      let b := tackBegin s n c
      go (s.reckonWrites c.own.dev b.2) b.1

/-- The commands of core n accepted and not posted, in their order. -/
def tackPending (s : State) (n : Nat) : List TCmd := (s.core n).tack.running.toList ++ (s.core n).tack.queue

/-- R190: the STATE stalls that a slot may be bound to once the commands before are done. -/
def snapStalls (s : State) (n dev i : Nat) (before : List TCmd) : List Nat :=
  (match slotOf s n dev i with | some b => [b.stall] | none => [])
  ++ before.filterMap fun c => if (c.code == 1 || c.code == 4) && !c.unbinds && c.slot == i then some c.binding.stall else none

/-- R190: what a `tsnap` accepted in this cycle captures at its end, of each stall that its slot may be bound to. What the commands before it
will write there is put in as they complete. -/
def snapImages (s : State) (n : Nat) (c : TCmd) : List (Nat × List Byte × List Nat) :=
  (snapStalls s n c.own.dev c.slot ((tackPending s n).filter fun d => d.id < c.id)).map fun i => (i, stallImage s c.own.dev i)

/-- R190: an image over which n bytes, some of their granules poisoned, are written from its first byte on. -/
def overImage (bs : List Byte) (bad : List Nat) (img : List Byte × List Nat) : List Byte × List Nat :=
  ((bs ++ img.1.drop bs.length).take img.1.length, bad ++ img.2.filter fun g => bs.length < 64 * g + 64)

/-- R190: a `tsnap` that waits, with what a command accepted before it leaves in a slot of the device. -/
def TCmd.seeWrite (dev : Nat) (w : Word × List Byte × List Nat) (c : TCmd) : TCmd :=
  if c.code != 2 || c.own.dev != dev then c
  else { c with images := c.images.map fun i => if i.1 == addrStall w.1 then (i.1, overImage w.2.1 w.2.2 i.2) else i }

/-- R190: the `tsnap`s that wait on core n, with what a command accepted before them leaves. -/
def State.seeWrites (s : State) (n dev : Nat) (ws : TWrites) : State :=
  s.modCore n fun k => { k with tack := { k.tack with queue := k.tack.queue.map fun c => ws.foldl (fun c w => c.seeWrite dev w) c } }

/-- The near bytes that the captures of core n at the end of this cycle read. -/
def captureReads (s : State) (n : Nat) : List (Nat × Nat) :=
  ((s.core n).tack.queue.filter fun c => c.code == 2 && c.accepted == s.station).flatMap fun c =>
    (snapStalls s n c.own.dev c.slot ((tackPending s n).filter fun d => d.id < c.id)).map fun i =>
      let x := s.stall c.own.dev i
      (x.phys, 64 * x.len)

/-- R190: the images of the `tsnap`s of core n accepted in this cycle are captured, at its end. -/
def State.captureImages (s : State) (n : Nat) : State :=
  if (s.core n).tack.queue.any fun c => c.code == 2 && c.accepted == s.station then
    let s := s.scanAll (captureReads s n)
    s.modCore n fun k => { k with tack := { k.tack with queue := k.tack.queue.map fun (c : TCmd) =>
      if c.code == 2 && c.accepted == s.station then { c with images := snapImages s n c } else c } }
  else s

/-! ### Acceptance and locks (R187, R193, R194, R282) -/

/-- R193: the stall bound to a slot of a device. -/
def boundStall (s : State) (n dev i : Nat) : List Nat := match slotOf s n dev i with | some b => [b.stall] | none => []

/-- R193: the stall that a `tfork` binds, or that a `troll` will find bound once the commands accepted before it are done. -/
def actsOn (s : State) (n : Nat) (c : TCmd) : List Nat :=
  if c.code = 4 then (if isStallAddr (c.regs.getD 1 0) then [c.binding.stall] else [])
  else boundStall (((tackPending s n).filter fun d => d.id < c.id).foldl (fun t d => t.reckon n d) s) n c.own.dev c.slot

/-- R193: the lock of a `troll` or `tfork` at its acceptance. -/
def newLock (s : State) (n : Nat) (c : TCmd) : TLock :=
  let first := boundStall s n c.own.dev c.slot
  { cmd := c.id, own := c.own, first := first, stalls := first ++ actsOn s n c }

/-- R193: the locks of the `troll`s of core n that still wait, after a command before them has failed. -/
def State.relock (s : State) (n : Nat) : State :=
  let again := fun (q : List TCmd) (l : TLock) => match q.find? (fun c => c.id == l.cmd) with
    | some c => { l with stalls := l.first ++ actsOn s n c }
    | none => l
  s.modCore n fun k => { k with tack := { k.tack with locks := k.tack.locks.map (again k.tack.queue) } }

/-- R194: a context of a core that has a pre-emption request, in a launch with SNAP, stops at its next `tsnap`; a shed waits for none
(R397). -/
def snapWaits (s : State) : Bool :=
  (s.core s.myCore).pre.isSome && s.shed == .running && (match s.launch s.me.launch with | some l => l.record.snap | none => false)

/-- R187, R282: a tack-room command accepted, or its bundle held. A running command fills no entry of the queue of four: the spec does
not say (log 146, DESIGN CHOICE). -/
def acceptTack (code : Nat) (x : XNum) (n : Nat) (s : State) : SlotOut :=
  if !groupOk x n then .trap 0x02 0
  else if 4 ≤ (s.core s.myCore).tack.queue.length || !s.me.evRoom then .hold .queue
  else
    let c : TCmd := { id := s.nextId, code := code, own := s.owner, accepted := s.station, regs := (List.range n).map (operandX s x)
                      stops := code = 2 && snapWaits s && !s.me.snapped }
    let lock : List TLock := if 3 ≤ code then [newLock s s.myCore c] else []
    let s := ({ s with nextId := s.nextId + 1 }.modCtx s.cur Ctx.reserve).modCore s.myCore fun k =>
      { k with tack := { k.tack with queue := k.tack.queue ++ [c], locks := k.tack.locks ++ lock } }
    .ok (if code = 2 && snapWaits s then s.modCtx s.cur fun c => { c with snapped := true } else s)

/-- R189: `tbind`. -/
def slotTbind (x : XNum) (s : State) : SlotOut := acceptTack 1 x 4 s
def execTbind (x : XNum) (s : State) : Host.Outcome State Fault Refusal := finishSlot .Y s (slotTbind x s)
/-- R190: `tsnap`. -/
def slotTsnap (x : XNum) (s : State) : SlotOut := acceptTack 2 x 2 s
def execTsnap (x : XNum) (s : State) : Host.Outcome State Fault Refusal := finishSlot .Y s (slotTsnap x s)
/-- R191: `troll`. -/
def slotTroll (x : XNum) (s : State) : SlotOut := acceptTack 3 x 2 s
def execTroll (x : XNum) (s : State) : Host.Outcome State Fault Refusal := finishSlot .Y s (slotTroll x s)
/-- R192: `tfork`. -/
def slotTfork (x : XNum) (s : State) : SlotOut := acceptTack 4 x 4 s
def execTfork (x : XNum) (s : State) : Host.Outcome State Fault Refusal := finishSlot .Y s (slotTfork x s)

/-! ### The steps (R187) -/

/-- R187: a command's record, and the end of its reservation; a lock learns which record ends it. -/
def State.postTack (s : State) (n : Nat) (c : TCmd) (reason status count : Nat) (addr : Word) : State :=
  let r := mkRecord addr c.start 0 count 0 3 c.code reason status c.own.key
  ((s.release c.own.dev c.liens).postRecord c.own r).modCore n fun k =>
    { k with tack := { k.tack with posted := s.station + 1
                                   locks := k.tack.locks.map fun (l : TLock) => if l.cmd == c.id then { l with record := some r } else l } }

/-- R194, R392: a context stops before its next bundle. In a launch with SNAP it goes on to its next `tsnap` or to the wait
limit; a shed waits for neither (R397). -/
def ctxStops (s : State) (key : Nat) : Bool :=
  let c := s.ctx key
  (s.core (keyCore key)).halted.isSome || ((s.core (keyCore key)).stopping && (match s.launch c.launch with
    | some l => s.shed != .running || !l.record.snap || c.snapped
    | none => true))

/-- R194: a `tsnap` at which a context has stopped for pre-emption waits in core n's queue: it completes before the halt, and what stands
before it in the queue does so first. -/
def snapOwed (s : State) (n : Nat) : Bool := (s.core n).halted.isNone && (s.core n).tack.queue.any (·.stops)

/-- R32: a page of a stall is being moved. -/
def stallMoving (s : State) (dev id : Nat) : Bool :=
  let x := s.stall dev id
  (List.range 4).any fun die => moveTouches s die x.phys (64 * x.len)

/-- R32, R187, R194, R355: the head of core n's queue can start in this cycle, which is not one in which a record is posted. A page of its
stalls that is being moved is waited for. -/
def tackReady (s : State) (n : Nat) : Option TCmd :=
  let t := (s.core n).tack
  match t.running, t.queue with
  | none, c :: _ =>
    let ids := match tackStalls s n c with | .ok ids => ids | .error _ => []
    if c.accepted < s.station && t.posted ≤ s.station && (!ctxStops s c.own.key || snapOwed s n)
      && earlierDone s c.own c.id (ids.map fun i => (s.stall c.own.dev i).range) && lienRoom (s.dev c.own.dev) ids
      && !ids.any (stallMoving s c.own.dev)
    then some c else none
  | _, _ => none

/-- R193: the rows that a `troll` locks are those of the stall bound as it starts, and of the one bound at its acceptance. -/
def TLock.atStart (s : State) (n : Nat) (c : TCmd) (l : TLock) : TLock :=
  if c.code != 3 || l.cmd != c.id then l else { l with stalls := l.first ++ boundStall s n c.own.dev c.slot }

/-- R191, R192: the slot whose ring a command reads. -/
def ringRead (s : State) (n : Nat) (c : TCmd) : Option TSlot :=
  if c.code = 1 then none else slotOf s n c.own.dev (if c.code = 4 then c.fld 0 8 8 else c.slot)

/-- R24, R28 to R30, R34: n far bytes are read by a core within one step: their descriptor and translations are made, and their packets
perform within the step (log 129). -/
def State.farRead (s : State) (n dev p len : Nat) : State := (((s.seePages n dev p len).catchUp n p len).takePackets dev p len).scan p len

/-- R190 to R192: a command that starts reads the directory of its ring, and the entry that it chooses. -/
def State.tackRead (s : State) (n : Nat) (c : TCmd) : State :=
  match ringRead s n c with
  | none => s
  | some b =>
    let s := s.farRead n b.dev (physOf s b.dev b.ring) 512
    if c.code = 2 then s
    else match chooseEntry s b (if c.code = 4 then c.fld 0 16 48 else c.fld 1 0 64) with
      | none => s
      | some e => s.farRead n b.dev (physOf s b.dev (dataAddr s b e)) (slotBytes s b)

/-- TACK_COMMAND_START. -/
def execTackCommandStart (s : State) : Host.Outcome State Fault Refusal :=
  let core := s.myCore
  match tackReady s core with
  | none => .next s
  | some c =>
    let t := s.modCore core fun k => { k with tack := { k.tack with queue := k.tack.queue.drop 1 } }
    let c : TCmd := { c with start := s.station }
    match tackStalls s core c with
    | .error (reason, a) => .next (((t.postTack core c reason stOK 0 a).modCore core fun k =>
        { k with tack := { k.tack with locks := k.tack.locks.map (TLock.atStart s core c) } }).relock core)
    | .ok ids =>
      let t := t.tackRead core c
      let b := tackBegin t core c
      let c : TCmd := { b.1 with liens := ids }
      .next (((t.placeLiens c.own.dev ids).ringWrites core c.own.dev b.2).modCore core fun k =>
        { k with tack := { k.tack with running := some c, locks := k.tack.locks.map (TLock.atStart s core c) } })

/-- R187: the running command of core n may complete. -/
def tackMayEnd (s : State) (n : Nat) : Option TCmd :=
  match (s.core n).tack.running with
  | some c => if c.start < s.station then some c else none
  | none => none

/-- R190: the 4-KiB block that a running `tsnap` copies next, while another follows it. -/
def snapBlock (s : State) (n : Nat) (c : TCmd) : Option (Word × List Byte × List Nat) :=
  match c.code, slotOf s n c.own.dev c.slot, c.entry with
  | 2, some b, some e => if c.done + 4096 < c.image.length then some (c.piece (dataAddr s b e) c.done 4096) else none
  | _, _, _ => none

/-- TACK_COMMAND_COMPLETE: the next block of a `tsnap`'s image (R190), or the last writes of the command, and its record. -/
def execTackCommandComplete (s : State) : Host.Outcome State Fault Refusal :=
  let core := s.myCore
  match tackMayEnd s core with
  | none => .next s
  | some c =>
    match snapBlock s core c with
    | some w =>
      .next ((s.ringWrites core c.own.dev [w]).modCore core fun k =>
        { k with tack := { k.tack with running := some { c with done := c.done + 4096 } } })
    | none =>
      let e := tackDone s core c
      let t := (((s.ringWrites core c.own.dev e.far).slotWrites c.own e.near).bindSlot core c.slot e.bind).seeWrites core c.own.dev e.near
      let t := t.modCore core fun k => { k with tack := { k.tack with running := none } }
      .next (match c.bad with
        | some a => t.postTack core c rsPOISON c.status c.count a
        | none => t.postTack core c rsOK c.status c.count c.addr)

/-- R193: a record popped by an owner ends the lock that waits for it. -/
def State.unlock (s : State) (n : Nat) (o : Owner) (r : Record) : State :=
  match (s.core n).tack.locks.find? fun l => l.own == o && l.record == some r with
  | some l => s.modCore n fun k => { k with tack := { k.tack with locks := k.tack.locks.filter fun m => m.cmd != l.cmd } }
  | none => s

/-- R193: a stall that is reclaimed has no rows to lock. -/
def TLock.unlockStall (dev id : Nat) (l : TLock) : TLock :=
  if l.own.dev == dev then { l with first := l.first.filter (· != id), stalls := l.stalls.filter (· != id) } else l

/-- R61, R195: a stall of a device is reclaimed: the slots that it bounds, or whose ring lies in it, are unbound. -/
def Core.unbindStall (dev id : Nat) (k : Core) : Core :=
  { k with tack := { k.tack with
      slots := k.tack.slots.filter fun e => match e.2 with
        | some b => !(b.dev == dev && (b.stall == id || addrStall b.ring == id))
        | none => true
      locks := k.tack.locks.map (TLock.unlockStall dev id) } }

end Sys2Proof.Machine
end

