-- ==== Sys2Proof/Machine/System.lean ====
section
/-!
DEFINITION. Sys2Proof/Machine/System.lean: the rest of the Y slot: the event queue (R274, R275), traps and returns (R283,
R284, R391), and `halt` (R285); with the back-edge test of R251, which a skipped bundle meets too.
-/
namespace Sys2Proof.Machine

/-! ### The back edge (R251) -/

/-- R251: the active loops whose last bundle has a head, in the order in which they are tested. -/
def edgeLoops (c : Ctx) (h : Word) : List Nat :=
  let met := (List.range 4).filter fun n => loopAct c n && c.lend.get 0 n == h
  let before := fun (a b : Nat) =>
    let x := (c.lbeg.get 0 a).toNat
    let y := (c.lbeg.get 0 b).toNat
    y < x || (x == y && b < a)
  let insert := fun (l : List Nat) (n : Nat) => (l.filter fun m => before m n) ++ [n] ++ l.filter fun m => !before m n
  met.foldl insert []

/-- R251: the write of LCNTn that lands at bundle `land`: of COUNT alone where the edge is taken, of ACT alone where the loop is
exhausted. A `csrw` that lands there is later in the list and prevails. -/
def edgePend (land n : Nat) (act : Bool) (count : Nat) : Pend :=
  { land := land, slot := 0, seq := land, tgt := .lcnt n, mask := if act then ones 32 else 2 ^ 63, val := if act then count else 0 }

/-- R251: the test in order: the writes that it makes and where the edge leads. -/
def edgeTest (c : Ctx) (land : Nat) : List Nat → List Pend × Option Word
  | [] => ([], none)
  | n :: ns =>
    if 0 < loopCount c n then ([edgePend land n true (loopCount c n - 1)], some (c.lbeg.get 0 n))
    else
      let r := edgeTest c land ns
      (edgePend land n false 0 :: r.1, r.2)

/-- R251: the test of a bundle with head h, its writes landing at bundle `land`. -/
def backEdge (c : Ctx) (h : Word) (land : Nat) : List Pend × Option Word := edgeTest c land (edgeLoops c h)

/-! ### Return from a trap (R391, R405) -/

/-- R391: the pending transfers of a bank, for a return whose next bundle has number b. -/
def bankXfers (t : TrapBank) (b : Nat) (skip : Bool) : List Xfr :=
  let one := fun (w : Word) (n : Nat) => if w.getLsbD 0 then [({ at_ := n, target := BitVec.ofNat 64 (w.toNat / 2 * 2) } : Xfr)] else []
  let d := if skip then 0 else 1
  one t.xa (b + d) ++ one t.xb (b + d + 1)

/-- R284, R251: where a skip goes on, and the writes of the skipped bundle's test: an idle head with more than one bundle left
stays; anything else is passed. -/
def skipTarget (code : List Byte) (c : Ctx) (h : Word) (b : Nat) : Word × Nat × List Pend :=
  let past : Unit → Word × Nat × List Pend := fun _ =>
    let e := backEdge c h b
    ((match e.2 with | some t => t | none => nextHead code h), 0, e.1)
  match headAt code h with
  | .idle _ => if 1 < c.idleRem then (h, c.idleRem - 1, []) else past ()
  | _ => past ()

/-- R391: a context returns from a bank to a ring, whose code is given; b is the number of its next bundle. -/
def Ctx.returnTo (code : List Byte) (t : TrapBank) (ring : CRing) (skip : Bool) (b : Nat) (c : Ctx) : Ctx :=
  let c := setActs { c with ring := ring, xfers := bankXfers t b skip, idleRun := 0, skipTo := none, returned := true
                            watchOff := !skip && t.cause.toNat % 256 == 0x40 } (natField t.cause.toNat 28 4)
  let h : Word := BitVec.ofNat 64 (t.pc.toNat / 2 * 2)
  if !skip then { c with pc := h }
  else
    let r := skipTarget code c h b
    { c with pc := r.1, idleRem := r.2.1, pend := c.pend ++ r.2.2 }

/-- R391: the same for a context on its core. -/
def State.returnFrom (s : State) (key : Nat) (t : TrapBank) (ring : CRing) (skip : Bool) (b : Nat) : State :=
  s.modCtx key (Ctx.returnTo (codeOf (s.core (keyCore key)) ring) t ring skip b)

/-- R284: `eret`. At USER ring it raises cause 0x04. -/
def slotEret (skip : Bool) (s : State) : SlotOut :=
  if s.me.ring == .user then .trap 0x04 0
  else .ok ((s.returnFrom s.cur s.me.trapD .user skip (s.me.bundle + 1)).modCtx s.cur fun c => { c with redirected := true })
/-- R284: `eret.retry`. -/
def slotEretRetry (s : State) : SlotOut := slotEret false s
def execEretRetry (s : State) : Host.Outcome State Fault Refusal := finishSlot .Y s (slotEretRetry s)
/-- R284: `eret.skip`. -/
def slotEretSkip (s : State) : SlotOut := slotEret true s
def execEretSkip (s : State) : Host.Outcome State Fault Refusal := finishSlot .Y s (slotEretSkip s)

/-- R283: `trap n`. -/
def slotTrap (n : BitVec 6) (_s : State) : SlotOut := .trap 0x41 (BitVec.ofNat 64 n.toNat)
def execTrap (n : BitVec 6) (s : State) : Host.Outcome State Fault Refusal := finishSlot .Y s (slotTrap n s)

/-! ### The event queue (R275) -/

/-- R275: `evwait`. -/
def slotEvwait (s : State) : SlotOut := if s.me.evq.isEmpty then .hold .event else .ok s
def execEvwait (s : State) : Host.Outcome State Fault Refusal := finishSlot .Y s (slotEvwait s)

/-- R275: `evpop`: the oldest record leaves the queue; the lock that waits for it ends (R193). -/
def slotEvpop (x : XNum) (s : State) : SlotOut :=
  if !groupOk x 4 then .trap 0x02 0
  else match s.me.evq with
    | [] => .hold .event
    | r :: rest =>
      let o := s.owner
      let t := (s.modCtx s.cur fun c => { c with evq := rest }).unlock s.myCore o r
      .ok ((List.range 4).foldl (fun t i => t.returnX x i (BitVec.ofNat 64 (natField r (64 * i) 64))) t)
def execEvpop (x : XNum) (s : State) : Host.Outcome State Fault Refusal := finishSlot .Y s (slotEvpop x s)

/-! ### `halt` (R285) -/

/-- An entry of the engine queue of an owner that posts a record, accepted before this cycle. -/
def MEntry.owed (o : Owner) (now : Nat) : MEntry → Bool
  | .call own _ _ _ _ accepted _ => own == o && accepted < now
  | .load own _ _ accepted => own == o && accepted < now
  | _ => false

/-- R285: what a `halt` waits for. -/
def haltHold (s : State) : Bool :=
  let o := s.owner
  cmdsLeft s s.cur || ((s.core s.myCore).eng.queue.any fun e => e.owed o s.station)
  || ((tackPending s s.myCore).any fun c => c.own == o && c.accepted < s.station) || bufferedLeft s s.cur

/-- R285: the context after its leaf has ended: its records are discarded and its pending writes dropped. -/
def Ctx.endLeaf (c : Ctx) : Ctx :=
  { c with run := .ended, pend := [], xfers := [], evq := [], evres := 0, async := [], hold := none, trapReq := none
           idleRun := 0, skipTo := none }

/-- R374: a leaf of a launch has ended. -/
def State.leafDone (s : State) (launch : Nat) : State :=
  match s.launch launch with
  | some l => s.setLaunch { l with live := l.live - 1, endAt := if l.live ≤ 1 then some s.station else l.endAt }
  | none => s

/-- R279, R285: the leaf of a context ends: reservations of its armed blocks go with its queue. A lock that waits for the pop of one
of its records stays (R193; log 84). -/
def State.endLeaf (s : State) (key : Nat) : State :=
  let c := s.ctx key
  let mine : Owner → Bool := fun o => o.key == key && o.launch == c.launch
  ({ s with armed := s.armed.filter fun e => !mine e.2 }.modCtx key Ctx.endLeaf).leafDone c.launch

/-- R285: `halt`. -/
def slotHalt (s : State) : SlotOut := if haltHold s then .hold .event else .ok (s.endLeaf s.cur)
def execHalt (s : State) : Host.Outcome State Fault Refusal := finishSlot .Y s (slotHalt s)

end Sys2Proof.Machine
end

