-- ==== Sys2Proof/Machine/VectorFloat.lean ====
section
/-!
DEFINITION. Sys2Proof/Machine/VectorFloat.lean: float arithmetic, conversion and special functions of the vector slots
(R300 to R311). ROUND.MODE is read at issue; flags land with the result.
-/
namespace Sys2Proof.Machine

/-- R303: `vfadd`. -/
def slotVfadd (sl : VSlot) (f : Fmt) (r : RndB) (d a b : VCode) (k : KNum) (s : State) : SlotOut :=
  vWrite sl latVFloat d (vecFadd f (s.me.modeB r) (s.me.vsrc f.width a) (s.me.vsrc f.width b) (s.me.kr k)) s
def execVfadd (sl : VSlot) (f : Fmt) (r : RndB) (d a b : VCode) (k : KNum) (s : State) : Host.Outcome State Fault Refusal :=
  finishSlot sl.slot s (slotVfadd sl f r d a b k s)
/-- R303: `vfsub`. -/
def slotVfsub (sl : VSlot) (f : Fmt) (r : RndB) (d a b : VCode) (k : KNum) (s : State) : SlotOut :=
  vWrite sl latVFloat d (vecFsub f (s.me.modeB r) (s.me.vsrc f.width a) (s.me.vsrc f.width b) (s.me.kr k)) s
def execVfsub (sl : VSlot) (f : Fmt) (r : RndB) (d a b : VCode) (k : KNum) (s : State) : Host.Outcome State Fault Refusal :=
  finishSlot sl.slot s (slotVfsub sl f r d a b k s)
/-- R303: `vfmul`. -/
def slotVfmul (sl : VSlot) (f : Fmt) (r : RndB) (d a b : VCode) (k : KNum) (s : State) : SlotOut :=
  vWrite sl latVFloat d (vecFmul f (s.me.modeB r) (s.me.vsrc f.width a) (s.me.vsrc f.width b) (s.me.kr k)) s
def execVfmul (sl : VSlot) (f : Fmt) (r : RndB) (d a b : VCode) (k : KNum) (s : State) : Host.Outcome State Fault Refusal :=
  finishSlot sl.slot s (slotVfmul sl f r d a b k s)
/-- R303: `vfma`. -/
def slotVfma (sl : VSlot) (f : Fmt) (r : RndB) (d a b : VCode) (k : KNum) (s : State) : SlotOut :=
  vWrite sl latVFloat d (vecFma f false (s.me.modeB r) (s.me.vsrc f.width d) (s.me.vsrc f.width a) (s.me.vsrc f.width b) (s.me.kr k)) s
def execVfma (sl : VSlot) (f : Fmt) (r : RndB) (d a b : VCode) (k : KNum) (s : State) : Host.Outcome State Fault Refusal :=
  finishSlot sl.slot s (slotVfma sl f r d a b k s)
/-- R303: `vfnma`. -/
def slotVfnma (sl : VSlot) (f : Fmt) (r : RndB) (d a b : VCode) (k : KNum) (s : State) : SlotOut :=
  vWrite sl latVFloat d (vecFma f true (s.me.modeB r) (s.me.vsrc f.width d) (s.me.vsrc f.width a) (s.me.vsrc f.width b) (s.me.kr k)) s
def execVfnma (sl : VSlot) (f : Fmt) (r : RndB) (d a b : VCode) (k : KNum) (s : State) : Host.Outcome State Fault Refusal :=
  finishSlot sl.slot s (slotVfnma sl f r d a b k s)
/-- R304: `vfmin`. -/
def slotVfmin (sl : VSlot) (f : Fmt) (d a b : VCode) (k : KNum) (s : State) : SlotOut :=
  vWrite sl latVFloat d (vecFminmax f false (s.me.vsrc f.width a) (s.me.vsrc f.width b) (s.me.kr k)) s
def execVfmin (sl : VSlot) (f : Fmt) (d a b : VCode) (k : KNum) (s : State) : Host.Outcome State Fault Refusal :=
  finishSlot sl.slot s (slotVfmin sl f d a b k s)
/-- R304: `vfmax`. -/
def slotVfmax (sl : VSlot) (f : Fmt) (d a b : VCode) (k : KNum) (s : State) : SlotOut :=
  vWrite sl latVFloat d (vecFminmax f true (s.me.vsrc f.width a) (s.me.vsrc f.width b) (s.me.kr k)) s
def execVfmax (sl : VSlot) (f : Fmt) (d a b : VCode) (k : KNum) (s : State) : Host.Outcome State Fault Refusal :=
  finishSlot sl.slot s (slotVfmax sl f d a b k s)
/-- R305: `vfabs`. -/
def slotVfabs (sl : VSlot) (f : Fmt) (d a : VCode) (k : KNum) (s : State) : SlotOut :=
  vWrite sl latVFloat d (vecFabs f (s.me.vsrc f.width a) (s.me.kr k)) s
def execVfabs (sl : VSlot) (f : Fmt) (d a : VCode) (k : KNum) (s : State) : Host.Outcome State Fault Refusal :=
  finishSlot sl.slot s (slotVfabs sl f d a k s)
/-- R305: `vfneg`. -/
def slotVfneg (sl : VSlot) (f : Fmt) (d a : VCode) (k : KNum) (s : State) : SlotOut :=
  vWrite sl latVFloat d (vecFneg f (s.me.vsrc f.width a) (s.me.kr k)) s
def execVfneg (sl : VSlot) (f : Fmt) (d a : VCode) (k : KNum) (s : State) : Host.Outcome State Fault Refusal :=
  finishSlot sl.slot s (slotVfneg sl f d a k s)
/-- R306: `vfcmp`. -/
def slotVfcmp (sl : VSlot) (f : Fmt) (cc : VFCmpOp) (kd : KNum) (a b : VCode) (k : KNum) (s : State) : SlotOut :=
  let r := vecFcmp cc f (s.me.vsrc f.width a) (s.me.vsrc f.width b) (s.me.kr k)
  kWrite sl latVFloat kd r.1 r.2 s
def execVfcmp (sl : VSlot) (f : Fmt) (cc : VFCmpOp) (kd : KNum) (a b : VCode) (k : KNum) (s : State) : Host.Outcome State Fault Refusal :=
  finishSlot sl.slot s (slotVfcmp sl f cc kd a b k s)
/-- R307: `vfredsum`. -/
def slotVfredsum (sl : VSlot) (f : Fmt) (r : RndU) (d a : VCode) (k : KNum) (s : State) : SlotOut :=
  vWrite sl latVFloat d (vecFredsum f (s.me.modeU r) (s.me.vsrc f.width a) (s.me.kr k)) s
def execVfredsum (sl : VSlot) (f : Fmt) (r : RndU) (d a : VCode) (k : KNum) (s : State) : Host.Outcome State Fault Refusal :=
  finishSlot sl.slot s (slotVfredsum sl f r d a k s)
/-- R308: `vcvt`. -/
def slotVcvt (sl : VSlot) (t f : Fmt) (r : RndU) (d a : VCode) (k : KNum) (s : State) : SlotOut :=
  vWrite sl latVFloat d (vecCvt t f (s.me.modeU r) (s.me.groupSrc f.width a (cvtRegs f t)) (s.me.kr k)) s
def execVcvt (sl : VSlot) (t f : Fmt) (r : RndU) (d a : VCode) (k : KNum) (s : State) : Host.Outcome State Fault Refusal :=
  finishSlot sl.slot s (slotVcvt sl t f r d a k s)
/-- R309: `vbfix`. -/
def slotVbfix (sl : VSlot) (keep : Bool) (r : RndU) (d a : VCode) (k : KNum) (s : State) : SlotOut :=
  vWrite sl latVFloat d (vecBfix keep (s.me.modeU r) (s.me.vsrc 32 a) (s.me.vr (d.toNat + 1)) (s.me.kr k)) s
def execVbfix (sl : VSlot) (keep : Bool) (r : RndU) (d a : VCode) (k : KNum) (s : State) : Host.Outcome State Fault Refusal :=
  finishSlot sl.slot s (slotVbfix sl keep r d a k s)
/-- R310: `vbflt`. -/
def slotVbflt (sl : VSlot) (r : RndU) (d a : VCode) (k : KNum) (s : State) : SlotOut :=
  vWrite sl latVFloat d (vecBflt (s.me.modeU r) (s.me.vr (a.toNat)) (s.me.vr (a.toNat + 1)) (s.me.kr k)) s
def execVbflt (sl : VSlot) (r : RndU) (d a : VCode) (k : KNum) (s : State) : Host.Outcome State Fault Refusal :=
  finishSlot sl.slot s (slotVbflt sl r d a k s)
/-- R311: `vrcp`. -/
def slotVrcp (sl : VSlot) (r : RndU) (d a : VCode) (k : KNum) (s : State) : SlotOut :=
  vWrite sl latSpecial d (vecSpecial rcpCode (s.me.modeU r) (s.me.vsrc 32 a) (s.me.kr k)) s
def execVrcp (sl : VSlot) (r : RndU) (d a : VCode) (k : KNum) (s : State) : Host.Outcome State Fault Refusal :=
  finishSlot sl.slot s (slotVrcp sl r d a k s)
/-- R311: `vrsq`. -/
def slotVrsq (sl : VSlot) (r : RndU) (d a : VCode) (k : KNum) (s : State) : SlotOut :=
  vWrite sl latSpecial d (vecSpecial rsqCode (s.me.modeU r) (s.me.vsrc 32 a) (s.me.kr k)) s
def execVrsq (sl : VSlot) (r : RndU) (d a : VCode) (k : KNum) (s : State) : Host.Outcome State Fault Refusal :=
  finishSlot sl.slot s (slotVrsq sl r d a k s)
/-- R311: `vsqrt`. -/
def slotVsqrt (sl : VSlot) (r : RndU) (d a : VCode) (k : KNum) (s : State) : SlotOut :=
  vWrite sl latSpecial d (vecSpecial sqrtCode (s.me.modeU r) (s.me.vsrc 32 a) (s.me.kr k)) s
def execVsqrt (sl : VSlot) (r : RndU) (d a : VCode) (k : KNum) (s : State) : Host.Outcome State Fault Refusal :=
  finishSlot sl.slot s (slotVsqrt sl r d a k s)
/-- R311: `vexp2`. -/
def slotVexp2 (sl : VSlot) (r : RndU) (d a : VCode) (k : KNum) (s : State) : SlotOut :=
  vWrite sl latSpecial d (vecSpecial exp2Code (s.me.modeU r) (s.me.vsrc 32 a) (s.me.kr k)) s
def execVexp2 (sl : VSlot) (r : RndU) (d a : VCode) (k : KNum) (s : State) : Host.Outcome State Fault Refusal :=
  finishSlot sl.slot s (slotVexp2 sl r d a k s)
/-- R311: `vlog2`. -/
def slotVlog2 (sl : VSlot) (r : RndU) (d a : VCode) (k : KNum) (s : State) : SlotOut :=
  vWrite sl latSpecial d (vecSpecial log2Code (s.me.modeU r) (s.me.vsrc 32 a) (s.me.kr k)) s
def execVlog2 (sl : VSlot) (r : RndU) (d a : VCode) (k : KNum) (s : State) : Host.Outcome State Fault Refusal :=
  finishSlot sl.slot s (slotVlog2 sl r d a k s)
/-- R311: `vtanh`. -/
def slotVtanh (sl : VSlot) (r : RndU) (d a : VCode) (k : KNum) (s : State) : SlotOut :=
  vWrite sl latSpecial d (vecSpecial tanhCode (s.me.modeU r) (s.me.vsrc 32 a) (s.me.kr k)) s
def execVtanh (sl : VSlot) (r : RndU) (d a : VCode) (k : KNum) (s : State) : Host.Outcome State Fault Refusal :=
  finishSlot sl.slot s (slotVtanh sl r d a k s)
/-- R311: `vsigm`. -/
def slotVsigm (sl : VSlot) (r : RndU) (d a : VCode) (k : KNum) (s : State) : SlotOut :=
  vWrite sl latSpecial d (vecSpecial sigmCode (s.me.modeU r) (s.me.vsrc 32 a) (s.me.kr k)) s
def execVsigm (sl : VSlot) (r : RndU) (d a : VCode) (k : KNum) (s : State) : Host.Outcome State Fault Refusal :=
  finishSlot sl.slot s (slotVsigm sl r d a k s)

end Sys2Proof.Machine
end

