-- ==== Sys2Proof/Machine/VectorInt.lean ====
section
/-!
DEFINITION. Sys2Proof/Machine/VectorInt.lean: the integer and permute operations of the vector slots (R286 to R299).
Every source is read at issue; the values are those of Machine/IntLanes.lean.
-/
namespace Sys2Proof.Machine

/-- R289: `vadd`. -/
def slotVadd (sl : VSlot) (f : Fmt) (d a b : VCode) (k : KNum) (s : State) : SlotOut :=
  vWrite sl latVInt d (vecBin intAdd f (s.me.vsrc f.width a) (s.me.vsrc f.width b) (s.me.kr k)) s
def execVadd (sl : VSlot) (f : Fmt) (d a b : VCode) (k : KNum) (s : State) : Host.Outcome State Fault Refusal :=
  finishSlot sl.slot s (slotVadd sl f d a b k s)
/-- R289: `vsub`. -/
def slotVsub (sl : VSlot) (f : Fmt) (d a b : VCode) (k : KNum) (s : State) : SlotOut :=
  vWrite sl latVInt d (vecBin intSub f (s.me.vsrc f.width a) (s.me.vsrc f.width b) (s.me.kr k)) s
def execVsub (sl : VSlot) (f : Fmt) (d a b : VCode) (k : KNum) (s : State) : Host.Outcome State Fault Refusal :=
  finishSlot sl.slot s (slotVsub sl f d a b k s)
/-- R289: `vaddsat`. -/
def slotVaddsat (sl : VSlot) (f : Fmt) (d a b : VCode) (k : KNum) (s : State) : SlotOut :=
  vWrite sl latVInt d (vecBin intAddSat f (s.me.vsrc f.width a) (s.me.vsrc f.width b) (s.me.kr k)) s
def execVaddsat (sl : VSlot) (f : Fmt) (d a b : VCode) (k : KNum) (s : State) : Host.Outcome State Fault Refusal :=
  finishSlot sl.slot s (slotVaddsat sl f d a b k s)
/-- R289: `vsubsat`. -/
def slotVsubsat (sl : VSlot) (f : Fmt) (d a b : VCode) (k : KNum) (s : State) : SlotOut :=
  vWrite sl latVInt d (vecBin intSubSat f (s.me.vsrc f.width a) (s.me.vsrc f.width b) (s.me.kr k)) s
def execVsubsat (sl : VSlot) (f : Fmt) (d a b : VCode) (k : KNum) (s : State) : Host.Outcome State Fault Refusal :=
  finishSlot sl.slot s (slotVsubsat sl f d a b k s)
/-- R289: `vmul`. -/
def slotVmul (sl : VSlot) (f : Fmt) (d a b : VCode) (k : KNum) (s : State) : SlotOut :=
  vWrite sl latVInt d (vecBin intMul f (s.me.vsrc f.width a) (s.me.vsrc f.width b) (s.me.kr k)) s
def execVmul (sl : VSlot) (f : Fmt) (d a b : VCode) (k : KNum) (s : State) : Host.Outcome State Fault Refusal :=
  finishSlot sl.slot s (slotVmul sl f d a b k s)
/-- R291: `vmulw`. -/
def slotVmulw (sl : VSlot) (f : Fmt) (w : Widen) (d a b : VCode) (k : KNum) (s : State) : SlotOut :=
  vWrite sl latVInt d (vecWiden f w none (s.me.vsrc f.width a) (s.me.vsrc f.width b) (s.me.kr k)) s
def execVmulw (sl : VSlot) (f : Fmt) (w : Widen) (d a b : VCode) (k : KNum) (s : State) : Host.Outcome State Fault Refusal :=
  finishSlot sl.slot s (slotVmulw sl f w d a b k s)
/-- R289: `vmac`; the addend is read from the d field. -/
def slotVmac (sl : VSlot) (f : Fmt) (d a b : VCode) (k : KNum) (s : State) : SlotOut :=
  vWrite sl latVInt d (vecMac f (s.me.vsrc f.width d) (s.me.vsrc f.width a) (s.me.vsrc f.width b) (s.me.kr k)) s
def execVmac (sl : VSlot) (f : Fmt) (d a b : VCode) (k : KNum) (s : State) : Host.Outcome State Fault Refusal :=
  finishSlot sl.slot s (slotVmac sl f d a b k s)
/-- R291: `vmacw`. -/
def slotVmacw (sl : VSlot) (f : Fmt) (w : Widen) (d a b : VCode) (k : KNum) (s : State) : SlotOut :=
  vWrite sl latVInt d (vecWiden f w (some (s.me.group d w.regs)) (s.me.vsrc f.width a) (s.me.vsrc f.width b) (s.me.kr k)) s
def execVmacw (sl : VSlot) (f : Fmt) (w : Widen) (d a b : VCode) (k : KNum) (s : State) : Host.Outcome State Fault Refusal :=
  finishSlot sl.slot s (slotVmacw sl f w d a b k s)
/-- R289: `vabs`. -/
def slotVabs (sl : VSlot) (f : Fmt) (d a : VCode) (k : KNum) (s : State) : SlotOut :=
  vWrite sl latVInt d (vecUn (fun g v => if g.signed then intAbs g v else v) f (s.me.vsrc f.width a) (s.me.kr k)) s
def execVabs (sl : VSlot) (f : Fmt) (d a : VCode) (k : KNum) (s : State) : Host.Outcome State Fault Refusal :=
  finishSlot sl.slot s (slotVabs sl f d a k s)
/-- R289: `vneg`. -/
def slotVneg (sl : VSlot) (f : Fmt) (d a : VCode) (k : KNum) (s : State) : SlotOut :=
  vWrite sl latVInt d (vecUn intNeg f (s.me.vsrc f.width a) (s.me.kr k)) s
def execVneg (sl : VSlot) (f : Fmt) (d a : VCode) (k : KNum) (s : State) : Host.Outcome State Fault Refusal :=
  finishSlot sl.slot s (slotVneg sl f d a k s)
/-- R289: `vmin`. -/
def slotVmin (sl : VSlot) (f : Fmt) (d a b : VCode) (k : KNum) (s : State) : SlotOut :=
  vWrite sl latVInt d (vecBin intMin f (s.me.vsrc f.width a) (s.me.vsrc f.width b) (s.me.kr k)) s
def execVmin (sl : VSlot) (f : Fmt) (d a b : VCode) (k : KNum) (s : State) : Host.Outcome State Fault Refusal :=
  finishSlot sl.slot s (slotVmin sl f d a b k s)
/-- R289: `vmax`. -/
def slotVmax (sl : VSlot) (f : Fmt) (d a b : VCode) (k : KNum) (s : State) : SlotOut :=
  vWrite sl latVInt d (vecBin intMax f (s.me.vsrc f.width a) (s.me.vsrc f.width b) (s.me.kr k)) s
def execVmax (sl : VSlot) (f : Fmt) (d a b : VCode) (k : KNum) (s : State) : Host.Outcome State Fault Refusal :=
  finishSlot sl.slot s (slotVmax sl f d a b k s)
/-- R289: `vand`. -/
def slotVand (sl : VSlot) (f : Fmt) (d a b : VCode) (k : KNum) (s : State) : SlotOut :=
  vWrite sl latVInt d (vecBits Nat.land f (s.me.vsrc f.width a) (s.me.vsrc f.width b) (s.me.kr k)) s
def execVand (sl : VSlot) (f : Fmt) (d a b : VCode) (k : KNum) (s : State) : Host.Outcome State Fault Refusal :=
  finishSlot sl.slot s (slotVand sl f d a b k s)
/-- R289: `vor`. -/
def slotVor (sl : VSlot) (f : Fmt) (d a b : VCode) (k : KNum) (s : State) : SlotOut :=
  vWrite sl latVInt d (vecBits Nat.lor f (s.me.vsrc f.width a) (s.me.vsrc f.width b) (s.me.kr k)) s
def execVor (sl : VSlot) (f : Fmt) (d a b : VCode) (k : KNum) (s : State) : Host.Outcome State Fault Refusal :=
  finishSlot sl.slot s (slotVor sl f d a b k s)
/-- R289: `vxor`. -/
def slotVxor (sl : VSlot) (f : Fmt) (d a b : VCode) (k : KNum) (s : State) : SlotOut :=
  vWrite sl latVInt d (vecBits Nat.xor f (s.me.vsrc f.width a) (s.me.vsrc f.width b) (s.me.kr k)) s
def execVxor (sl : VSlot) (f : Fmt) (d a b : VCode) (k : KNum) (s : State) : Host.Outcome State Fault Refusal :=
  finishSlot sl.slot s (slotVxor sl f d a b k s)
/-- R289: `vnot`. -/
def slotVnot (sl : VSlot) (f : Fmt) (d a : VCode) (k : KNum) (s : State) : SlotOut :=
  vWrite sl latVInt d (vecBits (fun x _ => 2 ^ f.width - 1 - x) f (s.me.vsrc f.width a) 0 (s.me.kr k)) s
def execVnot (sl : VSlot) (f : Fmt) (d a : VCode) (k : KNum) (s : State) : Host.Outcome State Fault Refusal :=
  finishSlot sl.slot s (slotVnot sl f d a k s)
/-- R290: `vshl`. -/
def slotVshl (sl : VSlot) (f : Fmt) (d a b : VCode) (k : KNum) (s : State) : SlotOut :=
  vWrite sl latVInt d (vecBits (shlCode f.width) f (s.me.vsrc f.width a) (s.me.vsrc f.width b) (s.me.kr k)) s
def execVshl (sl : VSlot) (f : Fmt) (d a b : VCode) (k : KNum) (s : State) : Host.Outcome State Fault Refusal :=
  finishSlot sl.slot s (slotVshl sl f d a b k s)
/-- R290: `vshr`. -/
def slotVshr (sl : VSlot) (f : Fmt) (d a b : VCode) (k : KNum) (s : State) : SlotOut :=
  vWrite sl latVInt d (vecBits (shrCode f.width) f (s.me.vsrc f.width a) (s.me.vsrc f.width b) (s.me.kr k)) s
def execVshr (sl : VSlot) (f : Fmt) (d a b : VCode) (k : KNum) (s : State) : Host.Outcome State Fault Refusal :=
  finishSlot sl.slot s (slotVshr sl f d a b k s)
/-- R290: `vsra`. -/
def slotVsra (sl : VSlot) (f : Fmt) (d a b : VCode) (k : KNum) (s : State) : SlotOut :=
  vWrite sl latVInt d (vecBits (sraCode f.width) f (s.me.vsrc f.width a) (s.me.vsrc f.width b) (s.me.kr k)) s
def execVsra (sl : VSlot) (f : Fmt) (d a b : VCode) (k : KNum) (s : State) : Host.Outcome State Fault Refusal :=
  finishSlot sl.slot s (slotVsra sl f d a b k s)
/-- R292: `vcmp`. -/
def slotVcmp (sl : VSlot) (f : Fmt) (cc : VCmpOp) (kd : KNum) (a b : VCode) (k : KNum) (s : State) : SlotOut :=
  kWrite sl latVInt kd (vecCmp cc f (s.me.vsrc f.width a) (s.me.vsrc f.width b) (s.me.kr k)) 0 s
def execVcmp (sl : VSlot) (f : Fmt) (cc : VCmpOp) (kd : KNum) (a b : VCode) (k : KNum) (s : State) : Host.Outcome State Fault Refusal :=
  finishSlot sl.slot s (slotVcmp sl f cc kd a b k s)
/-- R293: `vsel`. -/
def slotVsel (sl : VSlot) (f : Fmt) (d a b : VCode) (k : KNum) (s : State) : SlotOut :=
  vWrite sl latVInt d (vecSel f (s.me.vsrc f.width a) (s.me.vsrc f.width b) (s.me.kr k)) s
def execVsel (sl : VSlot) (f : Fmt) (d a b : VCode) (k : KNum) (s : State) : Host.Outcome State Fault Refusal :=
  finishSlot sl.slot s (slotVsel sl f d a b k s)
/-- R294: `vredsum`. -/
def slotVredsum (sl : VSlot) (f : Fmt) (d a : VCode) (k : KNum) (s : State) : SlotOut :=
  vWrite sl latVInt d (vecRedSum f (s.me.vsrc f.width a) (s.me.kr k)) s
def execVredsum (sl : VSlot) (f : Fmt) (d a : VCode) (k : KNum) (s : State) : Host.Outcome State Fault Refusal :=
  finishSlot sl.slot s (slotVredsum sl f d a k s)
/-- R294: `vredmax`. -/
def slotVredmax (sl : VSlot) (f : Fmt) (d a : VCode) (k : KNum) (s : State) : SlotOut :=
  vWrite sl latVInt d (vecRedMax f (s.me.vsrc f.width a) (s.me.kr k)) s
def execVredmax (sl : VSlot) (f : Fmt) (d a : VCode) (k : KNum) (s : State) : Host.Outcome State Fault Refusal :=
  finishSlot sl.slot s (slotVredmax sl f d a k s)
/-- R294: `vredmin`. -/
def slotVredmin (sl : VSlot) (f : Fmt) (d a : VCode) (k : KNum) (s : State) : SlotOut :=
  vWrite sl latVInt d (vecRedMin f (s.me.vsrc f.width a) (s.me.kr k)) s
def execVredmin (sl : VSlot) (f : Fmt) (d a : VCode) (k : KNum) (s : State) : Host.Outcome State Fault Refusal :=
  finishSlot sl.slot s (slotVredmin sl f d a k s)
/-- R295: `vbcst`. -/
def slotVbcst (sl : VSlot) (f : Fmt) (d a : VCode) (lane : BitVec 10) (k : KNum) (s : State) : SlotOut :=
  vWrite sl latPerm d (vecBcst f (s.me.vsrc f.width a) lane.toNat (s.me.kr k)) s
def execVbcst (sl : VSlot) (f : Fmt) (d a : VCode) (lane : BitVec 10) (k : KNum) (s : State) : Host.Outcome State Fault Refusal :=
  finishSlot sl.slot s (slotVbcst sl f d a lane k s)
/-- R295: `vperm`. -/
def slotVperm (sl : VSlot) (f : Fmt) (d a b : VCode) (k : KNum) (s : State) : SlotOut :=
  vWrite sl latPerm d (vecPerm f (s.me.vsrc f.width a) (s.me.vsrc f.width b) (s.me.kr k)) s
def execVperm (sl : VSlot) (f : Fmt) (d a b : VCode) (k : KNum) (s : State) : Host.Outcome State Fault Refusal :=
  finishSlot sl.slot s (slotVperm sl f d a b k s)
/-- R295: `vrot`. -/
def slotVrot (sl : VSlot) (f : Fmt) (d a : VCode) (count : BitVec 10) (k : KNum) (s : State) : SlotOut :=
  vWrite sl latPerm d (vecRot f (s.me.vsrc f.width a) count.toNat (s.me.kr k)) s
def execVrot (sl : VSlot) (f : Fmt) (d a : VCode) (count : BitVec 10) (k : KNum) (s : State) : Host.Outcome State Fault Refusal :=
  finishSlot sl.slot s (slotVrot sl f d a count k s)
/-- R296: `vzip`. -/
def slotVzip (sl : VSlot) (f : Fmt) (d a b : VCode) (k : KNum) (s : State) : SlotOut :=
  vWrite sl latPerm d (vecZip f (s.me.vsrc f.width a) (s.me.vsrc f.width b) (s.me.kr k)) s
def execVzip (sl : VSlot) (f : Fmt) (d a b : VCode) (k : KNum) (s : State) : Host.Outcome State Fault Refusal :=
  finishSlot sl.slot s (slotVzip sl f d a b k s)
/-- R296: `vunzip`. -/
def slotVunzip (sl : VSlot) (f : Fmt) (d a : VCode) (k : KNum) (s : State) : SlotOut :=
  vWrite sl latPerm d (vecUnzip f (s.me.vr (a.toNat)) (s.me.vr (a.toNat + 1)) (s.me.kr k)) s
def execVunzip (sl : VSlot) (f : Fmt) (d a : VCode) (k : KNum) (s : State) : Host.Outcome State Fault Refusal :=
  finishSlot sl.slot s (slotVunzip sl f d a k s)
/-- R297: `vpack`. -/
def slotVpack (sl : VSlot) (f : Fmt) (m : PackMod) (d a : VCode) (k : KNum) (s : State) : SlotOut :=
  vWrite sl latPerm d (vecPack f m (s.me.vr (a.toNat)) (s.me.vr (a.toNat + 1)) (s.me.kr k)) s
def execVpack (sl : VSlot) (f : Fmt) (m : PackMod) (d a : VCode) (k : KNum) (s : State) : Host.Outcome State Fault Refusal :=
  finishSlot sl.slot s (slotVpack sl f m d a k s)
/-- R297: `vunpack`. -/
def slotVunpack (sl : VSlot) (f : Fmt) (d a : VCode) (k : KNum) (s : State) : SlotOut :=
  vWrite sl latPerm d (vecUnpack f (s.me.vsrc f.width a) (s.me.kr k)) s
def execVunpack (sl : VSlot) (f : Fmt) (d a : VCode) (k : KNum) (s : State) : Host.Outcome State Fault Refusal :=
  finishSlot sl.slot s (slotVunpack sl f d a k s)
/-- R298: `vdpack`. -/
def slotVdpack (sl : VSlot) (f : Fmt) (d a : VCode) (plane : BitVec 10) (s : State) : SlotOut :=
  vWrite sl latPerm d (vecDpack f (s.me.vr (a.toNat)) (s.me.vr (a.toNat + 1)) plane.toNat) s
def execVdpack (sl : VSlot) (f : Fmt) (d a : VCode) (plane : BitVec 10) (s : State) : Host.Outcome State Fault Refusal :=
  finishSlot sl.slot s (slotVdpack sl f d a plane s)
/-- R299: `vtpack`. -/
def slotVtpack (sl : VSlot) (f : Fmt) (d a : VCode) (s : State) : SlotOut :=
  vWrite sl latPerm d (vecTpack f (s.me.group a 4)) s
def execVtpack (sl : VSlot) (f : Fmt) (d a : VCode) (s : State) : Host.Outcome State Fault Refusal :=
  finishSlot sl.slot s (slotVtpack sl f d a s)

end Sys2Proof.Machine
end

