-- ==== Sys2Proof/Machine/Witness.lean ====
section
/-!
DEFINITION. Sys2Proof/Machine/Witness.lean: the witness reductions (R177 to R180), their headers, and the adjoint
broadcast (R182 to R184), as functions of register values.
-/
namespace Sys2Proof.Machine

/-- A key that ranks a contributor; for floats -0 ranks below +0 (R179). -/
def witKey (f : Fmt) (c : Nat) : Int := if f.isFloat then fkey f c else laneVal f c

/-- Whether a contributor is a NaN. -/
def witNaN (f : Fmt) (c : Nat) : Bool := f.isFloat && isNaN f c

/-- A contributor as it is copied: a NaN with its quiet bit set (R180). -/
def witCopy (f : Fmt) (c : Nat) : Nat := if witNaN f c then quiet f c else c

/-- R180: NV when the chosen NaN was signalling. -/
def witFlags (f : Fmt) (c : Nat) : Nat := if f.isFloat && isSNaN f c then flagNV else 0

/-- Positions of a list whose element passes a test. -/
def positions (p : Nat → Bool) (cs : List Nat) : List Nat := (List.range cs.length).filter fun j => p (cs.getD j 0)

/-- R179: the chosen contributor of max (isMax) or min, and the tie flag. -/
def witChoose (f : Fmt) (isMax : Bool) (cs : List Nat) : Nat × Bool :=
  match positions (witNaN f) cs with
  | j :: rest => (j, !rest.isEmpty)
  | [] =>
    let ks := cs.map (witKey f)
    let best := ks.foldl (fun b x => if isMax then max b x else min b x) (ks.getD 0 0)
    match positions (fun c => witKey f c == best) cs with
    | j :: rest => (j, !rest.isEmpty)
    | [] => (0, false)

/-- R179: rank of contributor j by value, then by index. -/
def witRank (f : Fmt) (cs : List Nat) (j : Nat) : Nat :=
  let kj := witKey f (cs.getD j 0)
  ((List.range cs.length).filter fun i =>
    let ki := witKey f (cs.getD i 0)
    ki < kj || (ki == kj && i < j)).length

/-- R179: the median contributor and the tie flag. -/
def witMedian (f : Fmt) (cs : List Nat) : Nat × Bool :=
  match positions (witNaN f) cs with
  | j :: rest => (j, !rest.isEmpty)
  | [] =>
    let j := ((List.range cs.length).find? fun j => witRank f cs j == (cs.length - 1) / 2).getD 0
    (j, decide (1 < (positions (fun c => witKey f c == witKey f (cs.getD j 0)) cs).length))

/-- R179, R180: one lane of `wmax`, `wmin` and `wmed`: the value, the witness byte and the flags. -/
def witPick (choose : List Nat → Nat × Bool) (f : Fmt) (cs : List Nat) : Nat × Nat × Nat :=
  let (j, tie) := choose cs
  let c := cs.getD j 0
  (witCopy f c, j % 128 + (if tie then 128 else 0), witFlags f c)

/-- R179: x compared below y, with -0 equal to +0 for floats. -/
def witLess (f : Fmt) (x y : Nat) : Bool :=
  if f.isFloat then (fcmp f .lt x y).1 else laneVal f x < laneVal f y

/-- R179, R180: one lane of `wclamp`. A NaN bound is absent. -/
def witClampLane (f : Fmt) (x lo hi : Nat) : Nat × Nat × Nat :=
  if witNaN f x then (quiet f x, 3, witFlags f x)
  else if !witNaN f lo && witLess f x lo then (lo, 1, 0)
  else if !witNaN f hi && witLess f hi x then (hi, 2, 0)
  else (x, 0, 0)

/-- R179: the saturating sum in ascending j: the sum and the index of the first add that clipped. -/
def witSatFold (f : Fmt) : List Nat → Nat → Int → Option Nat → Int × Option Nat
  | [], _, acc, cl => (acc, cl)
  | c :: cs, j, acc, cl =>
    let x := acc + laneVal f c
    let y := satFmt f x
    witSatFold f cs (j + 1) y (if cl.isNone && x != y then some j else cl)

/-- R179, R180: one lane of `wsat`. -/
def witSatLane (f : Fmt) (cs : List Nat) : Nat × Nat × Nat :=
  let (v, cl) := witSatFold f cs 0 0 none
  (wrapInt v f.width, match cl with | some j => 2 * (j % 128) + 1 | none => 0, 0)

/-- R178: the witness header. -/
def witHeader (gen lanes n fmt op : Nat) : Nat :=
  gen % 2 ^ 16 * 2 ^ 48 + lanes * 2 ^ 32 + n * 2 ^ 24 + fmt * 2 ^ 20 + op * 2 ^ 16

/-- R178 to R180: the registers d and d + 1 from the lane function. -/
def vecWitness (f : Fmt) (k : KReg) (gen n op : Nat) (el : Nat → Nat × Nat × Nat) : VRes :=
  let r := laneRes f.width f.lanes k fun i => (el i).1
  let hdr := witHeader gen f.lanes n f.code op
  { outs := r.outs ++ [{ reg := 1, mask := fullMask, val := ofLanes 8 (8 + f.lanes) fun i =>
      if i < 8 then hdr / 256 ^ i % 256 else if kbit k (i - 8) then (el (i - 8)).2.1 else 255 }]
    flags := orFlags f.lanes k fun i => (el i).2.2 }

/-- Lane i of each source. -/
def lanesAt (f : Fmt) (srcs : List VReg) (i : Nat) : List Nat := srcs.map fun r => lane r f.width i

def vecWmax (f : Fmt) (srcs : List VReg) (k : KReg) (gen : Nat) : VRes :=
  vecWitness f k gen srcs.length 1 fun i => witPick (witChoose f true) f (lanesAt f srcs i)
def vecWmin (f : Fmt) (srcs : List VReg) (k : KReg) (gen : Nat) : VRes :=
  vecWitness f k gen srcs.length 2 fun i => witPick (witChoose f false) f (lanesAt f srcs i)
def vecWclamp (f : Fmt) (a lo hi : VReg) (k : KReg) (gen : Nat) : VRes :=
  vecWitness f k gen 1 3 fun i => witClampLane f (lane a f.width i) (lane lo f.width i) (lane hi f.width i)
def vecWmed (f : Fmt) (srcs : List VReg) (k : KReg) (gen : Nat) : VRes :=
  vecWitness f k gen srcs.length 4 fun i => witPick (witMedian f) f (lanesAt f srcs i)
def vecWsat (f : Fmt) (srcs : List VReg) (k : KReg) (gen : Nat) : VRes :=
  vecWitness f k gen srcs.length 5 fun i => witSatLane f (lanesAt f srcs i)

/-- The 64-bit header of a witness register (R178). -/
def headerOf (b : VReg) : Nat := b.toNat % 2 ^ 64

/-- R183: whether a header is stale against the expectation. -/
def witStale (hdr xg : Nat) : Bool :=
  let op := natField hdr 16 4
  let fmtLanes := match Fmt.ofCode (natField hdr 20 4) with | some f => f.lanes | none => 0
  natField hdr 0 16 != 0 || natField hdr 41 7 != 0 || op == 0 || op > 5
    || natField hdr 32 9 != fmtLanes || fmtLanes == 0
    || natField hdr 48 16 != natField xg 0 16 || op != natField xg 16 4 || natField hdr 24 8 != natField xg 20 7

/-- R184: whether lane i with witness byte w routes its gradient to output j. -/
def adjRoutes (op w j : Nat) : Bool :=
  w != 255 && ((op == 1 || op == 2 || op == 4) && w % 128 == j
    || op == 3 && w == 0 || op == 5 && w % 2 == 0)

/-- R184: `adjb`; the format is that of the header. Where N is 0 in the header and in xg there is no register d, and the spec does not say
what pV2 takes: no register is written, and the port keeps what it held (log 155, DESIGN CHOICE). -/
def vecAdjb (f : Fmt) (op n : Nat) (a b : VReg) (k : KReg) : VRes :=
  { outs := (List.range n).map fun j =>
      { reg := j
        mask := laneMask f.width f.lanes k
        val := ofLanes f.width f.lanes fun i =>
          if kbit k i && adjRoutes op (lane b 8 (8 + i)) j then lane a f.width i else 0 }
    flags := 0 }

end Sys2Proof.Machine
end

