-- ==== Sys2Proof/Machine/VectorWitness.lean ====
section
/-!
DEFINITION. Sys2Proof/Machine/VectorWitness.lean: the witness reductions and the adjoint broadcast of V2 (R177 to R185,
R312, R313).
-/
namespace Sys2Proof.Machine

/-- R178 to R180: `wmax`. -/
def slotWmax (sl : VSlot) (f : Fmt) (d a : VCode) (n : BitVec 7) (k : KNum) (s : State) : SlotOut :=
  vWrite sl latWit d (vecWmax f (s.me.group a n.toNat) (s.me.kr k) s.me.wgen) s
def execWmax (sl : VSlot) (f : Fmt) (d a : VCode) (n : BitVec 7) (k : KNum) (s : State) : Host.Outcome State Fault Refusal :=
  finishSlot sl.slot s (slotWmax sl f d a n k s)
/-- R178 to R180: `wmin`. -/
def slotWmin (sl : VSlot) (f : Fmt) (d a : VCode) (n : BitVec 7) (k : KNum) (s : State) : SlotOut :=
  vWrite sl latWit d (vecWmin f (s.me.group a n.toNat) (s.me.kr k) s.me.wgen) s
def execWmin (sl : VSlot) (f : Fmt) (d a : VCode) (n : BitVec 7) (k : KNum) (s : State) : Host.Outcome State Fault Refusal :=
  finishSlot sl.slot s (slotWmin sl f d a n k s)
/-- R178 to R180: `wclamp`. -/
def slotWclamp (sl : VSlot) (f : Fmt) (d a b : VCode) (k : KNum) (s : State) : SlotOut :=
  vWrite sl latWit d (vecWclamp f (s.me.vr a.toNat) (s.me.vr b.toNat) (s.me.vr (b.toNat + 1)) (s.me.kr k) s.me.wgen) s
def execWclamp (sl : VSlot) (f : Fmt) (d a b : VCode) (k : KNum) (s : State) : Host.Outcome State Fault Refusal :=
  finishSlot sl.slot s (slotWclamp sl f d a b k s)
/-- R178 to R180: `wmed`. -/
def slotWmed (sl : VSlot) (f : Fmt) (d a : VCode) (n : BitVec 7) (k : KNum) (s : State) : SlotOut :=
  vWrite sl latWit d (vecWmed f (s.me.group a n.toNat) (s.me.kr k) s.me.wgen) s
def execWmed (sl : VSlot) (f : Fmt) (d a : VCode) (n : BitVec 7) (k : KNum) (s : State) : Host.Outcome State Fault Refusal :=
  finishSlot sl.slot s (slotWmed sl f d a n k s)
/-- R178 to R180: `wsat`. -/
def slotWsat (sl : VSlot) (f : Fmt) (d a : VCode) (n : BitVec 7) (k : KNum) (s : State) : SlotOut :=
  vWrite sl latWit d (vecWsat f (s.me.group a n.toNat) (s.me.kr k) s.me.wgen) s
def execWsat (sl : VSlot) (f : Fmt) (d a : VCode) (n : BitVec 7) (k : KNum) (s : State) : Host.Outcome State Fault Refusal :=
  finishSlot sl.slot s (slotWsat sl f d a n k s)
/-- R182 to R184, R313: `adjb`: the operand checks first, then the stale-witness checks, then the gradients. -/
def slotAdjb (sl : VSlot) (d a b : VCode) (xg : XNum) (k : KNum) (s : State) : SlotOut :=
  let e := (s.me.xr xg).toNat
  let n := natField e 20 7
  let hdr := headerOf (s.me.vr b.toNat)
  if d.toNat + n > 768 || (d.toNat ≤ b.toNat && b.toNat < d.toNat + n) then .trap 0x02 0
  else if witStale hdr e then .trap 0x30 (BitVec.ofNat 64 hdr)
  else
    let f := (Fmt.ofCode (natField hdr 20 4)).getD .i32
    vWrite sl latWit d (vecAdjb f (natField hdr 16 4) n (s.me.vr a.toNat) (s.me.vr b.toNat) (s.me.kr k)) s
def execAdjb (sl : VSlot) (d a b : VCode) (xg : XNum) (k : KNum) (s : State) : Host.Outcome State Fault Refusal :=
  finishSlot sl.slot s (slotAdjb sl d a b xg k s)

end Sys2Proof.Machine
end

