-- ==== Sys2Proof/Machine/Issue.lean ====
section
/-!
DEFINITION. Sys2Proof/Machine/Issue.lean: a context's bundle (R126, R127, R133 to R139, R251) and a core's issue path (R16, R17,
R277): what comes up, what it does, and which context issues.
-/
namespace Sys2Proof.Machine

/-- What a syllable does in its bundle; the other instructions have no slot. -/
def slotExec (i : Instr) (s : State) : SlotOut :=
  match i with
  | .ptg t off => slotPtg t off s
  | .br c t => slotBr c t s
  | .bra t => slotBra t s
  | .brx x => slotBrx x s
  | .call x t => slotCall x t s
  | .ret x => slotRet x s
  | .loop lc x off => slotLoop lc x off s
  | .loopi lc count off => slotLoopi lc count off s
  | .add sl d a b => slotAdd sl d a b s
  | .sub sl d a b => slotSub sl d a b s
  | .and sl d a b => slotAnd sl d a b s
  | .or sl d a b => slotOr sl d a b s
  | .xor sl d a b => slotXor sl d a b s
  | .shl sl d a b => slotShl sl d a b s
  | .shr sl d a b => slotShr sl d a b s
  | .sra sl d a b => slotSra sl d a b s
  | .min sl d a b => slotMin sl d a b s
  | .max sl d a b => slotMax sl d a b s
  | .minn sl d a b => slotMinn sl d a b s
  | .maxn sl d a b => slotMaxn sl d a b s
  | .mov sl d a => slotMov sl d a s
  | .sel sl d a b c => slotSel sl d a b c s
  | .clz sl d a => slotClz sl d a s
  | .ctz sl d a => slotCtz sl d a s
  | .popc sl d a => slotPopc sl d a s
  | .mul sl d a b => slotMul sl d a b s
  | .mulh sl d a b => slotMulh sl d a b s
  | .mulhn sl d a b => slotMulhn sl d a b s
  | .divs sl d a b => slotDivs sl d a b s
  | .divn sl d a b => slotDivn sl d a b s
  | .rems sl d a b => slotRems sl d a b s
  | .remn sl d a b => slotRemn sl d a b s
  | .addi sl d a imm => slotAddi sl d a imm s
  | .andi sl d a imm => slotAndi sl d a imm s
  | .ori sl d a imm => slotOri sl d a imm s
  | .xori sl d a imm => slotXori sl d a imm s
  | .shli sl d a n => slotShli sl d a n s
  | .shri sl d a n => slotShri sl d a n s
  | .srai sl d a n => slotSrai sl d a n s
  | .li sl d imm => slotLi sl d imm s
  | .lih sl d imm q => slotLih sl d imm q s
  | .ceq sl c a b => slotCeq sl c a b s
  | .cne sl c a b => slotCne sl c a b s
  | .clt sl c a b => slotClt sl c a b s
  | .cltn sl c a b => slotCltn sl c a b s
  | .cle sl c a b => slotCle sl c a b s
  | .clen sl c a b => slotClen sl c a b s
  | .anyk sl c k lanes => slotAnyk sl c k lanes s
  | .allk sl c k lanes => slotAllk sl c k lanes s
  | .csrr sl d num => slotCsrr sl d num s
  | .csrw sl num a => slotCsrw sl num a s
  | .stg sl s_ a => slotStg sl s_ a s
  | .stgi sl s_ imm => slotStgi sl s_ imm s
  | .ldb zero d base off => slotLdb zero d base off s
  | .ldh zero d base off => slotLdh zero d base off s
  | .ldw zero d base off => slotLdw zero d base off s
  | .ldd d base off => slotLdd d base off s
  | .stb src base off => slotStb src base off s
  | .sth src base off => slotSth src base off s
  | .stw src base off => slotStw src base off s
  | .std src base off => slotStd src base off s
  | .ldv d base off k lw => slotLdv d base off k lw s
  | .stv src base off k lw => slotStv src base off k lw s
  | .ldvs d base off stride => slotLdvs d base off stride s
  | .stvs src base off stride => slotStvs src base off stride s
  | .ldk k base off => slotLdk k base off s
  | .stk k base off => slotStk k base off s
  | .accrd d base off k => slotAccrd d base off k s
  | .accwr src base off k => slotAccwr src base off k s
  | .tld d base off => slotTld d base off s
  | .tst src base off => slotTst src base off s
  | .atom op wide d base s_ c off => slotAtom op wide d base s_ c off s
  | .vadd sl f d a b k => slotVadd sl f d a b k s
  | .vsub sl f d a b k => slotVsub sl f d a b k s
  | .vaddsat sl f d a b k => slotVaddsat sl f d a b k s
  | .vsubsat sl f d a b k => slotVsubsat sl f d a b k s
  | .vmul sl f d a b k => slotVmul sl f d a b k s
  | .vmulw sl f w d a b k => slotVmulw sl f w d a b k s
  | .vmac sl f d a b k => slotVmac sl f d a b k s
  | .vmacw sl f w d a b k => slotVmacw sl f w d a b k s
  | .vabs sl f d a k => slotVabs sl f d a k s
  | .vneg sl f d a k => slotVneg sl f d a k s
  | .vmin sl f d a b k => slotVmin sl f d a b k s
  | .vmax sl f d a b k => slotVmax sl f d a b k s
  | .vand sl f d a b k => slotVand sl f d a b k s
  | .vor sl f d a b k => slotVor sl f d a b k s
  | .vxor sl f d a b k => slotVxor sl f d a b k s
  | .vnot sl f d a k => slotVnot sl f d a k s
  | .vshl sl f d a b k => slotVshl sl f d a b k s
  | .vshr sl f d a b k => slotVshr sl f d a b k s
  | .vsra sl f d a b k => slotVsra sl f d a b k s
  | .vcmp sl f cc kd a b k => slotVcmp sl f cc kd a b k s
  | .vsel sl f d a b k => slotVsel sl f d a b k s
  | .vredsum sl f d a k => slotVredsum sl f d a k s
  | .vredmax sl f d a k => slotVredmax sl f d a k s
  | .vredmin sl f d a k => slotVredmin sl f d a k s
  | .vbcst sl f d a lane k => slotVbcst sl f d a lane k s
  | .vperm sl f d a b k => slotVperm sl f d a b k s
  | .vrot sl f d a count k => slotVrot sl f d a count k s
  | .vzip sl f d a b k => slotVzip sl f d a b k s
  | .vunzip sl f d a k => slotVunzip sl f d a k s
  | .vpack sl f m d a k => slotVpack sl f m d a k s
  | .vunpack sl f d a k => slotVunpack sl f d a k s
  | .vdpack sl f d a plane => slotVdpack sl f d a plane s
  | .vtpack sl f d a => slotVtpack sl f d a s
  | .vfadd sl f r d a b k => slotVfadd sl f r d a b k s
  | .vfsub sl f r d a b k => slotVfsub sl f r d a b k s
  | .vfmul sl f r d a b k => slotVfmul sl f r d a b k s
  | .vfma sl f r d a b k => slotVfma sl f r d a b k s
  | .vfnma sl f r d a b k => slotVfnma sl f r d a b k s
  | .vfmin sl f d a b k => slotVfmin sl f d a b k s
  | .vfmax sl f d a b k => slotVfmax sl f d a b k s
  | .vfabs sl f d a k => slotVfabs sl f d a k s
  | .vfneg sl f d a k => slotVfneg sl f d a k s
  | .vfcmp sl f cc kd a b k => slotVfcmp sl f cc kd a b k s
  | .vfredsum sl f r d a k => slotVfredsum sl f r d a k s
  | .vcvt sl t f r d a k => slotVcvt sl t f r d a k s
  | .vbfix sl keep r d a k => slotVbfix sl keep r d a k s
  | .vbflt sl r d a k => slotVbflt sl r d a k s
  | .vrcp sl r d a k => slotVrcp sl r d a k s
  | .vrsq sl r d a k => slotVrsq sl r d a k s
  | .vsqrt sl r d a k => slotVsqrt sl r d a k s
  | .vexp2 sl r d a k => slotVexp2 sl r d a k s
  | .vlog2 sl r d a k => slotVlog2 sl r d a k s
  | .vtanh sl r d a k => slotVtanh sl r d a k s
  | .vsigm sl r d a k => slotVsigm sl r d a k s
  | .wmax sl f d a n k => slotWmax sl f d a n k s
  | .wmin sl f d a n k => slotWmin sl f d a n k s
  | .wclamp sl f d a b k => slotWclamp sl f d a b k s
  | .wmed sl f d a n k => slotWmed sl f d a n k s
  | .wsat sl f d a n k => slotWsat sl f d a n k s
  | .adjb sl d a b xg k => slotAdjb sl d a b xg k s
  | .mcall idx => slotMcall idx s
  | .mcallT idx off => slotMcallT idx off s
  | .mcfg w nat sat => slotMcfg w nat sat s
  | .mloadCode => slotMloadCode s
  | .mloadTable => slotMloadTable s
  | .mhalt => slotMhalt s
  | .qld n a => slotQld n a s
  | .qset n a => slotQset n a s
  | .qclr n => slotQclr n s
  | .dcopy c t eq => slotDcopy c t eq s
  | .dcopy2 c t eq => slotDcopy2 c t eq s
  | .dgath c t eq => slotDgath c t eq s
  | .dscat c t eq => slotDscat c t eq s
  | .dfill c t eq => slotDfill c t eq s
  | .datom c t eq => slotDatom c t eq s
  | .dchase c t eq => slotDchase c t eq s
  | .dmig c t eq => slotDmig c t eq s
  | .adec c t eq => slotAdec c t eq s
  | .aplan c t eq => slotAplan c t eq s
  | .amerge norm c t eq => slotAmerge norm c t eq s
  | .kvinv c t eq => slotKvinv c t eq s
  | .kfork rel c t eq => slotKfork rel c t eq s
  | .gsend c t eq => slotGsend c t eq s
  | .grecv c t eq => slotGrecv c t eq s
  | .gred c t eq => slotGred c t eq s
  | .gtt c eq => slotGtt c eq s
  | .rent x => slotRent x s
  | .prepay x => slotPrepay x s
  | .renew x => slotRenew x s
  | .sublet x => slotSublet x s
  | .vacate x => slotVacate x s
  | .rentq x => slotRentq x s
  | .evwait => slotEvwait s
  | .evpop x => slotEvpop x s
  | .fence scope kind => slotFence scope kind s
  | .realign => slotRealign s
  | .wake x => slotWake x s
  | .jinit x => slotJinit x s
  | .jadd x => slotJadd x s
  | .jdone x => slotJdone x s
  | .jwait x => slotJwait x s
  | .launch x => slotLaunch x s
  | .tbind x => slotTbind x s
  | .tsnap x => slotTsnap x s
  | .troll x => slotTroll x s
  | .tfork x => slotTfork x s
  | .trap n => slotTrap n s
  | .eretRetry => slotEretRetry s
  | .eretSkip => slotEretSkip s
  | .halt => slotHalt s
  | .bundleIssue | .writeLanding | .transferEffect | .nearAccessPerform .. | .trapEntry |
    .microEnd .. | .microLoop .. | .endl | .ldst .. | .swap .. | .strm .. | .wcfg .. | .microZero .. |
    .drn .. | .drnq .. | .drnx .. | .prot | .post .. | .accumulatorAdd | .routineStart |
    .routineTimingFailure | .routineEngineEnding | .routineHalted | .drainSlot |
    .mloadComplete | .commandTranslation .. | .walkComplete .. | .transferStart .. | .timedStartFailure .. |
    .badparamRecord .. | .groupCommandStart .. | .packetPerform .. | .packetReply .. | .enginePortAccess .. |
    .decodePage .. | .groupCommandComplete .. | .tackCommandStart | .tackCommandComplete |
    .fragmentSend .. | .fragmentArrival .. | .receiveDecodeEnd .. | .messageLost .. | .heldMessageDiscard .. |
    .gsendDeadline .. | .grecvWaitExpiry .. | .deliveryNotice .. | .finalLossNotice .. | .heldNotice .. |
    .resendNotice .. | .abandonNotice .. | .reductionTimeout .. | .gredDeadline .. |
    .timetableInstanceStart | .timetableSendEntry .. | .timetableConsumeDeadline .. |
    .timetableInstanceEnd | .tickBoundary | .stallLapse .. | .overstayCharge .. | .stallReclaim .. |
    .reclaimScrub .. | .storageReturn .. | .sharedStoreCommit | .realignRelease | .heatHalving |
    .migrationChoice | .migrationSwitch | .rowMitigation .. | .yardmasterBoundary | .gangTick |
    .snapshotWaitExpiry | .preemptionHalt | .launchResume | .waveEnd | .launchEnd |
    .coreRelease | .launchCopy .. | .memberReport .. | .gangTickNotice .. | .hostWake .. | .wakeRefill |
    .timeTriggeredSlot .. | .deferredSlotEnqueue .. | .topupWrite .. | .ptinvPage .. | .ptinvAll .. |
    .ptinvComplete | .resvWrite .. | .vdctlWrite .. | .dtbaseWrite .. | .ctxctlResumeUser .. |
    .ctxctlResumeDriver .. | .ctxctlEndLeaf .. | .coderateWrite .. | .losstmoWrite .. | .pwrcapWrite .. |
    .registerWrite .. | .eventRingRecord .. | .attreq .. | .attestationComplete | .measurementExtend .. |
    .packageReset | .bowarn | .shedreq | .shedFreeze | .pwrok | .collectiveOrderNotice .. |
    .engineInternalError .. | .partitionRelease .. | .launchDiscard .. => .ok s
/-! ### A bundle's slots (R136, R137) -/

/-- What the slots of a bundle come to: the state they leave, the mask of those that fault, the first cause and its address,
the watchpoints hit (R362), the poisoned granule of cause 0x32 and the first reason to hold. -/
structure Verdict where
  st   : State
  met  : List Word := []
  mask : Nat := 0
  trap : Option (Nat × Word) := none
  hits : Nat := 0
  hold : Option HoldWhy := none
  deriving DecidableEq, Repr

/-- A verdict with one more faulting slot. -/
def Verdict.fault (v : Verdict) (sl : Slot) (code : Nat) (addr : Word) : Verdict :=
  { v with met := if code = 0x32 then v.met ++ [addr] else v.met, mask := v.mask + slotMaskBit sl, trap := match v.trap with | some t => some t | none => some (code, addr) }

/-- R136, R137: one slot of a bundle. A reserved syllable raises cause 0x02 (R243). -/
def checkSlot (v : Verdict) (w : Slot × Nat) : Verdict :=
  match decodeSlot w.1 w.2 with
  | none => v.fault w.1 0x02 0
  | some i =>
    match slotExec i v.st with
    | .ok t => { v with st := t }
    | .trap code addr => v.fault w.1 code addr
    | .watch hits addr => { v.fault w.1 0x40 addr with hits := Nat.lor v.hits hits }
    | .hold why => { v with hold := match v.hold with | some h => some h | none => some why }

/-- R87: the granule that a read of a faulting bundle found poisoned is marked. -/
def State.meetVerdict (s : State) (dev : Nat) (v : Verdict) : State := v.met.foldl (fun s a => s.meetPoison dev 0x32 a) s

/-- R136: every slot of a bundle, in precedence order. -/
def checkSlots (s : State) (ws : List (Slot × Nat)) : Verdict := ws.foldl checkSlot { st := s }

/-! ### A bundle (R126, R127, R138, R251) -/

/-- R72: TSTART is the cycle of the context's first bundle. -/
def Ctx.stampStart (now : Nat) (c : Ctx) : Ctx := if c.bundle = 0 then { c with tstart := now } else c

/-- R127: the empty bundles still to issue at an idle head with a count of its own. -/
def idleLeft (c : Ctx) (m : Nat) : Nat :=
  if c.idleRun ≠ 0 then c.idleRun else if c.returned && c.idleRem ≠ 0 then c.idleRem else m

/-- R133, R251: a context goes on after a bundle: to where the back edge or a skip leads, or to the next head. A return sets
the pc itself (R284). -/
def Ctx.goOn (c : Ctx) (edge : Option Word) (next : Word) : Ctx :=
  let c := { c.countEv 0x01 1 with bundle := c.bundle + 1, hold := none }
  if c.redirected then { c with redirected := false }
  else
    { c with pc := match edge, c.skipTo with | some t, _ => t | none, some t => t | none, none => next
             skipTo := none, returned := false, watchOff := false }

/-- R127: one empty bundle of an idle run. -/
def State.idleBundle (s : State) (key m : Nat) : State :=
  let c := (s.ctx key).stampStart s.station
  let n := idleLeft c m
  let c := { c with idleRem := if c.idleRun = 0 && c.returned then 0 else c.idleRem, idleRun := n - 1 }
  if 1 < n then s.setCtx key (c.goOn (some c.pc) c.pc)
  else
    let e := backEdge c c.pc (c.bundle + 1)
    s.setCtx key ((c.addPend e.1).goOn e.2 (nextHead (codeOf (s.core (keyCore key)) c.ring) c.pc))

/-- The state in which the slots of a context's bundle are checked: the writes of its back edge first, so that those of its
slots prevail (R251). -/
def State.bundleBase (s : State) (key : Nat) : State :=
  { s with cur := key }.modCtx key fun c =>
    let c := c.stampStart s.station
    c.addPend (backEdge c c.pc (c.bundle + 1)).1

/-- R136: a bundle commits. -/
def State.commitBundle (s : State) (key : Nat) (t : State) : State :=
  let c := s.ctx key
  let edge := (backEdge c c.pc (c.bundle + 1)).2
  let t := { t with cur := s.cur }
  if (t.ctx key).run == .ended then t.modCtx key (Ctx.countEv 0x01 1)
  else t.modCtx key fun d => d.goOn edge (nextHead (codeOf (s.core (keyCore key)) c.ring) c.pc)

/-- What a context's bundle comes to as it comes up to issue. -/
inductive Came where
  | commits (s : State)
  | traps (s : State) (r : TrapReq)
  | holds (why : HoldWhy)
  deriving DecidableEq, Repr

/-- R362: the HIT bits of a context. -/
def hitBits (c : Ctx) : Nat := natField c.wstat.toNat 8 4

/-- R136 to R138: the bundle at a context's pc. The watchpoints that its accesses match are hit at issue, also where another slot
faults (R363, log 121). -/
def bundleAt (s : State) (key : Nat) : Came :=
  let c := s.ctx key
  match fetch (s.core (keyCore key)) c.ring c.pc with
  | .bad code addr => .traps s { code := code, addr := addr, mask := 0, async := false }
  | .idle m => .commits (s.idleBundle key m)
  | .bundle ws =>
    let v := checkSlots (s.bundleBase key) ws
    match v.trap, v.hold with
    | some (code, addr), _ =>
      .traps ((s.meetVerdict c.dev v).setHits key (Nat.lor v.hits (hitBits (v.st.ctx key)))) { code := code, addr := addr, mask := v.mask, async := false }
    | none, some why => .holds why
    | none, none => .commits (s.commitBundle key v.st)

/-! ### Stopping and asynchronous causes (R138, R194, R388, R392) -/

/-- R388: the asynchronous cause that a context takes before its next bundle: one posted in an earlier cycle, or the lapse of
a SYNC stall in this one (R62). -/
def asyncNow (s : State) (c : Ctx) : Option Async :=
  if c.ring != .user then none
  else nextAsync (c.async.filter fun a => a.cycle < s.station || a.code == 0x10)

/-- R138, R390: the trap that a context enters before its next bundle: one fixed while another held the path, or an
asynchronous cause, which leaves its list. -/
def pendingTrap (s : State) (key : Nat) : Option (TrapReq × State) :=
  let c := s.ctx key
  match c.trapReq with
  | some r => some (r, s)
  | none => (asyncNow s c).map fun a =>
      ({ code := a.code, addr := a.addr, mask := 0, async := true }, s.setCtx key { c with async := c.async.erase a })

/-- R127, R390: the entry of a trap in the cycle in which the bundle would have issued. A count of IDLEREM stands only at an
idle head. -/
def State.enter (s : State) (key : Nat) (r : TrapReq) : State :=
  let c := s.ctx key
  let idle : Bool := match headAt (codeOf (s.core (keyCore key)) c.ring) c.pc with | .idle _ => true | _ => false
  (s.setCtx key { c with returned := c.returned && idle }).takeTrap key r

/-- A context's attempt to issue: not ready, holding, or using the issue path in this cycle. -/
inductive Attempt where
  | absent
  | holds (s : State)
  | issues (s : State)
  deriving DecidableEq, Repr

/-- R133, R138, R247: the issue path reaches a context. What is due at its bundle comes about as that bundle issues, so a held
one leaves it due. -/
def attempt (s : State) (key : Nat) : Attempt :=
  if (s.ctx key).run != .ready || ctxStops s key then .absent
  else
    let t := s.arrive key
    match pendingTrap t key with
    | some (r, u) => .issues (u.enter key r)
    | none =>
      match bundleAt t key with
      | .commits u => .issues u
      | .traps u r => .issues (u.enter key r)
      | .holds why => .holds (s.markHold key why)

/-- R87, R138, R363: a fault fixed for a context, whose watchpoints are hit as another state of it has them, with the granule that cause
0x32 names marked. -/
def State.fixTrap (s : State) (key : Nat) (t : State) (r : TrapReq) : State :=
  (({ s with flips := t.flips, poison := t.poison, mem := t.mem }).setHits key (hitBits (t.ctx key))).modCtx key fun c => { c with trapReq := some r }

/-- R138: a held bundle that the path does not reach is checked again: a fault is fixed, and a hold that has ended leaves
the context ready. -/
def State.recheck (s : State) (key : Nat) : State :=
  let c := s.ctx key
  match c.hold with
  | none => s
  | some h =>
    if h.freed || c.run != .ready || c.trapReq.isSome || (asyncNow s c).isSome || ctxStops s key then s
    else match bundleAt (s.arrive key) key with
      | .commits _ => s.setCtx key { c with hold := some { h with freed := true } }
      | .traps t r => s.fixTrap key t r
      | .holds why => s.markHold key why

/-! ### The issue path (R16, R17, R277) -/

/-- R17: the contexts of a core in the order in which the path would reach them: the holder first, or those after the one
that held it last. -/
def pathOrder (k : Core) : List Nat :=
  (List.range 4).map fun i => (k.path + i + (if k.free then 1 else 0)) % 4

/-- R277: at a tick boundary a path that no context holds goes to the lowest realigned context first. -/
def issueOrder (s : State) (n : Nat) : List Nat :=
  let k := s.core n
  let o := pathOrder k
  let re := (List.range 4).filter fun i => match (s.ctx (4 * n + i)).hold with | some h => h.why == .realign | none => false
  if k.free && s.station % 1024 == 0 then re ++ o.filter fun i => !re.contains i else o

/-- R17: the path goes down an order until a context uses it; the contexts it did not reach remain. -/
def tryOrder (n : Nat) : List Nat → State → State × Option Nat × List Nat
  | [], s => (s, none, [])
  | i :: is, s =>
    match attempt s (4 * n + i) with
    | .absent => tryOrder n is s
    | .holds t => tryOrder n is t
    | .issues t => (t, some i, is)

/-- R16, R17: one cycle of the issue path of core n. Where the holder blocks and no other context is ready, the spec leaves open where the
order starts once one is: the model starts after the context that issued last, not after the one that blocked last (log 139, DESIGN
CHOICE). -/
def State.issueCore (s : State) (n : Nat) : State :=
  let r := tryOrder n (issueOrder s n) s
  let s := r.1.modCore n fun k => match r.2.1 with
    | some i => { k with path := i, free := false }
    | none => { k with free := true }
  r.2.2.foldl (fun s i => s.recheck (4 * n + i)) s

/-- BUNDLE_ISSUE. -/
def execBundleIssue (s : State) : Host.Outcome State Fault Refusal :=
  let core := s.myCore
  .next (s.issueCore core)

/-- WRITE_LANDING (R133): the writes due at a context's present bundle. -/
def execWriteLanding (s : State) : Host.Outcome State Fault Refusal :=
  let ctx := s.cur
  if (s.ctx ctx).run == .ready then .next (s.landDue ctx) else .next s

/-- TRANSFER_EFFECT (R247): the transfer due at a context's present bundle. -/
def execTransferEffect (s : State) : Host.Outcome State Fault Refusal :=
  let ctx := s.cur
  if (s.ctx ctx).run == .ready then .next (s.modCtx ctx Ctx.takeTransfer) else .next s

/-- TRAP_ENTRY (R390): the trap that waits for a context's next bundle. -/
def execTrapEntry (s : State) : Host.Outcome State Fault Refusal :=
  let ctx := s.cur
  if (s.ctx ctx).run != .ready then .next s
  else match pendingTrap s ctx with
    | some (r, t) => .next (t.enter ctx r)
    | none => .next s

end Sys2Proof.Machine
end

