-- ==== Sys2Proof/Machine/Boundary.lean ====
section
/-!
DEFINITION. Sys2Proof/Machine/Boundary.lean: what a tick boundary does to stalls (R48, R59 to R64), the scrub and the return of
reclaimed storage (R61, R64, R87), buffered stores (R85), `realign` (R277), and the migration of tiered pages (R30 to R33,
R37).
-/
namespace Sys2Proof.Machine

/-- A tick boundary (R3). -/
def atBoundary (s : State) : Bool := s.station % 1024 == 0

/-- R85, R352: the buffered stores that a context issued before the present cycle and that are still on their way to its
buffer. -/
def onTheWay (s : State) (key : Nat) : List Buffered :=
  s.accesses.filterMap fun a =>
    if a.key == key && a.agent == 0 && a.born < s.station then
      (match a.op with | .store cells true => some (a.id, cells) | _ => none)
    else none

/-- R85, R352, R405: a context at a boundary: one that was resumed goes on, and what its store buffer holds now commits, the stores
on their way to it included. -/
def Ctx.goesOn (late : List Buffered) (c : Ctx) : Ctx :=
  { c with run := if c.run == .resuming then .ready else c.run, sbuf := []
           sdue := late.foldl (fun l e => insertBuffered e l) (c.sdue ++ c.sbuf) }

/-- TICK_BOUNDARY: what is counted for each tick begins anew (R406), the average power is reported (R416), and contexts that the
hypervisor ring resumed go on (R405). -/
def execTickBoundary (s : State) : Host.Outcome State Fault Refusal :=
  if atBoundary s then
    .next { s with bwUsed := [], pwrAvg := Config.powerAvg s.tick
                   ctxs := s.ctxs.map fun (e : Nat × Ctx) => (e.1, e.2.goesOn (onTheWay s e.1))
                   accesses := s.accesses.filter fun a => !(a.agent == 0 && a.born < s.station
                     && (match a.op with | .store _ b => b | _ => false)) }
  else .next s

/-! ### SYNC stalls that lapse (R62) -/

/-- R62: the object on which a held context waits: the block of a `jwait` in its present bundle. -/
def waitObject (s : State) (key : Nat) : Option Word :=
  let c := (s.arrive key).ctx key
  match c.hold with
  | some h =>
    if h.why != .job || h.freed || c.run != .ready then none
    else match fetch (s.core (keyCore key)) c.ring c.pc with
      | .bundle ws =>
        match ws.find? fun w => w.1 == .Y with
        | some w => (match decodeSlot .Y w.2 with | some (.jwait x) => some (c.xr x) | _ => none)
        | none => none
      | _ => none
  | none => none

/-- An address lies in a stall by its name. -/
def inStall (id : Nat) (a : Word) : Bool := isStallAddr a && addrStall a == id

/-- R62: a context that waits on an object in the stall takes cause 0x10 at its waiting bundle; at DRIVER ring, where a posted
cause would wait for the return (R388), it is fixed for that bundle (log 123). -/
def State.faultWaiter (s : State) (dev id key : Nat) : State :=
  let c := s.ctx key
  match waitObject s key with
  | some a =>
    if c.dev != dev || !inStall id a then s
    else if c.ring == .user then s.postAsync { key := key, launch := c.launch, dev := dev } 0x10 a
    else s.modCtx key fun c => { c with trapReq := some { code := 0x10, addr := a, mask := 0, async := true } }
  | none => s

/-- R62, R347: the timetable of a core held in the stall ends, and its context takes cause 0x10. -/
def State.faultTable (s : State) (dev id core : Nat) : State :=
  match (s.core core).gtt with
  | some t =>
    if t.own.dev == dev && t.stall == id then
      let a := match s.cmd t.cmd with | some c => c.addr 0 | none => 0
      (s.abortTable core dev id).postAsync t.own 0x10 a
    else s
  | none => s

/-- R62, R347: the same for a timetable that is saved with its core. -/
def State.faultSaved (s : State) (dev id : Nat) (x : SavedCore) : State :=
  match x.gtt with
  | some t =>
    if t.own.dev == dev && t.stall == id then
      let drop := fun (y : SavedCore) => if y.core == x.core && y.launch == x.launch then { y with gtt := none } else y
      let s := { s.modCore x.core (fun k => { k with leanTo := k.leanTo.map drop }) with overflow := s.overflow.map drop }
      match s.cmd t.cmd with
      | some c => (s.finishCmd c t.ran rsEXPIRED stNONE (c.addr 0)).postAsync t.own 0x10 (c.addr 0)
      | none => s
    else s
  | none => s

/-- R62: a launch that waits on a block in the stall is discarded, with a record to the hypervisor ring. -/
def State.dropWaiting (s : State) (dev id : Nat) (l : Launch) : State :=
  if l.dev == dev && l.stage == .waiting && l.record.deps.any (inStall id) then
    { s with launches := s.launches.set none l.id none }.hypRecord (mkRecord l.recAddr s.station dev 0 0 8 3 rsOK stOK 0)
  else s

/-- R62, R279: a SYNC stall leaves ACTIVE. -/
def State.syncLapse (s : State) (dev : Nat) (x : Stall) : State :=
  let s := (s.ctxs.map Prod.fst).foldl (fun s k => s.faultWaiter dev x.id k) s
  let s := (s.cores.map Prod.fst).foldl (fun s n => s.faultTable dev x.id n) s
  let s := ((s.cores.filterMap fun e => e.2.leanTo) ++ s.overflow).foldl (fun s y => s.faultSaved dev x.id y) s
  let s := s.launches.foldl (fun s e => match e.2 with | some l => s.dropWaiting dev x.id l | none => s) s
  (s.armed.filter fun e => x.phys ≤ e.1 && e.1 < x.phys + 64 * x.len && e.2.dev == dev).foldl (fun s e => s.disarm e.1) s

/-! ### Reclaim (R60, R61, R63, R64) -/

/-- A stall of a launch marked as reclaimed. -/
def Launch.forget (dev id : Nat) (l : Launch) : Launch :=
  if l.dev != dev then l
  else { l with far := l.far.map fun (e : Nat × Nat) => if e.2 == id then (e.1, id + 2 ^ 15) else e
                near := l.near.map fun (e : Nat × Nat × Nat) => if e.2.2 == id then (e.1, e.2.1, id + 2 ^ 15) else e }

/-- R61: what leaves the package with a stall of any kind: its bindings in the tack rooms and its translations; the launch that
rented it no longer vacates it. -/
def State.forgetStall (s : State) (dev id : Nat) : State :=
  { s with
    launches := s.launches.map fun (e : Nat × Option Launch) => (e.1, e.2.map (Launch.forget dev id))
    cores := (s.cores.map fun (e : Nat × Core) => (e.1, e.2.unbindStall dev id)).filter fun e => e.2 != {}
    tcache := (s.tcache.map fun (e : Nat × List TEntry) =>
      (e.1, e.2.filter fun t => !(t.dev == dev && 2 ^ 60 ≤ t.page && (t.page - 2 ^ 60) / 2 ^ 32 == id))).filter fun e => !e.2.isEmpty }

/-- Granules of HBM that the pages of a TIER stall occupy on each die, without those that a move has taken over. -/
def hbmPages (s : State) (dev id : Nat) : List Nat :=
  (List.range 4).map fun die =>
    1024 * (s.tier.filter fun p => p.dev == dev && p.id == id && p.hbm && p.die == die
      && !(match s.moves.get none die with | some v => v.swap == some (p.dev, p.id, p.page) | none => false)).length

/-- One page of HBM of a die, as granules of the pools. -/
def onePage (die : Nat) : List Nat := (List.range 4).map fun d => if d = die then 1024 else 0

/-- R31: a move of a reclaimed stall's page: as candidate it is given up, and the place reserved for it is free; a page that was
to leave HBM leaves its place to the candidate. -/
def State.dropMove (s : State) (dev id die : Nat) : State :=
  match s.moves.get none die with
  | none => s
  | some v =>
    let of := fun (n : Nat × Nat × Nat) => n.1 == dev && n.2.1 == id
    if of v.cand then
      let s := { s with moves := s.moves.set none die none }
      if v.swap.isSome then s else s.givePool 3 (onePage die)
    else if v.swap.any of then { s with moves := s.moves.set none die (some { v with swap := none }) }
    else s

/-- R61, R64: the storage of a root stall is scrubbed, and returns to its pool four boundaries later. -/
def State.freeRoot (s : State) (dev : Nat) (x : Stall) : State :=
  let hbm := hbmPages s dev x.id
  let s := (List.range 4).foldl (fun s die => s.dropMove dev x.id die) s
  { s with
    nextId := s.nextId + 3
    scrubs := s.scrubs ++ [{ id := s.nextId, due := s.station + 8, phys := x.phys, len := 64 * x.len }]
    returning := s.returning ++
      [{ id := s.nextId + 1, due := s.tick + 4, phys := x.phys, len := x.len, level := x.level, need := x.split },
       { id := s.nextId + 2, due := s.tick + 4, phys := x.phys, len := 0, level := 3, need := hbm }]
    tier := s.tier.filter fun (p : TierPage) => !(p.dev == dev && p.id == x.id) }

/-- R62: a SYNC stall that leaves ACTIVE, by the boundary's processing or with an ancestor that is reclaimed. -/
def State.leaveActive (s : State) (dev : Nat) (x : Stall) : State :=
  if x.sync && x.id != 0 && x.st == .active then
    let t := s.syncLapse dev x
    t.setStall dev x.id { t.stall dev x.id with st := .lapsed }
  else s

/-- R60, R61: a stall is reclaimed, and its descendants before it; fuel bounds the depth of sublets. -/
def State.reclaim : Nat → State → Nat → Nat → State
  | 0, s, _, _ => s
  | f + 1, s, dev, id =>
    let kids := ((s.dev dev).stalls.filter fun e => e.2.parent == id).map Prod.fst
    let s := kids.foldl (fun s k => State.reclaim f s dev k) s
    let s := s.leaveActive dev (s.stall dev id)
    let x := s.stall dev id
    let s := s.setStall dev id {}
    let s := if x.parent = 0 then s.freeRoot dev x
      else
        let p := s.stall dev x.parent
        if p.id = 0 then s else s.setStall dev x.parent { p with children := p.children - 1 }
    s.forgetStall dev id

/-- A stall's whole family goes with it. -/
def State.reclaimStall (s : State) (dev id : Nat) : State := State.reclaim 32768 s dev id

/-! ### The boundary processing of R48 -/

/-- R48, R59: an ACTIVE stall leaves ACTIVE at this boundary: its own rent has run out, or its parent has left. -/
def leavesActive (s : State) (dev : Nat) (x : Stall) : Bool :=
  x.id != 0 && x.st == .active && (x.paid ≤ s.tick || (x.parent != 0 && (s.stall dev x.parent).st != .active)
    || (x.parent != 0 && (s.stall dev x.parent).id == 0))

/-- STALL_LAPSE (R48). -/
def execStallLapse (dev stall : Nat) (s : State) : Host.Outcome State Fault Refusal :=
  let x := s.stall dev stall
  if !atBoundary s || !leavesActive s dev x then .next s
  else
    let s := s.leaveActive dev x
    let x := s.stall dev stall
    if 0 < x.liens then .next (s.setStall dev stall { x with st := .overstay })
    else if x.vac then .next (s.reclaimStall dev stall)
    else .next (s.setStall dev stall { x with st := .lapsed })

/-- OVERSTAY_CHARGE (R48): the tick is paid at twice the rate while a lien is held; without one the stall lapses, or is
reclaimed if it was vacated. -/
def execOverstayCharge (dev stall : Nat) (s : State) : Host.Outcome State Fault Refusal :=
  let x := s.stall dev stall
  if !atBoundary s || x.id = 0 || x.st != .overstay then .next s
  else if 0 < x.liens then
    if x.paid ≤ s.tick then
      .next ((s.modDev dev fun d => d.debit x.acct (2 * x.rate * x.cg)).setStall dev stall { x with paid := s.tick + 1 })
    else .next s
  else if x.vac then .next (s.reclaimStall dev stall)
  else .next (s.setStall dev stall { x with st := .lapsed })

/-- R48, R54, R63: a LAPSED stall is reclaimed at this boundary: its grace is over, or it was vacated and holds no lien (log
126). -/
def reclaimDue (s : State) (dev : Nat) (x : Stall) : Bool :=
  x.id != 0 && x.st == .lapsed && ((x.vac && x.liens == 0) || x.paid + (s.dev dev).grace ≤ s.tick)

/-- STALL_RECLAIM (R48, R54, R63). -/
def execStallReclaim (dev stall : Nat) (s : State) : Host.Outcome State Fault Refusal :=
  let x := s.stall dev stall
  if atBoundary s && reclaimDue s dev x then .next (s.reclaimStall dev stall)
  else .next s

/-- RECLAIM_SCRUB (R61, R87): zeros, and no poison, over the whole range. -/
def execReclaimScrub (scrub : Nat) (s : State) : Host.Outcome State Fault Refusal :=
  match s.scrubs.find? fun r => r.id == scrub with
  | some r =>
    if s.station < r.due then .next s
    else .next { s with mem := s.mem.clear r.phys r.len
                        poison := s.poison.filter fun g => 64 * g + 64 ≤ r.phys || r.phys + r.len ≤ 64 * g
                        flips := s.flips.filter fun e => e.1 < r.phys || r.phys + r.len ≤ e.1
                        scrubs := s.scrubs.filter fun q => q.id != scrub }
  | none => .next s

/-- STORAGE_RETURN (R64). -/
def execStorageReturn (ret : Nat) (s : State) : Host.Outcome State Fault Refusal :=
  match s.returning.find? fun r => r.id == ret with
  | some r =>
    if !atBoundary s || s.tick < r.due then .next s
    else
      let s := { s with returning := s.returning.filter fun q => q.id != ret }
      .next (if isNearLevel r.level then s else s.givePool r.level r.need)
  | none => .next s

/-! ### Contexts at a boundary (R85, R277) -/

/-- SHARED_STORE_COMMIT (R85): a context's store buffer is emptied into memory, in issue order. -/
def execSharedStoreCommit (s : State) : Host.Outcome State Fault Refusal :=
  let ctx := s.cur
  let c := s.ctx ctx
  if atBoundary s && !c.sdue.isEmpty then
    .next (c.sdue.foldl (fun s b => s.storeCells b.2) (s.setCtx ctx { c with sdue := [] }))
  else .next s

/-- REALIGN_RELEASE (R277): a context held by `realign` since an earlier tick is ready. -/
def execRealignRelease (s : State) : Host.Outcome State Fault Refusal :=
  let ctx := s.cur
  let c := s.ctx ctx
  match c.hold with
  | some h =>
    if atBoundary s && h.why == .realign && h.since / 1024 < s.tick then
      .next (s.setCtx ctx { c with hold := some { h with freed := true } })
    else .next s
  | none => .next s

/-! ### Tiered pages (R30 to R33) -/

/-- R33: MIGCTL of a die. -/
def State.mig (s : State) (die : Nat) : MigCtl := s.migctl.get {} die

/-- HEAT_HALVING (R30). -/
def execHeatHalving (s : State) : Host.Outcome State Fault Refusal :=
  let die := s.cur
  let m := s.mig die
  if atBoundary s && m.epoch != 0 && s.tick % m.epoch == 0 then
    .next { s with tier := s.tier.map fun (p : TierPage) => if p.die == die then { p with heat := p.heat / 2 } else p }
  else .next s

/-- R31: ties go to the lowest device, stall id and page. -/
def nameLt (a b : Nat × Nat × Nat) : Bool :=
  a.1 < b.1 || (a.1 == b.1 && (a.2.1 < b.2.1 || (a.2.1 == b.2.1 && a.2.2 < b.2.2)))

/-- R31: the name of a page, in the order of ties. -/
def TierPage.name (p : TierPage) : Nat × Nat × Nat := (p.dev, p.id, p.page)

/-- R32: a command holds a translation of the page. -/
def pageHeld (s : State) (n : Nat × Nat × Nat) : Bool :=
  s.cmds.any fun e => match e.2 with
    | some c => c.own.dev == n.1 && c.stage != .posted && c.got.any fun t => 2 ^ 60 ≤ t.page && touchesPage s n t.target
    | none => false

/-- R32: a page that may be chosen. -/
def pageFree (s : State) (p : TierPage) : Bool :=
  let x := s.stall p.dev p.id
  x.liens == 0 && x.st == .active && x.id != 0 && !pageHeld s p.name

/-- R31: the best page of a list, by a comparison of heats and then by name. -/
def bestPage (hotter : Nat → Nat → Bool) : List TierPage → Option TierPage
  | [] => none
  | p :: ps => match bestPage hotter ps with
    | none => some p
    | some q => if hotter p.heat q.heat || (p.heat == q.heat && nameLt p.name q.name) then some p else some q

/-- R31: the move that a die's migration engine would choose. A place for a TIER page is free in the die's HBM while 1,024 granules
of it are (log 5). -/
def chooseMove (s : State) (die : Nat) : Option Move :=
  let m := s.mig die
  let mine := s.tier.filter fun p => p.die == die && pageFree s p
  match bestPage (fun a b => b < a) (mine.filter fun p => !p.hbm && m.promote ≤ p.heat) with
  | none => none
  | some p =>
    if 1024 ≤ s.poolHbm.getD die 0 then some { cand := p.name, swap := none }
    else (bestPage (fun a b => a < b) (mine.filter fun q => q.hbm && q.heat ≤ m.demote)).map fun q =>
      { cand := p.name, swap := some q.name }

/-- The translations of a page removed from every die's cache, by the stall that was rented and by those sublet of it. -/
def State.dropPage (s : State) (n : Nat × Nat × Nat) : State :=
  let of := fun (t : TEntry) => t.dev == n.1 && 2 ^ 60 ≤ t.page && touchesPage s n t.target
  { s with tcache := (s.tcache.map fun (e : Nat × List TEntry) => (e.1, e.2.filter fun t => !of t)).filter fun e => !e.2.isEmpty }

/-- MIGRATION_CHOICE (R31): an idle, enabled engine chooses at most one move, and a free place that it needs is taken. Translations
of the pages wait from here on (R32). -/
def execMigrationChoice (s : State) : Host.Outcome State Fault Refusal :=
  let die := s.cur
  let m := s.mig die
  if !atBoundary s || !m.en || m.pause || (s.moves.get none die).isSome then .next s
  else match chooseMove s die with
    | some v =>
      let s := { s with moves := s.moves.set none die (some v) }.dropPage v.cand
      .next (match v.swap with | some n => s.dropPage n | none => s.takePool 3 (onePage die))
    | none => .next s

/-- R31: pages in their new places. A page that leaves HBM and had no loft storage of its stall takes over the candidate's. -/
def switchPages (v : Move) (own : Bool) (p : TierPage) : TierPage :=
  if p.name == v.cand then { p with hbm := true, loft := own }
  else match v.swap with
    | some n => if p.name == n then { p with hbm := false, loft := true } else p
    | none => p

/-- R31, R64: a page of loft storage passes from one stall to another with the exchange of two pages. -/
def State.passLoft (s : State) (a b : Nat × Nat × Nat) : State :=
  let x := s.stall a.1 a.2.1
  let m := spread x.split 1024
  let s := s.setStall a.1 a.2.1 { x with split := List.zipWith (· - ·) x.split m }
  let y := s.stall b.1 b.2.1
  s.setStall b.1 b.2.1 { y with split := List.zipWith (· + ·) y.split m }

/-- R31: the switch of a die's move: the page lists are switched and the pages' translations go, in one cycle; the owner of the
candidate counts the move (R408). -/
def State.switchMove (s : State) (die : Nat) : State :=
  match s.moves.get none die with
  | none => s
  | some v =>
    let own := match v.swap with | some n => s.tier.any fun p => p.name == n && p.loft | none => true
    let s := { s with moves := s.moves.set none die none }
    let s := match v.swap with | some n => if own then s else s.passLoft v.cand n | none => s
    let s := ({ s with tier := s.tier.map (switchPages v own) }.dropPage v.cand).countDev v.cand.1 0x05 1
    match v.swap with | some n => s.dropPage n | none => s

/-- MIGRATION_SWITCH (R31). -/
def execMigrationSwitch (s : State) : Host.Outcome State Fault Refusal := .next (s.switchMove s.cur)

/-- R32: pages under n bytes from a physical address that are being moved are switched, where a step is to reach the bytes. -/
def State.reach (s : State) (p n : Nat) : State :=
  (List.range 4).foldl (fun s die => if moveTouches s die p n then s.switchMove die else s) s

/-- ROW_MITIGATION (R37): a tracked row, named by its stack and by channel, bank and row as R404 packs them, is mitigated: the counter of the device that the tracker holds rises,
280 cycles of the stack's bank time are charged to it (R406), and a record goes to the hypervisor ring. -/
def execRowMitigation (stack : BitVec 8) (row : BitVec 40) (s : State) : Host.Outcome State Fault Refusal :=
  let place := stack.toNat * 2 ^ 40 + row.toNat
  let n := s.rows.get 0 place
  if n = 0 then .next s
  else
    let dev := n - 1
    let key := dev * 256 + stack.toNat
    let s := { s with rows := s.rows.set 0 place 0, bwUsed := s.bwUsed.set 0 key (s.bwUsed.get 0 key + 280) }
    .next (((s.modDev dev fun d => { d with mitcnt := min (d.mitcnt + 1) (ones 32) }).countDev dev 0x06 1).hypRecord
      (mkRecord (BitVec.ofNat 64 place) s.station dev 0 0 8 2 rsOK stOK 0))

end Sys2Proof.Machine
end

