-- ==== Sys2Proof/Machine/Micro.lean ====
section
/-!
DEFINITION. Sys2Proof/Machine/Micro.lean: the micro-ops (R319 to R327) and what the units of the array engine do in each
cycle: the loader (R142), the streamer and its adds (R141, R144), and the drain unit (R155 to R158, R326).
-/
namespace Sys2Proof.Machine

/-! ### The sequencer (R150, R151, R319 to R321) -/

/-- R150, R318: the routine whose sequencer issues a micro-op in this cycle. -/
def microReady (s : State) (n : Nat) : Option Routine :=
  match (s.core n).eng.routine with
  | some r =>
    if r.issued < s.station && r.ending.isNone && !(s.core n).stopping
      && (match r.marked with | none => true | some m => m == s.station) then some r else none
  | none => none

/-- R320: stage predicate j of the innermost open loop. -/
def stagePred (r : Routine) (j : Nat) : Bool :=
  match r.loops with
  | [] => j == 0
  | l :: _ => l.sp.getD j false

/-- R150, R320: a micro-op's predicate holds. -/
def predOn (r : Routine) : MPred → Bool
  | .always => true
  | .sp0 => stagePred r 0
  | .sp1 => stagePred r 1
  | .sp2 => stagePred r 2
  | .sp3 => stagePred r 3

/-- What a micro-op does as it comes up to issue: its effect, a wait (R150), or an ENGINE ending (R319). -/
inductive MOut where
  | ok (s : State)
  | wait
  | engine
  deriving DecidableEq, Repr

/-- The routine of core n changed. -/
def State.modRoutine (s : State) (n : Nat) (f : Routine → Routine) : State :=
  s.modEng n fun e => { e with routine := e.routine.map f }

/-- R319: the sequencer goes on to the next index. -/
def State.advance (s : State) (n : Nat) : State :=
  s.modRoutine n fun r => { r with pc := r.pc + 1, issued := s.station }

/-- R150: an ENGINE ending caused by the micro-op at the present index. -/
def State.engineEnding (s : State) (n : Nat) : State :=
  s.modRoutine n fun r => { r with ending := some (.engine r.pc), issued := s.station }

/-- R150, R319: one micro-op of the sequencer of the core in s.cur. -/
def microOp (p : MPred) (f : Nat → Engine → Routine → State → MOut) (s : State) : Host.Outcome State Fault Refusal :=
  let n := s.myCore
  match microReady s n with
  | none => .next s
  | some r =>
    if !predOn r p then .next (s.advance n)
    else match f n (s.core n).eng r s with
      | .ok t => .next (t.advance n)
      | .wait => .next s
      | .engine => .next (s.engineEnding n)

/-- R148: snap[i]. -/
def snapAt (r : Routine) (i : BitVec 3) : Word := r.snap.getD i.toNat 0

/-- R321: Step(S); none where fewer loops are open than SE needs. -/
def stepTerm (r : Routine) (st : Step) (par : BitVec 3) : Option Int :=
  if !st.on then some 0
  else match r.loops.reverse[st.level.toNat]? with
    | some l => some (l.run * signExt (snapAt r par).toNat 32)
    | none => none

/-- R321: Near(P, IMM, S). -/
def nearTerm (r : Routine) (st : Step) (par : BitVec 3) (imm : Int) (stp : BitVec 3) : Option Word :=
  (stepTerm r st stp).map fun t => snapAt r par + BitVec.ofInt 64 (imm + t)

/-- R150, R321: n bytes at an address lie in a stall that the routine locked, of the level given, on the own core. -/
def lockedAt (s : State) (core : Nat) (r : Routine) (level : Nat) (a : Word) (n : Nat) : Option Stall :=
  let x := (s.dev r.own.dev).stall (addrStall a)
  if isStallAddr a && r.liens.contains (addrStall a) && x.level == level && x.core == core && addrOffset a + n ≤ 64 * x.len
  then some x else none

/-- R153: planes of a format pair. -/
def planesOf (mfmt : Nat) : Nat := max 1 (mfmt % 4)
/-- R153: the format pair names TERN. -/
def isTern (mfmt : Nat) : Bool := mfmt % 4 == 0

/-- R321, R326: the physical address of the first of n accumulator rows, AccRow + extra on from the rows of PA. -/
def accTerm (s : State) (core : Nat) (r : Routine) (st : Step) (pa : BitVec 3) (row : Nat) (sa : BitVec 3) (n : Nat) :
    Option Nat :=
  let p := snapAt r pa
  match stepTerm r st sa with
  | none => none
  | some t =>
    let k : Int := (addrOffset p / 2048 : Nat) + (row : Int) + t
    if addrOffset p % 2048 ≠ 0 || k < 0 || 2 ^ 48 ≤ 2048 * k then none
    else match lockedAt s core r 0 (stallAddr (addrStall p) (2048 * k.toNat)) (2048 * n) with
      | some x => some (x.phys + 2048 * k.toNat)
      | none => none

/-- R151, R322: `end`. -/
def execMicroEnd (p : MPred) (s : State) : Host.Outcome State Fault Refusal :=
  microOp p (fun n e r s => if e.idle then .ok (s.endRoutine n r rsOK stOK 0) else .wait) s

/-- R151: the loop that `loop` opens. -/
def openLoopM (body c e : Nat) : MLoop := { body := body, count := c, total := c + e, run := 0, sp := [true, false, false, false] }

/-- R151, R322: `loop`. -/
def execMicroLoop (cp : Bool) (e : BitVec 2) (par : BitVec 3) (count : BitVec 16) (s : State) :
    Host.Outcome State Fault Refusal :=
  microOp .always (fun n _ r s =>
    let c := if cp then (snapAt r par).toNat % 2 ^ 16 else count.toNat
    if c = 0 || 4 ≤ r.loops.length then .engine
    else .ok (s.modRoutine n fun r => { r with loops := openLoopM (r.pc + 1) c e.toNat :: r.loops })) s

/-- R322: `endl`. The wrapper moves one index on from the one set here. -/
def execEndl (s : State) : Host.Outcome State Fault Refusal :=
  microOp .always (fun n _ r s =>
    match r.loops with
    | [] => .engine
    | l :: rest =>
      if l.run + 1 < l.total then
        .ok (s.modRoutine n fun r => { r with pc := l.body - 1, loops := { l with run := l.run + 1 } :: rest })
      else .ok (s.modRoutine n fun r => { r with loops := rest })) s

/-- R151: `prot`. -/
def execProt (s : State) : Host.Outcome State Fault Refusal :=
  microOp .always (fun n _ r s =>
    match r.loops with
    | [] => .engine
    | l :: rest =>
      .ok (s.modRoutine n fun r =>
        { r with loops := { l with sp := decide (l.run + 1 < l.count) :: l.sp.take 3 } :: rest })) s

/-- R152: `post`, once an entry can be reserved. -/
def execPost (p : MPred) (code : BitVec 16) (s : State) : Host.Outcome State Fault Refusal :=
  microOp p (fun _ _ r s =>
    if (s.ownerCtx r.own).evRoom then
      .ok ((s.modOwner r.own Ctx.reserve).postRecord r.own (engRecord r.own 2 code.toNat s.station 0 rsOK stOK))
    else .wait) s

/-! ### Loading weights (R142, R143, R323) -/

/-- R142: bytes between rows of a source. -/
def rowPitch (tern : Bool) : Nat := if tern then 103 else 256

/-- R323: the name under which a layer's source is kept for replay. -/
def sourceName (phys : Nat) (tern : Bool) : Nat := phys * 2 + bnat tern + 1

/-- R323: `ldst`. -/
def execLdst (p : MPred) (st : Step) (layer : BitVec 2) (src stp : BitVec 3) (imm : BitVec 24) (s : State) :
    Host.Outcome State Fault Refusal :=
  microOp p (fun n e r s =>
    if e.loader.isSome then .wait
    else if planesOf e.mfmt ≤ layer.toNat then .engine
    else
      let tern := isTern e.mfmt
      match nearTerm r st src imm.toInt stp with
      | none => .engine
      | some a =>
        match lockedAt s n r 1 a (512 * rowPitch tern) with
        | none => .engine
        | some x =>
          .ok (s.modEng n fun e =>
            { e with loader := some { layer := layer.toNat, src := x.at a, tern := tern, step := 0 }
                     shaSrc := e.shaSrc.set 0 layer.toNat (sourceName (x.at a) tern) })) s

/-- R143: `swap`. -/
def execSwap (p : MPred) (s : State) : Host.Outcome State Fault Refusal :=
  microOp p (fun n e _ s =>
    if e.loader.isSome || e.stream.isSome then .wait
    else .ok (s.modEng n fun e =>
      { e with active := e.shadow, shadow := e.active, actSrc := e.shaSrc, shaSrc := e.actSrc })) s

/-- R108: a nibble as the loader keeps it, an invalid code as 0; and whether it is invalid. -/
def loadDigit (c : Nat) : Nat × Bool :=
  if c % 16 % 8 ≤ 4 then (c % 16, false) else (0, true)

/-- R109: trit i of a TW5 byte as a digit code; codes 243 to 255 give 0. -/
def loadTrit (b i : Nat) : Nat :=
  if 243 ≤ b then 0
  else match b / 3 ^ i % 3 with
    | 0 => 9
    | 1 => 0
    | _ => 1

/-- R142: one row of a layer from its bytes: the digit codes and whether some code was invalid. -/
def decodeRow (tern : Bool) (bs : List Byte) : Nat × Bool :=
  if tern then
    (packLanes 4 (fun n => loadTrit (bs.getD (n / 5) 0).toNat (n % 5)) 512, bs.any fun b => 243 ≤ b.toNat)
  else
    let w := bytesToNat bs
    (packLanes 4 (fun n => (loadDigit (laneAt w 4 n)).1) 512, (List.range 512).any fun n => (loadDigit (laneAt w 4 n)).2)

/-- The device address of a physical address in a stall locked by a routine (R362). -/
def lockedName (s : State) (r : Routine) (phys : Nat) : Word :=
  match r.liens.find? fun id => let x := (s.dev r.own.dev).stall id; x.phys ≤ phys && phys < x.phys + 64 * x.len with
  | some id => stallAddr id (phys - ((s.dev r.own.dev).stall id).phys)
  | none => 0

/-- R36: a granule's address from an address in it. -/
def granuleOf (a : Word) : Word := BitVec.ofNat 64 (a.toNat / 64 * 64)

/-- R36, R87: some granule of n bytes that a unit reads is poisoned. -/
def readsPoison (s : State) (p n : Nat) : Bool := !(s.poison.isEmpty && s.flips.isEmpty) && (firstPoison s p n).isSome

/-- R36: the routine of core n has read n bytes; its record names the first poisoned granule that it ever read. -/
def State.noteRow (s : State) (n p len : Nat) : State :=
  if !readsPoison s p len then s
  else s.modRoutine n fun r =>
    { r with bad := some (r.bad.getD (granuleOf (lockedName s r (p + (firstPoison s p len).getD 0)))) }

/-- R36, R87: n bytes that the routine of a core reads: what is poisoned is noted, and what can be corrected is. -/
def State.readRow (s : State) (n p len : Nat) : State := (s.noteRow n p len).scan p len

/-- R36: the granules of n bytes, where they are to be marked. -/
def markedIf (bad : Bool) (p n : Nat) : List Nat := if bad then (List.range (ceilDiv (p % 64 + n) 64)).map (p / 64 + ·) else []

/-- R36: granules marked as poisoned. -/
def State.markBad (s : State) (gs : List Nat) : State := { s with poison := s.poison ++ gs.filter fun g => !s.poison.contains g }

/-- R159: bits of the MSTAT of the context whose routine runs on core n. -/
def State.setMstat (s : State) (n bits : Nat) : State :=
  match (s.core n).eng.routine with
  | some r => s.modOwner r.own fun c => { c with mstat := Nat.lor c.mstat bits }
  | none => s

/-- R159: FMT, ASAT, DSAT, DOF and DNV. -/
def msFMT : Nat := 1
def msASAT : Nat := 2
def msDSAT : Nat := 4
def msDOF : Nat := 8
def msDNV : Nat := 16

/-- R79: the NEAR banks of n bytes from a physical address. -/
def banksOf (phys n : Nat) : List Nat := (List.range (ceilDiv (phys % 64 + n) 64)).map fun i => (phys / 64 + i) % 32

/-- R142: rows 4j to 4j + 3 of a loader's source: the digit codes and whether some code was invalid. -/
def loadedRows (s : State) (l : Loader) : List (Nat × Nat × Bool) :=
  let pitch := rowPitch l.tern
  (List.range 4).map fun i => (4 * l.step + i, decodeRow l.tern (s.mem.readN (l.src + pitch * (4 * l.step + i)) pitch))

/-- R142: rows put into a layer of a plane. -/
def putRows (plane : FMap Layer) (layer : Nat) (rows : List (Nat × Nat × Bool)) : FMap Layer :=
  plane.set [] layer (rows.foldl (fun m r => m.set 0 r.1 r.2.1) (plane.get [] layer))

/-- The loader after a step. -/
def Loader.after (l : Loader) : Option Loader := if l.step + 1 < 128 then some { l with step := l.step + 1 } else none

/-- R142: step j of the loader: rows 4j to 4j + 3. -/
def State.loaderStep (s : State) (n : Nat) (l : Loader) : State :=
  let rows := loadedRows s l
  let s := s.modEng n fun e => { e with shadow := putRows e.shadow l.layer rows, loader := l.after }
  if rows.any fun r => r.2.2 then s.setMstat n msFMT else s

/-- R161: the bytes of a layer's source lie in a near stall of the core's launch; where its stall has gone, the addresses hold nothing
that the spec names. -/
def sourceThere (s : State) (n p len : Nat) : Bool :=
  match s.launch (s.core n).owner with
  | some l => (s.dev l.dev).stalls.any fun e =>
      e.2.id != 0 && e.2.level == 1 && e.2.core == n && e.2.phys ≤ p && p + len ≤ e.2.phys + 64 * e.2.len
  | none => false

/-- R161: one step of the replay of a layer, from what its source holds now; a source that is gone gives free digits (log 110). -/
def State.replayStep (s : State) (n : Nat) (act : Bool) (l : Loader) : State :=
  let there := sourceThere s n l.src (512 * rowPitch l.tern)
  let s := if there then s.readRow n (l.src + 4 * rowPitch l.tern * l.step) (4 * rowPitch l.tern) else s
  let rows := if there then loadedRows s l
    else (List.range 4).map fun i => (4 * l.step + i, freeRow (s.freeCtr + 512 * i), false)
  let s := if there then s else { s with freeCtr := s.freeCtr + 2048 }
  let s := s.modEng n fun e =>
    if act then { e with active := putRows e.active l.layer rows, loader := l.after }
    else { e with shadow := putRows e.shadow l.layer rows, loader := l.after }
  if rows.any fun r => r.2.2 then s.setMstat n msFMT else s

/-! ### The window and streams (R90, R141, R144, R324, R325) -/

/-- R90: the loop indices of row m. -/
def windowIndex (cnt : List Nat) (m j : Nat) : Nat :=
  m / (cnt.take j).foldl (fun a b => a * b) 1 % max 1 (cnt.getD j 1)

/-- R90: the offset of row m from the window's first row. -/
def windowOffset (w : Window) (m : Nat) : Int :=
  (List.range 4).foldl (fun a j => a + (windowIndex w.cnt m j : Int) * w.str.getD j 0) 0

/-- R324: the offsets of the first and last row in address order. -/
def windowSpan (w : Window) : Int × Int :=
  (List.range 4).foldl (fun a j =>
    let d : Int := ((w.cnt.getD j 1 : Int) - 1) * w.str.getD j 0
    (a.1 + min 0 d, a.2 + max 0 d)) (0, 0)

/-- A row of a window at an offset lies in the locked NEAR stalls. -/
def windowRowOk (s : State) (core : Nat) (r : Routine) (base : Word) (len : Nat) (o : Int) : Bool :=
  (lockedAt s core r 1 (base + BitVec.ofInt 64 o) len).isSome

/-- R324: every row of the window lies in the locked NEAR stalls; where the outermost two lie in one stall, so does every
row between. -/
def windowOk (s : State) (core : Nat) (r : Routine) (w : Window) : Bool :=
  let base : Word := BitVec.ofNat 64 w.wbase
  let sp := windowSpan w
  let lo := base + BitVec.ofInt 64 sp.1
  let hi := base + BitVec.ofInt 64 sp.2
  if windowRowOk s core r base w.len sp.1 && windowRowOk s core r base w.len sp.2 && addrStall lo == addrStall hi
    && sp.2 - sp.1 < (2 ^ 48 : Nat) then true
  else (List.range (w.cnt.foldl (fun a b => a * b) 1)).all fun m => windowRowOk s core r base w.len (windowOffset w m)

/-- R324: the window of a descriptor; none for a value outside the limits. -/
def windowOf (bs : List Byte) : Option Window :=
  let f := fun (o n : Nat) => bytesToNat ((bs.drop o).take n)
  let w : Window := { wbase := f 0 8, len := f 8 2, cnt := (List.range 4).map fun i => f (16 + 2 * i) 2
                      str := (List.range 4).map fun i => signExt (f (24 + 4 * i) 4) 32 }
  if w.len = 0 || 512 < w.len || w.cnt.any (· == 0) || f 10 6 ≠ 0 || f 40 24 ≠ 0 then none else some w

/-- R324: `wcfg`. -/
def execWcfg (p : MPred) (st : Step) (par stp : BitVec 3) (imm : BitVec 24) (s : State) :
    Host.Outcome State Fault Refusal :=
  microOp p (fun n e r s =>
    if e.stream.isSome then .wait
    else match nearTerm r st par imm.toInt stp with
      | none => .engine
      | some a =>
        match lockedAt s n r 1 a 64 with
        | none => .engine
        | some x =>
          let t := s.readRow n (x.at a) 64
          if addrOffset a % 64 ≠ 0 then .engine
          else match windowOf (t.mem.readN (x.at a) 64) with
            | none => .engine
            | some w => if windowOk s n r w then .ok (t.modEng n fun e => { e with window := w }) else .engine) s

/-- R325: `strm`. -/
def execStrm (p : MPred) (st : Step) (m : BitVec 16) (pa : BitVec 3) (arow : BitVec 10) (sa sw : BitVec 3)
    (wofs : BitVec 17) (s : State) : Host.Outcome State Fault Refusal :=
  microOp p (fun n e r s =>
    if e.stream.isSome then .wait
    else match stepTerm r st sw, accTerm s n r st pa arow.toNat sa m.toNat with
      | some t, some acc =>
        let base : Word := BitVec.ofNat 64 e.window.wbase + BitVec.ofInt 64 (wofs.toInt + t)
        if e.window.len = 0 || m = 0
          || !(List.range m.toNat).all fun i => windowRowOk s n r base e.window.len (windowOffset e.window i) then .engine
        else .ok (s.modEng n fun e =>
          { e with stream := some { start := s.station, rows := m.toNat, next := 0, acc := acc, base := base
                                    dev := r.own.dev, planes := planesOf e.mfmt } })
      | _, _ => .engine) s

/-- R108: the value of a digit code. -/
def digitVal (c : Nat) : Int := if c / 8 % 2 = 1 then -((c % 8 : Nat) : Int) else (c % 8 : Nat)

/-- R141: the activations of a row: LEN bytes, the rest zero. -/
def rowActs (mfmt : Nat) (bs : List Byte) : List Int :=
  bs.map fun b => if mfmt / 4 % 2 = 1 then (b.toNat : Int) else b.toInt

/-- R141: S_p(n) of one layer over rows (activation, digit codes); with WSGN each trit counts one more. -/
def layerSum (wsgn : Bool) (rows : List (Int × Nat)) (n : Nat) : Int :=
  rows.foldl (fun a r => a + r.1 * (digitVal (laneAt r.2 4 n) + (if wsgn then 1 else 0))) 0

/-- R141: the rows that an activation other than zero meets in a layer. -/
def meetLayer (acts : List Int) (l : Layer) : List (Int × Nat) :=
  (List.range acts.length).filterMap fun k =>
    let a := acts.getD k 0
    if a = 0 then none else some (a, l.get 0 k)

/-- R112, R141: the contribution of a row to the 512 columns. -/
def contribution (mfmt planes : Nat) (plane : FMap Layer) (acts : List Int) : List Int :=
  let ls := (List.range planes).map fun p => meetLayer acts (plane.get [] p)
  let wsgn := mfmt / 8 % 2 = 1
  (List.range 512).map fun n =>
    (List.range planes).foldl (fun a p => a + 9 ^ p * layerSum wsgn (ls.getD p []) n) 0

/-- R144: the row that the streamer reads in this cycle. -/
def streamRow (s : State) (st : Stream) : Option Nat :=
  if st.next < st.rows && s.station == st.start + st.planes * st.next then some st.next else none

/-- R90: the physical address and length of row m of a stream. -/
def streamAddr (s : State) (e : Engine) (st : Stream) (m : Nat) : Nat :=
  let a := st.base + BitVec.ofInt 64 (windowOffset e.window m)
  ((s.dev st.dev).stall (addrStall a)).at a

/-- R144: one cycle of the streamer: the row due is read, and its contribution waits for its add cycle. Once shed entry has
begun no further row is presented (R397). -/
def State.streamStep (s : State) (n : Nat) (st : Stream) : State :=
  if s.shed != .running then s else
  let e := (s.core n).eng
  let keep := if s.station + 1 < st.start + st.planes * st.rows then some st else none
  match streamRow s st with
  | none => s.modEng n fun e => { e with stream := keep }
  | some m =>
    let acts := rowActs e.mfmt (s.mem.readN (streamAddr s e st m) e.window.len)
    let add : Add := { cycle := st.start + st.planes * (m + 1) + 6, row := st.acc + 2048 * m
                       vals := contribution e.mfmt st.planes e.active acts
                       bad := readsPoison s (streamAddr s e st m) e.window.len }
    s.modEng n fun e =>
      { e with adds := e.adds ++ [add], stream := keep.map fun x => { x with next := m + 1 } }

/-- The 512 columns of an accumulator row. -/
def accRow (m : Memory) (phys : Nat) : List Int :=
  let w := bytesToNat (m.readN phys 2048)
  (List.range 512).map fun n => signExt (laneAt w 32 n) 32

/-- Columns as the bytes of a row. -/
def rowBytes (w : Nat) (vs : List Int) : List Byte := vs.flatMap fun v => natToBytes (w / 8) (wrapInt v w)

/-- R112, R144: the add of one contribution: the row and whether an add clipped. -/
def addRow (sat : Bool) (old vals : List Int) : List Int × Bool :=
  let sums := List.zipWith (fun a b => a + b) old vals
  if sat then (sums.map (satS 32), sums.any fun v => satS 32 v != v) else (sums, false)

/-- R144: ACCUMULATOR_ADD: the contributions of core n whose add cycle is this one. -/
def execAccumulatorAdd (s : State) : Host.Outcome State Fault Refusal :=
  let core := s.myCore
  let e := (s.core core).eng
  let now := e.adds.filter fun a => a.cycle ≤ s.station
  let later := e.adds.filter fun a => s.station < a.cycle
  let sat := e.mfmt / 16 % 2 = 1
  .next (now.foldl (fun s a =>
    let s := s.readRow core a.row 2048
    let r := addRow sat (accRow s.mem a.row) a.vals
    let s := { s with mem := s.mem.writeN a.row (rowBytes 32 r.1) }.markBad (markedIf a.bad a.row 2048)
    if r.2 then s.setMstat core msASAT else s) (s.modEng core fun e => { e with adds := later }))

/-! ### The drain unit (R155 to R158, R326, R327) -/

/-- R150: a drain or `zero` may issue. -/
def Engine.drainFree (e : Engine) : Bool := e.drain.isNone && e.stream.isNone && e.adds.isEmpty

/-- R326: `zero`. -/
def execMicroZero (p : MPred) (st : Step) (pa : BitVec 3) (arow : BitVec 10) (sa : BitVec 3) (n1 : BitVec 10)
    (s : State) : Host.Outcome State Fault Refusal :=
  microOp p (fun n e r s =>
    if !e.drainFree then .wait
    else match accTerm s n r st pa arow.toNat sa (n1.toNat + 1) with
      | none => .engine
      | some acc =>
        .ok (s.modEng n fun e => { e with drain := some { kind := .zero, rows := n1.toNat + 1, acc := acc } })) s

/-- R119, R155: a scale register of core n. -/
def scAt (s : State) (n i : Nat) : VReg := (s.core n).sc.get 0 i

/-- R156: `drn`. -/
def execDrn (p : MPred) (st : Step) (pa : BitVec 3) (arow : BitVec 10) (sa pd sd : BitVec 3) (n1 : BitVec 9)
    (rsc csc : BitVec 3) (s : State) : Host.Outcome State Fault Refusal :=
  microOp p (fun n e r s =>
    if !e.drainFree then .wait
    else match accTerm s n r st pa arow.toNat sa (n1.toNat + 1), nearTerm r st pd 0 sd with
      | some acc, some a =>
        match lockedAt s n r 1 a (2048 * (n1.toNat + 1)) with
        | none => .engine
        | some x =>
          .ok (s.modEng n fun e =>
            { e with drain := some { kind := .f32, rows := n1.toNat + 1, acc := acc, dst := some (x.at a, a)
                                     sc1 := scAt s n rsc.toNat, sc2 := scAt s n csc.toNat } })
      | _, _ => .engine) s

/-- R327: z and the place of the correction row of a PZ parameter; none where its reserved bits are set or the row lies outside. -/
def zeroPoint (s : State) (n : Nat) (r : Routine) (pa pz : BitVec 3) : Option (Int × Nat) :=
  let w := (snapAt r pz).toNat
  if w / 2 ^ 26 ≠ 0 then none
  else (accTerm s n r { level := 0, on := false } pa (natField w 16 10) 0 1).map fun a => (signExt w 16, a)

/-- R157: `drnq`. -/
def execDrnq (p : MPred) (st : Step) (pa : BitVec 3) (arow : BitVec 10) (sa pd sd : BitVec 3) (n1 : BitVec 9)
    (scm scs pz : BitVec 3) (w16 : Bool) (s : State) : Host.Outcome State Fault Refusal :=
  microOp p (fun n e r s =>
    if !e.drainFree then .wait
    else match accTerm s n r st pa arow.toNat sa (n1.toNat + 1), nearTerm r st pd 0 sd, zeroPoint s n r pa pz with
      | some acc, some a, some z =>
        match lockedAt s n r 1 a ((if w16 then 1024 else 512) * (n1.toNat + 1)) with
        | none => .engine
        | some x =>
          if scm.toNat % 2 = 1 then .engine
          else let t := s.readRow n z.2 2048
          .ok (t.modEng n fun e =>
            { e with drain := some { kind := .quant, rows := n1.toNat + 1, acc := acc, dst := some (x.at a, a)
                                     sc1 := scAt s n scm.toNat, sc2 := scAt s n (scm.toNat + 1), sc3 := scAt s n scs.toNat
                                     crow := accRow t.mem z.2, z := z.1, w16 := w16
                                     bad := readsPoison s z.2 2048 } })
      | _, _, _ => .engine) s

/-- R158, R210: `drnx`. -/
def execDrnx (p : MPred) (st : Step) (pa : BitVec 3) (arow : BitVec 10) (sa : BitVec 3) (conv rt : BitVec 2)
    (n1 : BitVec 9) (sc1 sc2 pz : BitVec 3) (w16 : Bool) (s : State) : Host.Outcome State Fault Refusal :=
  microOp p (fun n e r s =>
    if !e.drainFree then .wait
    else
      let rw := (s.core n).rt.get 0 rt.toNat
      match accTerm s n r st pa arow.toNat sa (n1.toNat + 1) with
      | none => .engine
      | some acc =>
        if natField rw.toNat 3 29 ≠ 0 || conv = 3 then .engine
        else
          let d : Drain := { kind := .raw, rows := n1.toNat + 1, acc := acc, rt := rw }
          if conv = 0 then .ok (s.modEng n fun e => { e with drain := some d })
          else if conv = 1 then
            .ok (s.modEng n fun e =>
              { e with drain := some { d with kind := .f32, sc1 := scAt s n sc1.toNat, sc2 := scAt s n sc2.toNat } })
          else if sc1.toNat % 2 = 1 then .engine
          else match zeroPoint s n r pa pz with
            | none => .engine
            | some z =>
              let t := s.readRow n z.2 2048
              .ok (t.modEng n fun e =>
                { e with drain := some { d with kind := .quant, sc1 := scAt s n sc1.toNat, sc2 := scAt s n (sc1.toNat + 1)
                                                sc3 := scAt s n sc2.toNat, crow := accRow t.mem z.2, z := z.1, w16 := w16
                                                bad := readsPoison s z.2 2048 } })) s

/-- R156: one FP32 value of a drain and its MSTAT bits. -/
def drainF32 (acc : Int) (rs cs : Nat) : Nat × Nat :=
  if rs = 255 || cs = 255 then (defNaN .f32, msDNV)
  else
    let k := rs + cs
    let r := if 254 ≤ k then roundScaled .f32 false (acc * (2 ^ (k - 254) : Nat)) 0 .rne
      else roundScaled .f32 false acc (254 - k) .rne
    (r.1, if isInf .f32 r.1 then msDOF else 0)

/-- R157: v / 2^h rounded to an integer, ties to even. -/
def rneShift (v : Int) (h : Nat) : Int :=
  let q := v / (2 ^ h : Nat)
  let r := 2 * (v % (2 ^ h : Nat))
  if r < (2 ^ h : Nat) || (r == (2 ^ h : Nat) && q % 2 == 0) then q else q + 1

/-- R157: one requantised value and its MSTAT bits. -/
def drainQuant (w : Nat) (acc corr : Int) (m h : Nat) (z : Int) : Int × Nat :=
  let u := rneShift ((acc - corr) * m) (h % 64) + z
  (satS w u, if satS w u != u then msDSAT else 0)

/-- R157: n16 element n of a multiplier pair. -/
def mulElem (lo hi : VReg) (n : Nat) : Nat := if n < 256 then lane lo 16 n else lane hi 16 (n - 256)

/-- Bytes of one row of a drain (R327). -/
def Drain.width (d : Drain) : Nat :=
  match d.kind with
  | .quant => if d.w16 then 1024 else 512
  | _ => 2048

/-- R155 to R158: the bytes of row j of a drain and the MSTAT bits. -/
def drainRow (s : State) (d : Drain) (j : Nat) : List Byte × Nat :=
  let a := accRow s.mem (d.acc + 2048 * j)
  match d.kind with
  | .zero => (zeroBytes 2048, 0)
  | .raw => (rowBytes 32 a, 0)
  | .f32 =>
    let vs := (List.range 512).map fun n => drainF32 (a.getD n 0) (lane d.sc1 8 j) (lane d.sc2 8 n)
    (vs.flatMap fun v => natToBytes 4 v.1, vs.foldl (fun b v => Nat.lor b v.2) 0)
  | .quant =>
    let w := if d.w16 then 16 else 8
    let vs := (List.range 512).map fun n =>
      drainQuant w (a.getD n 0) (d.crow.getD n 0) (mulElem d.sc1 d.sc2 n) (lane d.sc3 8 n) d.z
    (rowBytes w (vs.map Prod.fst), vs.foldl (fun b v => Nat.lor b v.2) 0)

/-- R36, R84, R155: a write of the array engine that performs in this cycle, a foreign write of KIND 3 (R364); `bad` tells that a source
of it was poisoned. -/
def State.engineWrite (s : State) (o : Owner) (phys : Nat) (a : Word) (bs : List Byte) (bad : Bool) : State :=
  (s.agentStore o.key 1 a.toNat (.engine (placeBytes phys bs) (markedIf bad phys bs.length))).foreignWrite o.dev a bs.length 3

/-- R211: the message of a `drnx` from its first row on. -/
def State.openSend (s : State) (o : Owner) (d : Drain) : State :=
  let w := d.rt.toNat
  let h := newHdr s (w % 8) (natField w 48 16) (natField w 32 16) (d.rows * d.width)
  { (s.takeMid) with
      nextId := s.nextId + 1
      sends := s.sends ++ [{ id := s.nextId, cmd := 0, own := o, mid := h.mid, hdr := h, data := [], whole := false
                             left := List.range (h.k + h.m) }] }

/-- R211: a row handed to the group engine; the last makes the message whole. -/
def State.handRow (s : State) (id : Nat) (bs : List Byte) (last : Bool) : State :=
  { s with sends := s.sends.map fun (x : Send) => if x.id == id then { x with data := x.data ++ bs, whole := last } else x }

/-- The drain unit after a row. -/
def Drain.after (d : Drain) : Option Drain := if d.next + 1 < d.rows then some { d with next := d.next + 1 } else none

/-- R158: one cycle of a `drnx`: whether the group engine takes the row is a free choice; a refusal makes an ELASTIC
launch wait and ends a TIMED one's routine. -/
def State.sendStep (s : State) (n : Nat) (r : Routine) (d : Drain) : State :=
  let takes := Config.occurs s.freeCtr
  let s := { s with freeCtr := s.freeCtr + 1 }
  if !takes then
    if (s.ownerCtx r.own).elastic then s
    else
      let s := { s with sends := s.sends.filter fun (x : Send) => some x.id != d.send }
      (s.modEng n fun e => { e with drain := none }).modRoutine n fun r => { r with ending := some .timing }
  else
    let id := match d.send with | some i => i | none => s.nextId
    let s := match d.send with | some _ => s | none => s.openSend r.own d
    let row := drainRow s d d.next
    let s := (s.handRow id row.1 (d.next + 1 == d.rows)).setMstat n row.2
    let d : Drain := { d with send := some id }
    s.modEng n fun e => { e with drain := d.after }

/-- R155, R326: one cycle of the drain unit. -/
def State.drainStep (s : State) (n : Nat) (r : Routine) (d : Drain) : State :=
  let j := d.next
  match d.dst with
  | some (p, a) =>
    let row := drainRow s d j
    let s := s.engineWrite r.own (p + d.width * j) (a + BitVec.ofNat 64 (d.width * j)) row.1
      (d.bad || readsPoison s (d.acc + 2048 * j) 2048)
    (s.setMstat n row.2).modEng n fun e => { e with drain := d.after }
  | none =>
    match d.kind with
    | .zero =>
      let p := d.acc + 2048 * j
      (s.engineWrite r.own p (lockedName s r p) (zeroBytes 2048) false).modEng n fun e => { e with drain := d.after }
    | _ => s.sendStep n r d

/-! ### One cycle of the units -/

/-- R142: a stream read of this cycle needs a bank that the loader's step needs. The rows of a `strm` are such reads; whether the read of
a `wcfg` is one too the spec leaves open, and the model lets the loader go on beside it (log 135, DESIGN CHOICE). -/
def loaderBlocked (s : State) (n : Nat) (l : Loader) : Bool :=
  let e := (s.core n).eng
  match e.stream with
  | none => false
  | some st =>
    match streamRow s st with
    | none => false
    | some m =>
      let bs := banksOf (streamAddr s e st m) e.window.len
      (banksOf (l.src + 4 * rowPitch l.tern * l.step) (4 * rowPitch l.tern)).any fun b => bs.contains b

/-- The near bytes that the units of core n read in this cycle, as address and length. -/
def unitReads (s : State) (n : Nat) : List (Nat × Nat) :=
  let e := (s.core n).eng
  (match e.loader with
    | some l => [(l.src + 4 * rowPitch l.tern * l.step, 4 * rowPitch l.tern)]
    | none => [])
  ++ (match e.stream with
    | some st => (match streamRow s st with | some m => [(streamAddr s e st m, e.window.len)] | none => [])
    | none => [])
  ++ (match e.drain with | some d => if d.kind == .zero then [] else [(d.acc + 2048 * d.next, 2048)] | none => [])
  ++ (match e.mload with
    | some l => if l.done < l.count then [(l.src + l.done * mloadSize l.table, min 64 ((l.count - l.done) * mloadSize l.table))] else []
    | none => [])

/-- R36, R87: the units of core n have read: the routine and the `mload` note what was poisoned, and what can be corrected is. -/
def State.unitsRead (s : State) (n : Nat) : State :=
  let rs := unitReads s n
  let e := (s.core n).eng
  let name := fun (l : MLoad) (i : Nat) => granuleOf (stallAddr l.lien (l.src - ((s.dev l.own.dev).stall l.lien).phys + l.done * mloadSize l.table + i))
  let s := match e.mload with
    | some l =>
      let p := l.src + l.done * mloadSize l.table
      let len := min 64 ((l.count - l.done) * mloadSize l.table)
      if l.done < l.count && readsPoison s p len then
        s.modEng n fun e => { e with mload := some { l with bad := some (l.bad.getD (name l ((firstPoison s p len).getD 0))) } }
      else s
    | none => s
  (rs.foldl (fun s g => s.noteRow n g.1 g.2) s).scanAll rs

/-- R161: the loader takes up the next layer to be replayed. -/
def Engine.nextReplay (e : Engine) : Engine :=
  match e.loader, e.replay with
  | none, (act, layer, name) :: rest =>
    { e with replay := rest
             loader := some { layer := layer, src := (name - 1) / 2, tern := (name - 1) % 2 == 1, step := 0, again := some act } }
  | _, _ => e

/-- R142, R161, R318: one cycle of the loader: a step of its `ldst` or of a replay. The `ldst` of a routine marked for halt is abandoned. -/
def State.loadCycle (s : State) (n : Nat) (l : Loader) : State :=
  match l.again with
  | some act => s.replayStep n act l
  | none =>
    if (match (s.core n).eng.routine with | some r => r.marked.isSome | none => false) then s.abandonLoad n
    else if loaderBlocked s n l then s
    else s.loaderStep n l

/-- What the units of core n do in one cycle, after the cycle's micro-op: the loader, the streamer, the drain unit and an
`mload`. Each reads near storage as it stands before the writes of the cycle (R84). -/
def State.unitStep (s : State) (n : Nat) : State :=
  let s := s.modEng n Engine.nextReplay
  let s := s.unitsRead n
  let s := match (s.core n).eng.loader with
    | some l => s.loadCycle n l
    | none => s
  let s := match (s.core n).eng.stream with
    | some st => s.streamStep n st
    | none => s
  let s := match (s.core n).eng.drain, (s.core n).eng.routine with
    | some d, some r => s.drainStep n r d
    | _, _ => s
  match (s.core n).eng.mload with
  | some l => if l.done < l.count then s.loadStep n l else s
  | none => s

/-- The micro-op at a routine's present index; none where its word ends the routine (R319). -/
def nextMicro (e : Engine) (r : Routine) : Option Instr :=
  if 1024 ≤ r.pc then none else decodeMicro (e.store.get 0 r.pc).toNat

end Sys2Proof.Machine
end

