-- ==== Sys2Proof/Machine/Yard.lean ====
section
/-!
DEFINITION. Sys2Proof/Machine/Yard.lean: the yardmaster: paddocks and their holders (R378, R379), the placing and the loading
of waves (R370 to R373), launches over several packages (R375), the end of waves and launches (R374), pre-emption and
resumption (R392 to R395), and the time-triggered table (R382, R383).
-/
namespace Sys2Proof.Machine

/-! ### Loading a core (R366, R373, R385) -/

/-- Entries of n bytes each from a physical address, without those that are zero. -/
def imageEntries (m : Memory) (phys n count : Nat) : FMap Nat :=
  (List.range count).filterMap fun i =>
    let v := bytesToNat (m.readN (phys + n * i) n)
    if v = 0 then none else some (i, v)

/-- The kernel image of a launch as it stands; none where it no longer passes R47 or R366 (log 62). -/
def kernelImage (s : State) (l : Launch) : Option (Stall × ImageHdr) :=
  let x := (s.dev l.dev).stall (addrStall l.record.kimg)
  let bs := s.mem.readN x.phys 64
  if x.id != 0 && x.live s.tick && imageOk bs (64 * x.len) then some (x, parseImage bs) else none

/-- R385: the handler image of a device: its code and poisoned granules; empty where DHIMG is 0 or treated so. -/
def handlerImage (s : State) (dev : Nat) : List Byte × List Nat :=
  let a := (s.dev dev).dhimg
  let x := (s.dev dev).stall (addrStall a)
  let n := bytesToNat (s.mem.readN x.phys 4)
  let ok := a != 0 && isStallAddr a && addrOffset a == 0 && x.id != 0 && x.live s.tick
    && 2 ≤ n && n ≤ 65536 && n % 2 == 0 && 64 + n ≤ 64 * x.len && (s.mem.readN (x.phys + 4) 60).all (· == 0)
  if ok then (s.mem.readN (x.phys + 64) n, badGranules s (x.phys + 64) n) else ([], [])

/-- R129, R130, R366, R385: the code, dictionary and handler buffers of a core filled for a launch. R36 and R130 say what a poisoned
granule of code does; for one of the dictionary, the microcode or the routine table the spec says nothing, and the model loads
its bytes as they stand (log 137, DESIGN CHOICE). -/
def loadBuffers (s : State) (l : Launch) (k : Core) : Core :=
  let h := handlerImage s l.dev
  let k := { k with hcode := h.1, hBad := h.2 }
  match kernelImage s l with
  | some (x, i) =>
    { k with code := s.mem.readN (x.phys + i.code) i.codeLen, codeBad := badGranules s (x.phys + i.code) i.codeLen
             dict := imageEntries s.mem (x.phys + i.dict) 48 i.dictN }
  | none => { k with code := [], codeBad := [], dict := [] }

/-- R366, R373: the array engine of a core as a wave finds it: the microcode and the routine table of the image. -/
def freshEngine (s : State) (l : Launch) : Engine :=
  match kernelImage s l with
  | some (x, i) =>
    { store := (imageEntries s.mem (x.phys + i.micro) 8 i.microN).map fun (e : Nat × Nat) => (e.1, BitVec.ofNat 64 e.2)
      table := if i.table = 0 then [] else imageEntries s.mem (x.phys + i.table) 2 64 }
  | none => {}

/-- R28, R34: what a core reads of the image of a launch and of the handler image, as address and length; `whole` adds what only a new
wave loads. -/
def imageReads (s : State) (l : Launch) (whole : Bool) : List (Nat × Nat) :=
  let h := (s.dev l.dev).stall (addrStall (s.dev l.dev).dhimg)
  (match kernelImage s l with
    | some (x, i) => [(x.phys, 64), (x.phys + i.code, i.codeLen), (x.phys + i.dict, 48 * i.dictN)]
        ++ (if whole then [(x.phys + i.micro, 8 * i.microN), (x.phys + i.table, if i.table = 0 then 0 else 128)] else [])
    | none => [])
  ++ (match handlerImage s l.dev with | ([], _) => [] | (bs, _) => [(h.phys, 64 + bs.length)])

/-- R24, R28 to R30, R32, R34: the image of a launch is read for core n: a page of it that is being moved is switched first, and its
translations are made through the die's cache. -/
def State.readImage (s : State) (l : Launch) (n : Nat) (whole : Bool) : State :=
  (imageReads s l whole).foldl (fun t r => (t.reach r.1 r.2).farRead n l.dev r.1 r.2) s

/-- What a core keeps whoever owns it: its tack-room slots and locks, its error count, the state in its lean-to, a halt, and when it
halted for pre-emption. -/
def Core.kept (k : Core) : Core :=
  { tack := { k.tack with queue := [], running := none }, errs := k.errs, leanTo := k.leanTo, halted := k.halted
    haltedAt := k.haltedAt }

/-- What a context keeps: the stores that wait for a boundary (R85). -/
def Ctx.kept (c : Ctx) : Ctx := { sbuf := c.sbuf, sdue := c.sdue }

/-- The contexts of core n with a change. -/
def State.modCtxs (s : State) (n : Nat) (f : Ctx → Ctx) : State :=
  (List.range 4).foldl (fun s i => s.modCtx (4 * n + i) f) s

/-! ### The overflow of the lean-tos (R394) -/

/-- What is saved of launches, in the lean-tos and in their overflow. -/
def savedCores (s : State) : List SavedCore := (s.cores.filterMap fun e => e.2.leanTo) ++ s.overflow

/-- R394: the overflow of the lean-tos is there. -/
def overflowOk (s : State) : Bool :=
  let x := s.stall hypDev (addrStall s.ltovf)
  s.ltovf != 0 && isStallAddr s.ltovf && x.id != 0 && x.st == .active && 2 ^ 34 ≤ 64 * x.len

/-- R394: the physical address of the slot of a core and a device. -/
def slotPhys (s : State) (n dev : Nat) : Nat := (s.stall hypDev (addrStall s.ltovf)).at s.ltovf + (n * 64 + dev) * 2 ^ 22

/-- R394: the slot of a core and a device is zeroed. -/
def State.zeroSlot (s : State) (n dev : Nat) : State :=
  if !overflowOk s then s
  else
    let p := slotPhys s n dev
    { s with mem := s.mem.clear p (2 ^ 22), flips := s.flips.filter fun e => !(p ≤ e.1 && e.1 < p + 2 ^ 22)
             poison := s.poison.filter fun g => 64 * g + 64 ≤ p || p + 2 ^ 22 ≤ 64 * g }

/-- R394: a state is copied whole into its slot. The spec gives the bytes of a saved state no form: they are free (log 152). -/
def State.fillSlot (s : State) (x : SavedCore) : State :=
  if !overflowOk s then s
  else
    let t := s.zeroSlot x.core x.dev
    { t with mem := t.mem.fill (slotPhys s x.core x.dev) ((List.range (2 ^ 22)).map fun i => Config.freeByte (s.freeCtr + i))
             freeCtr := s.freeCtr + 2 ^ 22, slotHolds := s.slotHolds.set 0 (x.core * 64 + x.dev) x.launch }

/-- R394: what was to be exchanged on a core goes to its slot of the overflow. -/
def State.settleTransit (s : State) (n : Nat) : State :=
  (s.overflow.filter fun (x : SavedCore) => x.core == n && x.transit).foldl State.fillSlot
    { s with overflow := s.overflow.map fun (x : SavedCore) => if x.core == n then { x with transit := false } else x }

/-- R370, R373: a core taken and loaded for a launch. -/
def State.takeCore (s : State) (l : Launch) (n : Nat) : State :=
  let s := (s.settleTransit n).readImage l n true
  (s.modCore n fun k => loadBuffers s l { k.kept with owner := l.id, eng := freshEngine s l }).modCtxs n Ctx.kept

/-! ### Dropping a launch (R372, R394) -/

/-- A stall of a launch vacated; one reclaimed since is passed over. -/
def State.vacateId (s : State) (dev id : Nat) : State :=
  let x := s.stall dev id
  if x.id = 0 then s else (s.vacate dev x).2

/-- R372: the near stalls of a launch's wave vacated. -/
def State.vacateNear (s : State) (l : Launch) : State := l.near.foldl (fun s e => s.vacateId l.dev e.2.2) s
/-- R372: the far stalls of a launch vacated. -/
def State.vacateFar (s : State) (l : Launch) : State := l.far.foldl (fun s e => s.vacateId l.dev e.2) s

/-- R58: the liens of the routines that are saved of a launch, with its device. -/
def savedLiens (s : State) (launch : Nat) : List (Nat × List Nat) :=
  (savedCores s).filterMap fun x => if x.launch == launch then x.engine.routine.map fun r => (x.dev, r.liens) else none

/-- R394: the slots that hold states of a launch are zeroed. -/
def State.zeroSlots (s : State) (launch : Nat) : State :=
  let mine := (s.slotHolds.filter fun e => e.2 == launch).map Prod.fst
  mine.foldl (fun s k => { s.zeroSlot (k / 64) (k % 64) with slotHolds := s.slotHolds.set 0 k 0 }) s

/-- R394: what is saved of a launch goes. R58 keeps the liens of a saved routine until it ends, and the spec does not say what becomes of
them where its launch is discarded or ends while it is saved: the model releases them then (log 153, DESIGN CHOICE). -/
def State.forgetSaved (s : State) (launch : Nat) : State :=
  let s := s.zeroSlots launch
  { s with releases := s.releases ++ savedLiens s launch
           overflow := s.overflow.filter fun (x : SavedCore) => x.launch != launch
           cores := (s.cores.map fun (e : Nat × Core) => (e.1, { e.2 with leanTo := e.2.leanTo.filter fun x => x.launch != launch })).filter
             fun e => e.2 != {} }

/-- A launch discarded: its stalls are vacated, its leaves end, and nothing of it is saved. -/
def State.dropLaunch (s : State) (l : Launch) : State :=
  let s := (s.vacateFar l).vacateNear l
  let s := { s.forgetSaved l.id with launches := s.launches.set none l.id none }
  (s.ctxs.filter fun e => e.2.launch == l.id && e.2.alive).foldl (fun s e => s.endLeaf e.1) s

/-! ### The end of a launch (R374) -/

/-- R374: a launch that has ended is gone; DONEJ counts, or its failure is reported. -/
def State.finishLaunch (s : State) (l : Launch) : State :=
  let s := { s.forgetSaved l.id with launches := s.launches.set none l.id none }
  let a := l.record.donej
  if a = 0 then s
  else match jcbStall s l.dev a with
    | .ok x =>
      let w := jcbWord s (x.at a)
      if jcbCounts w then s.jcbDoneBy (4 * l.first) a (x.at a) w else s.report l.dev l.reporter l.recAddr 3 rsBADPARAM stOK
    | .bad _ _ => s.report l.dev l.reporter l.recAddr 3 rsBADPARAM stOK

/-! ### Over several packages (R375) -/

/-- R375: the members of a launch's group. -/
def gangMembers (s : State) (l : Launch) : List Nat :=
  match groupOf s l.dev l.record.group with | some (_, ms) => ms | none => []

/-- R375: this package is the home of a launch over several. -/
def isHome (s : State) (l : Launch) : Bool := l.gang != 0 && l.gang == s.pkgid * 2 ^ 32 + l.id

/-- A number in a list without repetition. -/
def addOnce (l : List Nat) (n : Nat) : List Nat := if l.contains n then l else l ++ [n]

/-- R375: the home discards a launch everywhere and reports it. -/
def State.homeFails (s : State) (l : Launch) (reason status : Nat) : State :=
  let s := { s with outbox := s.outbox ++ (otherMembers s l).map fun d => OutMsg.discard d l.gang }
  (s.dropLaunch l).report l.dev l.reporter l.recAddr 1 reason status

/-- R375: every member has its share loaded: the gang tick is the first boundary at least 16 ticks later. -/
def State.chooseGangTick (s : State) (l : Launch) : State :=
  let t := ceilDiv s.station 1024 + 16
  { s.setLaunch { l with came := [], gangTick := some t } with
    outbox := s.outbox ++ (otherMembers s l).map fun d => OutMsg.gangTick d l.gang t }

/-- R375: every member has reported the end of its share: the launch ends in this cycle, or the FABRIC digit of the wave advances
everywhere. The word of it travels as a gang tick of 0 (log 99). -/
def State.sharesOver (s : State) (l : Launch) : State :=
  if l.stage == .ended then s.setLaunch { l with endAt := some s.station }
  else if l.waves ≤ l.wave + 1 then s.setLaunch l
  else
    { s.setLaunch { l with gone := [], ahead := true } with
      outbox := s.outbox ++ (otherMembers s l).map fun d => OutMsg.gangTick d l.gang 0 }

/-- R375: what a member reports reaches the home. -/
def State.homeHears (s : State) (l : Launch) (member cause : Nat) : State :=
  if cause = 0 then
    let l := { l with came := addOnce l.came member }
    if (gangMembers s l).all l.came.contains then s.chooseGangTick l else s.setLaunch l
  else if cause = 1 then
    let l := { l with gone := addOnce l.gone member }
    if (gangMembers s l).all l.gone.contains then s.sharesOver l else s.setLaunch l
  else if cause = 2 then s.homeFails l rsBADPARAM stOK
  else s.homeFails l rsOK (cause - 16)

/-- The launch of a number that stands under a name among packages. -/
def homeLaunch (s : State) (gang : Nat) : Option Launch :=
  match s.launch (gang % 2 ^ 32) with
  | some l => if l.gang == gang && isHome s l then some l else none
  | none => none

/-- The launch under a name among packages, on any member. -/
def gangLaunch (s : State) (gang : Nat) : Option Launch :=
  (s.launches.filterMap Prod.snd).find? fun l => l.gang == gang && gang != 0

/-- R375: this package's own report, to the home wherever it is. -/
def State.tellGang (s : State) (gang cause : Nat) : State :=
  if gang / 2 ^ 32 = s.pkgid then
    match homeLaunch s gang with
    | some l => s.homeHears l s.pkgid cause
    | none => s
  else s.tellHome gang cause

/-- R367, R372, R375: a launch that cannot be placed is discarded and reported. -/
def State.failLaunch (s : State) (l : Launch) (reason status : Nat) : State :=
  if l.gang = 0 then (s.dropLaunch l).report l.dev l.reporter l.recAddr 1 reason status
  else if isHome s l then s.homeFails l reason status
  else (s.dropLaunch l).tellHome l.gang (if reason = rsOK then 16 + status else 2)

/-- LAUNCH_COPY: a copy of a record reaches a member, which enqueues it in its device of the same number when that device is enabled
and bound to the home's domain, and answers the home else. -/
def execLaunchCopy (dev fabdom : Nat) (record : List Byte) (gang : Nat) (s : State) : Host.Outcome State Fault Refusal :=
  .next (if !takesArrivals s then s
    else if (s.dev dev).fabdom ≠ fabdom then s.tellHome gang 2
    else s.enqueue { dev := dev, addr := 0, cls := 2, gang := gang } (parseRecord record))

/-- MEMBER_REPORT: a member's report reaches the home. -/
def execMemberReport (launch member cause : Nat) (s : State) : Host.Outcome State Fault Refusal :=
  match if takesArrivals s then homeLaunch s launch else none with
  | some l => .next (s.homeHears l member cause)
  | none => .next s

/-- GANG_TICK_NOTICE: the gang tick that the home chose reaches a member, or, as tick 0, the word that every member's share of a wave
is over (log 99). -/
def execGangTickNotice (launch tick : Nat) (s : State) : Host.Outcome State Fault Refusal :=
  match if takesArrivals s then gangLaunch s launch else none with
  | some l => .next (s.setLaunch (if tick = 0 then { l with ahead := true } else { l with gangTick := some tick }))
  | none => .next s

/-- LAUNCH_DISCARD: the home's discard reaches a member. -/
def execLaunchDiscard (launch : Nat) (s : State) : Host.Outcome State Fault Refusal :=
  match if takesArrivals s then gangLaunch s launch else none with
  | some l => .next (s.dropLaunch l)
  | none => .next s

/-! ### Placing a wave (R369 to R373) -/

/-- R372: the initial contents of a stall of a device: zeros, and n bytes copied from an address, with the poison of their source (R36). -/
def State.fillStall (s : State) (dev : Nat) (x : Stall) (src : Option (Nat × Nat)) : State :=
  let n := 64 * x.len
  let s : State := { s with mem := s.mem.clear x.phys n, flips := s.flips.filter fun e => !(x.phys ≤ e.1 && e.1 < x.phys + n)
                            poison := s.poison.filter fun g => 64 * g + 64 ≤ x.phys || x.phys + n ≤ 64 * g }
  match src with
  | none => s
  | some (p, m) =>
    let t := ((s.takePackets dev p m).scan p m).takePackets dev x.phys m
    t.storeMarked x.phys (t.mem.readN p m) (badGranules t p m)

/-- The rents of a placement so far: the state, the stalls, and the first status other than OK. -/
structure Placing where
  st   : State
  far  : List (Nat × Nat)
  near : List (Nat × Nat × Nat)
  bad  : Option Nat := none
  deriving DecidableEq, Repr

/-- R372: one entry rented for a core. -/
def rentEntry (l : Launch) (img i core : Nat) (p : Placing) : Placing :=
  match p.bad, l.record.entries[i]? with
  | none, some e =>
    let r := p.st.rent
      { dev := l.dev, acct := l.record.acct, core := core, level := e.level, len := e.len, ticks := e.ticks, sync := e.sync
        shared := e.shared, tolerant := e.tolerant, fmap := e.fmap }
    if r.1 ≠ stOK then { p with bad := some r.1 }
    else
      let id := addrStall r.2.1
      let s := r.2.2.fillStall l.dev (r.2.2.stall l.dev id) (if e.data = 0 then none else some (img + e.data, 64 * e.len))
      if isNearLevel e.level then { p with st := s, near := p.near ++ [(core, i, id)] } else { p with st := s, far := p.far ++ [(i, id)] }
  | _, _ => p

/-- R372: the rents of a wave: far entries once, with the first wave; near entries on every core of the wave. -/
def rentWave (s : State) (l : Launch) (img wave : Nat) (cores : List Nat) : Placing :=
  let kind := fun (near : Bool) => (List.range l.record.entries.length).filter fun i =>
    match l.record.entries[i]? with | some e => isNearLevel e.level == near | none => false
  let p : Placing := { st := s, far := l.far, near := [] }
  let p := if wave = 0 then (kind false).foldl (fun p i => rentEntry l img i 0 p) p else p
  (kind true).foldl (fun p i => cores.foldl (fun p n => rentEntry l img i n p) p) p

/-- R375: the wave holds no leaf of this member. -/
def emptyShare (s : State) (l : Launch) (wave : Nat) : Bool :=
  let r := l.record
  r.fabric && !(waveDigit s l.dev r wave 5 * unitsOf s l.dev r 5 + fabricUnit s l.dev r < r.prodQ 5)

/-- R375: an empty share is reported as placed and loaded, and as ended where it is the last. -/
def State.placeEmpty (s : State) (l : Launch) (wave : Nat) : State :=
  let s := (s.setLaunch { l with stage := .gang, wave := wave, units := [], leaves := [], near := [], gangTick := none
                                 endAt := none }).tellGang l.gang 0
  if l.waves ≤ wave + 1 then s.tellGang l.gang 1 else s

/-- R370 to R373: a wave placed on its cores: its stalls are rented and filled, and its cores loaded. -/
def State.placeWaveOn (s : State) (l : Launch) (wave : Nat) (units : List (Nat × Nat × Nat × Nat)) : State :=
  match kernelImage s l with
  | none => s.failLaunch l rsBADPARAM stOK
  | some (x, _) =>
    let cores := units.map (·.1)
    let p := rentWave s l x.phys wave cores
    let l := { l with far := p.far, near := p.near }
    match p.bad with
    | some status => p.st.failLaunch l rsOK status
    | none =>
      let l := { l with stage := .loading, wave := wave, units := units, leaves := leavesOf s l.dev l.record wave units
                        placed := s.tick, gangTick := none, endAt := none, ahead := false, first := leastNat cores }
      cores.foldl (fun s n => s.takeCore l n) (p.st.setLaunch l)

/-- The launches of a device on a paddock. -/
def padLaunches (s : State) (dev p : Nat) : List Launch := (deviceLaunches s dev).filter fun l => l.record.paddock == p
/-- A launch that has been placed and whose share has not ended. -/
def Launch.inProgress (l : Launch) : Bool := !(l.stage == .waiting || l.stage == .eligible || l.stage == .ended || l.shareOver)


/-- R379: the cores of a paddock that are free for new launches of a device; those that its pre-empted launches left are not. -/
def freeFor (s : State) (dev p : Nat) : List Nat :=
  (paddockCores s p).filter fun n =>
    (s.core n).owner == 0 && (s.core n).halted.isNone && !(savedCores s).any fun x => x.core == n && x.dev == dev

/-- R377: the head among launches: the highest priority, then the least eligibility order. -/
def headOfQueue : List Launch → Option Launch
  | [] => none
  | l :: ls =>
    match headOfQueue ls with
    | none => some l
    | some m => if m.record.prio < l.record.prio || (m.record.prio == l.record.prio && l.order < m.order) then some l else some m

/-- R379: the eligible head of a device on a paddock. -/
def padHead (s : State) (dev p : Nat) : Option Launch := headOfQueue ((padLaunches s dev p).filter fun l => l.stage == .eligible)

/-- R377, R379: heads are placed while they fit. -/
def State.placeHeads : Nat → State → Nat → Nat → State
  | 0, s, _, _ => s
  | f + 1, s, dev, p =>
    match padHead s dev p with
    | none => s
    | some l =>
      if emptyShare s l 0 then State.placeHeads f (s.placeEmpty l 0) dev p
      else match placeWave s dev l.record (freeFor s dev p) with
        | none => s
        | some units => State.placeHeads f (s.placeWaveOn l 0 units) dev p

/-- A core on which nothing of the wave before is left: no engine works, and no command of its launch is owed. -/
def coreQuiet (s : State) (n : Nat) : Bool :=
  let k := s.core n
  k.eng.idle && k.eng.routine.isNone && k.eng.queue.isEmpty && k.tack.running.isNone && k.tack.queue.isEmpty && k.gtt.isNone
  && !s.cmds.any fun e => match e.2 with | some c => keyCore c.own.key == n && c.own.launch == k.owner | none => false

/-- R375: the next wave has another FABRIC digit, which advances only when every member's share of this one is over. -/
def digitMoves (s : State) (l : Launch) : Bool :=
  l.record.fabric && waveDigit s l.dev l.record (l.wave + 1) 5 != waveDigit s l.dev l.record l.wave 5

/-- R371: the next waves of a device's launches on a paddock, on the cores that they keep. -/
def State.placeWaves (s : State) (dev p : Nat) : State :=
  ((padLaunches s dev p).filter fun l => l.stage == .between && (l.ahead || !digitMoves s l)).foldl (fun s l =>
    if emptyShare s l (l.wave + 1) then s.placeEmpty l (l.wave + 1)
    else if l.units.all fun u => coreQuiet s u.1 then s.placeWaveOn l (l.wave + 1) l.units else s) s

/-! ### Pre-emption (R379, R392 to R395) -/

/-- What is saved of a core for a launch. -/
def savedOf (s : State) (n launch : Nat) : Option SavedCore := (savedCores s).find? fun x => x.core == n && x.launch == launch

/-- R379: a launch receives a pre-emption request. -/
def State.requestPreempt (s : State) (l : Launch) : State :=
  if l.stage == .preempting || l.stage == .saved || l.units.isEmpty || !l.inProgress then s
  else l.units.foldl (fun s u => s.modCore u.1 fun k => { k with pre := some s.tick })
    (s.setLaunch { l with stage := .preempting, back := l.stage })

/-- R379: the launches of a device on a paddock receive pre-emption requests. -/
def State.preemptPaddock (s : State) (dev p : Nat) : State :=
  (padLaunches s dev p).foldl (fun s l => s.requestPreempt l) s

/-- SNAPSHOT_WAIT_EXPIRY (R194): the wait limit has passed since the request: the contexts stop before their next bundles. -/
def snapExpired (s : State) (n : Nat) : Bool :=
  match (s.core n).pre, s.launch (s.core n).owner with
  | some t, some l => atBoundary s && l.record.snap && t + l.record.waitlim ≤ s.tick
  | _, _ => false
def execSnapshotWaitExpiry (s : State) : Host.Outcome State Fault Refusal :=
  let core := s.myCore
  if snapExpired s core then
    .next (s.modCtxs core fun c => if c.launch == (s.core core).owner && c.run == .ready then { c with snapped := true } else c)
  else .next s

/-- R171: the decode engine of a core is on a page. -/
def midPage (s : State) (n : Nat) : Bool :=
  (runningCmds s n).any fun c => c.isAdec && c.stage == .running && (c.step == 2 || c.step == 3)

/-- R392: every part of a core has stopped; a stream that a shed interrupts counts as stopped (R397). -/
def coreStopped (s : State) (n : Nat) : Bool :=
  let k := s.core n
  let e := k.eng
  k.stopping && k.tack.running.isNone && !snapOwed s n && e.adds.isEmpty && e.drain.isNone && e.mload.isNone
  && (e.stream.isNone || s.shed != .running) && !midPage s n
  && ((List.range 4).all fun i => (s.ctx (4 * n + i)).run != .ready || ctxStops s (4 * n + i))
  && !s.accesses.any fun a => a.agent == 0 && keyCore a.key == n

/-- R392: a pre-empted core that is halted and can be saved. -/
def preHalts (s : State) (n : Nat) : Bool :=
  let k := s.core n
  k.owner != 0 && k.pre.isSome && k.eng.stream.isNone && coreStopped s n
  && (match s.launch k.owner with | some l => l.stage == .preempting | none => false)

/-- R392: a context as it is saved. -/
def Ctx.saved (c : Ctx) : Ctx := { c with run := if c.run == .ready then .saved else c.run, hold := none }
/-- R161: the array engine as it is saved: the planes are discarded, and a running `ldst` or replay is abandoned. -/
def Engine.saved (e : Engine) : Engine := { e with active := [], shadow := [], loader := none, replay := [] }

/-- R161: the accumulator rows of the stalls that the routine on core n holds, with their poison. -/
def liveRows (s : State) (n : Nat) : List (Nat × List Byte × List Nat) :=
  match (s.core n).eng.routine with
  | none => []
  | some r => (r.liens.filter fun id => let x := s.stall r.own.dev id; x.level == 0 && x.core == n).map fun id =>
      let x := s.stall r.own.dev id
      (x.phys, s.mem.readN x.phys (64 * x.len), s.poison.filter fun g => x.phys ≤ 64 * g && 64 * g < x.phys + 64 * x.len)

/-- R88, R161: saved accumulator rows put back, as they stood. -/
def State.putRowsBack (s : State) (rows : List (Nat × List Byte × List Nat)) : State :=
  rows.foldl (fun s x =>
    let t := s.storeCells (placeBytes x.1 x.2.1)
    { t with poison := t.poison ++ x.2.2.filter fun g => !t.poison.contains g }) s

/-- R394: the launch in the lean-to is the one to which the core passes, or there is no overflow: it is exchanged, not spilled. -/
def inExchange (s : State) (n : Nat) (x : SavedCore) : Bool :=
  !overflowOk s || s.holders.get none (s.paddocks.get 0 n) == some x.dev

/-- R392, R394: a halted core is saved to its lean-to; what stood there goes to the overflow, or is exchanged. Where another launch
follows on the core, the halt begins the time of R393. -/
def State.saveCore (s : State) (n : Nat) : State :=
  let k := (s.core n).landStg
  let keys := (List.range 4).map fun i => 4 * n + i
  let x : SavedCore :=
    { core := n, launch := k.owner, dev := (match s.launch k.owner with | some l => l.dev | none => 0)
      ctxs := keys.foldl (fun m i => m.set {} i (s.ctx i).saved) [], engine := k.eng.saved, mp := k.mp, rt := k.rt, sc := k.sc
      tackQ := k.tack.queue, gtt := k.gtt, acc := liveRows s n }
  let s := (k.leanTo.toList.filter fun y => !inExchange s n y).foldl State.fillSlot
    { s with overflow := s.overflow ++ k.leanTo.toList.map fun (y : SavedCore) => { y with transit := inExchange s n y } }
  { s with ctxs := keys.foldl (fun m i => m.set {} i {}) s.ctxs }.setCore n
    { k.kept with leanTo := some x, haltedAt := if (s.holders.get none (s.paddocks.get 0 n)).isSome then s.station else 0 }

/-- PREEMPTION_HALT: once all its cores are saved the launch is. -/
def execPreemptionHalt (s : State) : Host.Outcome State Fault Refusal :=
  let core := s.myCore
  if !preHalts s core then .next s
  else
    let id := (s.core core).owner
    let s := s.saveCore core
    match s.launch id with
    | some l => .next (if l.units.all fun u => (savedOf s u.1 id).isSome then s.setLaunch { l with stage := .saved } else s)
    | none => .next s

/-- R161: the replay that an array engine owes as it goes on: each layer that an `ldst` built, of the active plane and of the shadow
plane; the other layers hold free digits (log 110). -/
def Engine.replayed (ctr : Nat) (e : Engine) : Engine :=
  let have_ := fun (act : Bool) (src : FMap Nat) => (List.range 3).filterMap fun i =>
    if src.get 0 i = 0 then none else some (act, i, src.get 0 i)
  let rest := fun (k : Nat) (src : FMap Nat) => (List.range 3).foldl (fun (m : FMap Layer) i =>
    if src.get 0 i = 0 then m.set [] i (freeLayer (ctr + (3 * k + i) * 2 ^ 18)) else m) []
  { e with active := rest 0 e.actSrc, shadow := rest 1 e.shaSrc, loader := none
           replay := have_ true e.actSrc ++ have_ false e.shaSrc }

/-- R161, R393: the loader of core n replays what it owes, at most the given number of steps. -/
def State.replayRest (n : Nat) : Nat → State → State
  | 0, s => s
  | f + 1, s =>
    let s := s.modEng n Engine.nextReplay
    match (s.core n).eng.loader with
    | some l => (match l.again with | some act => State.replayRest n f (s.replayStep n act l) | none => s)
    | none => s

/-- R161, R393, R398: core n goes on: its planes are replayed, 128 steps for each of at most six layers, before anything on it issues. The
time that this takes is part of that between the halt and the first bundle. -/
def State.replayPlanes (s : State) (n : Nat) : State :=
  State.replayRest n 768 ({ s with freeCtr := s.freeCtr + 6 * 2 ^ 18 }.modEng n (Engine.replayed s.freeCtr))

/-- R216, R219, R395: a timetable after a pause: instances whose start passed are missed. -/
def Timetable.skipMissed (now : Nat) (t : Timetable) : Timetable :=
  if t.running then t else { t with inst := max t.inst ((List.range t.count).filter fun i => t.startOf i < now).length }

/-- R219: a timetable with no instance left ends with its record. -/
def State.closeTable (s : State) (n : Nat) : State :=
  match (s.core n).gtt with
  | none => s
  | some t =>
    let t := t.skipMissed s.station
    if t.running || t.inst < t.count then s.modCore n fun k => { k with gtt := some t }
    else
      let s := s.modCore n fun k => { k with gtt := none }
      match s.cmd t.cmd with
      | some c => s.finishCmd c t.ran rsOK stOK 0
      | none => s

/-- R85, R395: a saved context as it goes on, where another context stood; what that one buffered commits at this boundary. -/
def Ctx.restored (c old : Ctx) : Ctx :=
  { c with run := if c.run == .saved || c.run == .resuming then .ready else c.run, snapped := false, wrote := [], sdue := old.sdue ++ old.sbuf }

/-- R394: what was saved of a launch on core n leaves the lean-to or its overflow. A launch that comes from the overflow passes through
the lean-to, whose occupant goes to the overflow. -/
def State.fillLeanTo (s : State) (n launch : Nat) : State :=
  let filled : Bool := s.overflow.any fun y => y.core == n && y.launch == launch && !y.transit
  let out : List SavedCore := if filled then (s.core n).leanTo.toList else []
  let s := out.foldl State.fillSlot s
  { s with overflow := (s.overflow.filter fun (y : SavedCore) => !(y.core == n && y.launch == launch)) ++ out }.modCore n fun k =>
    { k with leanTo := if filled then none else k.leanTo.filter fun y => y.launch != launch }

/-- R393, R395: a core restored for a launch. -/
def State.restoreCore (s : State) (l : Launch) (n : Nat) : State :=
  match savedOf s n l.id with
  | none => s
  | some x =>
    let t := (((s.fillLeanTo n l.id).settleTransit n).readImage l n false).putRowsBack x.acc
    let t := t.modCore n fun k =>
      loadBuffers t l { k with owner := l.id, eng := x.engine, mp := x.mp, rt := x.rt, sc := x.sc, gtt := x.gtt, haltedAt := 0
                               tack := { k.tack with queue := x.tackQ } }
    (((x.ctxs.foldl (fun t e => t.setCtx e.1 (e.2.restored (t.ctx e.1))) t).replayPlanes n).closeTable n)

/-- R416: the power cap forbids placement, waves and resumption at this boundary. -/
def powerHolds (s : State) : Bool := s.pwrCap < s.pwrAvg

/-- R379, R395: a pre-empted launch can be resumed at this boundary. -/
def resumable (s : State) (l : Launch) : Bool :=
  atBoundary s && s.shed == .running && !powerHolds s && l.stage == .saved
  && s.holders.get none l.record.paddock == some l.dev && (s.dev l.dev).en
  && l.units.all fun u => (s.core u.1).owner == 0 && (s.core u.1).halted.isNone

/-- R393: the bound of a switch that needs neither spill nor fill: a core of the launch halted so long ago that the launch starts or goes on
at this boundary. -/
def swapDue (s : State) (l : Launch) : Bool :=
  (l.units.any fun u => (s.core u.1).haltedAt != 0 && (s.core u.1).haltedAt + 10000 < s.station + 1024)
  && !s.overflow.any fun x => x.launch == l.id && !x.transit

/-- LAUNCH_RESUME. -/
def execLaunchResume (s : State) : Host.Outcome State Fault Refusal :=
  let launch := s.cur
  match s.launch launch with
  | some l =>
    if resumable s l then .next (l.units.foldl (fun s u => s.restoreCore l u.1) (s.setLaunch { l with stage := l.back }))
    else .next s
  | none => .next s

/-! ### The choice at a boundary (R378, R379) -/

/-- R378, R379: a device's reservation on a paddock at a boundary: the tick just ended is paid, a new reservation begins, and one
whose deadline has come is replenished. Of one removed what RESV reads as is left (R6). -/
def Resv.settle (now : Nat) (held : Bool) (r : Resv) : Resv :=
  let r := if held && r.budget != 0 then { r with left := r.left - 1 } else r
  match r.pending with
  | some (b, n) => if b = 0 then { period := n } else { budget := b, period := n, left := b, deadline := now + n }
  | none => if r.budget ≠ 0 && r.deadline ≤ now then { r with left := r.budget, deadline := now + r.period } else r

/-- R379, steps 1 and 2, on a paddock. -/
def State.settleBudgets (s : State) (p : Nat) : State :=
  let held := s.holders.get none p
  (s.devs.map Prod.fst).foldl (fun s n =>
    s.modDev n fun d => { d with resv := d.resv.set {} p ((d.resv.get {} p).settle s.tick (held == some n)) }) s

/-- R394: to serve a device on a paddock, a core would spill or fill its lean-to; a state in exchange is no fill for its own device, and a
spill for any other (log 138). -/
def needsMove (s : State) (dev p : Nat) : Bool :=
  ((paddockCores s p).any fun n =>
    (match s.launch (s.core n).owner with | some l => l.dev != dev | none => false)
    && (match (s.core n).leanTo with | some x => x.dev != dev | none => false))
  || s.overflow.any fun x => s.paddocks.get 0 x.core == p && (if x.transit then x.dev != dev else x.dev == dev)

/-- R379, R394, R403: a device is ready on a paddock. -/
def padReady (s : State) (dev p : Nat) : Bool :=
  let d := s.dev dev
  d.en && dev < 64 && decide (0 < (d.resv.get {} p).left)
  && (((padLaunches s dev p).any Launch.inProgress) || (padHead s dev p).isSome)
  && (!needsMove s dev p || overflowOk s)

/-- R379: the ready device with the earliest deadline, ties to the lowest number. -/
def earliest (s : State) (p : Nat) : List Nat → Option Nat
  | [] => none
  | d :: ds =>
    match earliest s p ds with
    | none => some d
    | some e => if ((s.dev e).resv.get {} p).deadline < ((s.dev d).resv.get {} p).deadline then some e else some d

/-- R379: the yardmaster's steps on a paddock. -/
def State.yardPaddock (s : State) (p : Nat) : State :=
  let s := s.settleBudgets p
  let old := s.holders.get none p
  let new := earliest s p ((s.devs.map Prod.fst).filter fun d => padReady s d p)
  let s := { s with holders := s.holders.set none p new }
  let s := if new = old then s else (paddockCores s p).foldl (fun s n => s.modCore n fun k => { k with haltedAt := 0 }) s
  let s := match old with
    | some d => if new = old then s else s.preemptPaddock d p
    | none => s
  match new with
  | some d => if powerHolds s then s else (s.placeHeads 513 d p).placeWaves d p
  | none => s

/-- YARDMASTER_BOUNDARY (R379). From the warning of a shed on nothing is placed, and budgets go on (R397). -/
def execYardmasterBoundary (s : State) : Host.Outcome State Fault Refusal :=
  if !atBoundary s then .next s
  else .next ((List.range 16).foldl (if s.shed == .running then State.yardPaddock else State.settleBudgets) s)

/-! ### The gang tick (R373, R375) -/

/-- The number of the stall of entry i for a leaf on a core. -/
def Launch.entryId (l : Launch) (core i : Nat) : Option Nat :=
  match l.far.find? fun e => e.1 == i with
  | some e => some e.2
  | none => (l.near.find? fun e => e.1 == core && e.2.1 == i).map fun e => e.2.2

/-- R373: the scalar registers of a leaf as it starts. -/
def startRegs (l : Launch) (key : Nat) (idx : List Nat) : FMap Word :=
  let m := (List.range 8).foldl (fun (m : FMap Word) i => m.set 0 (1 + i) (BitVec.ofNat 64 (idx.getD i 0))) []
  let m := (List.range 8).foldl (fun (m : FMap Word) i => m.set 0 (16 + i) (l.record.args.getD i 0)) m
  (List.range 5).foldl (fun (m : FMap Word) i => match l.entryId (keyCore key) i with
    | some id => m.set 0 (24 + i) (stallAddr (id % 2 ^ 15) 0)
    | none => m) m

/-- R119, R373: a leaf as it starts. -/
def startCtx (l : Launch) (key : Nat) (idx : List Nat) (c : Ctx) : Ctx :=
  { c.kept with run := .ready, launch := l.id, dev := l.dev, acct := l.record.acct, elastic := l.record.mode
                x := startRegs l key idx }

/-- R373: every leaf of a wave becomes ready. An empty share ends at once (R375). -/
def State.startLeaves (s : State) (l : Launch) : State :=
  let s := s.setLaunch { l with stage := .running, live := l.leaves.length, gangTick := none
                                endAt := if l.leaves.isEmpty then some s.station else none }
  let s := l.units.foldl (fun s u => s.modCore u.1 fun k => { k with haltedAt := 0 }) s
  l.leaves.foldl (fun s e => s.modCtx e.1 (startCtx l e.1 e.2)) s

/-- R373: the loads of a launch's wave may be complete at this boundary. -/
def gangReady (s : State) (l : Launch) : Bool :=
  atBoundary s && s.shed == .running && l.stage == .loading && l.placed < s.tick

/-- R375: the gang tick of a launch over several packages has come. -/
def gangDue (s : State) (l : Launch) : Bool :=
  atBoundary s && s.shed == .running && l.stage == .gang && (match l.gangTick with | some t => t ≤ s.tick | none => false)

/-- GANG_TICK: the leaves start; a member of a launch over several packages reports its share loaded, and waits. -/
def execGangTick (s : State) : Host.Outcome State Fault Refusal :=
  let launch := s.cur
  match s.launch launch with
  | none => .next s
  | some l =>
    if gangDue s l then .next (s.startLeaves l)
    else if !gangReady s l then .next s
    else if l.gang = 0 then .next (s.startLeaves l)
    else .next ((s.setLaunch { l with stage := .gang }).tellGang l.gang 0)

/-! ### The end of a wave and of a launch (R371, R372, R374) -/

/-- The last leaf of the wave halted in an earlier cycle. -/
def waveOver (s : State) (l : Launch) : Bool := match l.endAt with | some e => e < s.station | none => false

/-- WAVE_END: the near stalls are vacated, and the next wave waits for a boundary; where its FABRIC digit is another, the member reports the
end of its share (R375). -/
def execWaveEnd (s : State) : Host.Outcome State Fault Refusal :=
  let launch := s.cur
  match s.launch launch with
  | none => .next s
  | some l =>
    if !waveOver s l then .next s
    else
      let s := s.vacateNear l
      let l := { l with near := [] }
      if l.waves ≤ l.wave + 1 then .next (s.setLaunch l)
      else
        let l := { l with endAt := none }
        let s := s.setLaunch (if l.stage == .preempting || l.stage == .saved then { l with back := .between } else { l with stage := .between })
        .next (if digitMoves s l && !l.leaves.isEmpty then s.tellGang l.gang 1 else s)

/-- R374, R375: what follows the end of a launch is due: its last wave is over and its near stalls are vacated; on the home of one over
several packages that has ended here, every member has reported. -/
def launchOver (s : State) (l : Launch) : Bool :=
  waveOver s l && l.near.isEmpty && l.waves ≤ l.wave + 1 && (l.stage != .ended || (gangMembers s l).all l.gone.contains)

/-- R375: the home's own report, and what follows the end of the launch in the same cycle where it is the last (R374). -/
def State.homeEnds (s : State) (l : Launch) : State :=
  let t := s.homeHears { l with stage := .ended, far := [] } s.pkgid 1
  match t.launch l.id with
  | some m => if (gangMembers t m).all m.gone.contains then t.finishLaunch m else t
  | none => t

/-- LAUNCH_END: the far stalls are vacated; a member reports to the home, which ends the launch when every member has. It takes its place
among the bundles of the cycle as context 0 of the launch's lowest-numbered core (R279, R374). -/
def execLaunchEnd (s : State) : Host.Outcome State Fault Refusal :=
  let launch := s.cur
  match s.launch launch with
  | none => .next s
  | some l =>
    if !launchOver s l then .next s
    else
      let s := s.vacateFar l
      if l.gang = 0 || l.stage == .ended then .next (s.finishLaunch l)
      else if isHome s l then
        .next ((s.forgetSaved l.id).homeEnds l)
      else
        let t := { s.forgetSaved l.id with launches := s.launches.set none l.id none }
        .next (if l.leaves.isEmpty then t else t.tellHome l.gang 1)

/-- R370, R371: a launch is done with core n: its last wave runs, and of the leaves that this wave has there none lives. A core on which the
last wave has no leaf is kept with the others until the launch is over. -/
def doneWith (s : State) (l : Launch) (n : Nat) : Bool :=
  l.waves ≤ l.wave + 1 && (l.stage == .running || (l.stage == .preempting && l.back == .running))
  && (l.shareOver || l.leaves.any fun e => keyCore e.1 == n)
  && (List.range 4).all fun i => (s.ctx (4 * n + i)).launch != l.id || !(s.ctx (4 * n + i)).alive

/-- R370: a core whose last leaf has halted, or that its launch holds no longer, is free at this boundary. -/
def coreLeaves (s : State) (n : Nat) : Bool :=
  let k := s.core n
  atBoundary s && k.owner != 0 && coreQuiet s n
  && (match s.launch k.owner with
    | some l => l.stage == .ended || doneWith s l n || !l.units.any fun u => u.1 == n
    | none => true)

/-- R370: a launch without a core; one that waited to be pre-empted on that core alone is saved. -/
def State.dropUnit (s : State) (launch n : Nat) : State :=
  match s.launch launch with
  | none => s
  | some l =>
    let us := l.units.filter fun u => u.1 != n
    s.setLaunch { l with units := us
                         stage := if l.stage == .preempting && !us.isEmpty && us.all (fun u => (savedOf s u.1 l.id).isSome) then .saved else l.stage }

/-- CORE_RELEASE. -/
def execCoreRelease (s : State) : Host.Outcome State Fault Refusal :=
  let core := s.myCore
  if coreLeaves s core then .next (((s.dropUnit (s.core core).owner core).modCore core Core.kept).modCtxs core Ctx.kept) else .next s

/-! ### The time-triggered table (R382, R383) -/

/-- R382: the time at a boundary. -/
def boundaryTime (s : State) : Nat := Config.wallClock (2 * s.tick)

/-- R382: the bytes of entry i; none where the table is disabled or its stall cannot be read. -/
def slotEntry (s : State) (i : Nat) : Option (Nat × List Byte) :=
  let x := s.stall hypDev (addrStall s.ttbase)
  let p := x.at s.ttbase + 32 * i
  if s.ttbase != 0 && isStallAddr s.ttbase && x.id != 0 && x.live s.tick && addrOffset s.ttbase + 32 * i + 32 ≤ 64 * x.len && i < 256
  then some (p, s.mem.readN p 32) else none

/-- R382: the slots of an entry whose time has come. -/
def slotsReached (bs : List Byte) (now : Nat) : Nat :=
  let f := fun (o n : Nat) => bytesToNat ((bs.drop o).take n)
  if now < f 8 8 then 0 else (now - f 8 8) / max 1000 (f 16 4) + 1

/-- R382: EN and DEFER of an entry. -/
def slotEn (bs : List Byte) : Bool := bitAt (bs.getD 22 0).toNat 0
def slotDefer (bs : List Byte) : Bool := bitAt (bs.getD 22 0).toNat 1
def slotDev (bs : List Byte) : Nat := bytesToNat ((bs.drop 20).take 2)
/-- R382: START and PERIOD of an entry, by which its slots are known. -/
def slotKey (bs : List Byte) : Nat := bytesToNat ((bs.drop 8).take 12)
/-- R382: the progress of an entry; one written with another START or PERIOD has its slots before it. -/
def TTSlot.for_ (bs : List Byte) (t : TTSlot) : TTSlot := if t.key == slotKey bs then t else { t with done := 0, missed := 0, key := slotKey bs }

/-- R382: the 256 bytes of a launch record at an address of a device; zeros where it cannot be read. -/
def recordAt (s : State) (dev : Nat) (a : Word) : List Byte :=
  let x := s.stall dev (addrStall a)
  if isStallAddr a && x.id != 0 && x.live s.tick && addrOffset a % 256 == 0 && addrOffset a + 256 ≤ 64 * x.len
  then s.mem.readN (x.at a) 256 else List.replicate 256 0

/-- R383, R404: n slots of an entry of a device are skipped: OVERRUN rises, saturating, and the hypervisor ring has a record for each. -/
def State.skipSlots (s : State) (i p dev n : Nat) : State :=
  if n = 0 then s
  else
    let past := min (bytesToNat (s.mem.readN (p + 24) 4) + n) (ones 32)
    let r := mkRecord 0 s.station (dev % 64) i 0 6 2 rsOK stOK 0
    (List.range (min n (2 ^ 17))).foldl (fun s _ => s.hypRecord r) { s with mem := s.mem.writeN (p + 24) (natToBytes 4 past) }

/-- R382: the record of an entry enqueued, and the entry's progress. -/
def State.enqueueSlot (s : State) (i : Nat) (bs : List Byte) (t : TTSlot) : State :=
  let a : Word := BitVec.ofNat 64 (bytesToNat (bs.take 8))
  let dev := slotDev bs
  let u := s.enqueue { dev := dev, addr := a, cls := 3, slot := some i } (parseRecord (recordAt s dev a))
  { u with ttSlots := u.ttSlots.set {} i { t with launch := if (u.launch s.nextId).isSome then s.nextId else 0 } }

/-- R383: the previous instance of an entry is still running: it has been enqueued and has not ended. -/
def slotBusy (s : State) (t : TTSlot) : Bool :=
  t.launch != 0 && (match s.launch t.launch with | some l => !isOver s l | none => false)

/-- R382, R383: a boundary at which slots of an entry have come since the last one. An entry that is not enabled lets its slots
pass. -/
def State.serveSlots (s : State) (i p : Nat) (bs : List Byte) : State :=
  let t := (s.ttSlots.get {} i).for_ bs
  let reached := slotsReached bs (boundaryTime s)
  let new := reached - min t.done reached
  let put := fun (s : State) (t : TTSlot) => { s with ttSlots := s.ttSlots.set {} i t }
  if !slotEn bs then put s { t with done := reached, deferred := false, missed := 0 }
  else if new = 0 then put s { t with done := reached }
  else
    let lost := min t.missed new
    let new := new - lost
    let go := new != 0 && !slotBusy s t
    let rest := new - bnat go
    let wait := slotDefer bs && rest != 0
    let s := s.skipSlots i p (slotDev bs) (bnat t.deferred + lost + rest - bnat wait)
    let t : TTSlot := { t with done := reached, deferred := wait, missed := 0 }
    if go then s.enqueueSlot i bs t else put s t

/-- TIME_TRIGGERED_SLOT. -/
def execTimeTriggeredSlot (slot : Nat) (s : State) : Host.Outcome State Fault Refusal :=
  match slotEntry s slot with
  | some (p, bs) => if atBoundary s then .next (s.serveSlots slot p bs) else .next s
  | none => .next s

/-- R383: a slot that waits, and whose previous instance has ended. -/
def deferReady (s : State) (i : Nat) : Bool :=
  let t := s.ttSlots.get {} i
  atBoundary s && t.deferred && !slotBusy s t
  && (match slotEntry s i with | some (_, bs) => slotEn bs && t.key == slotKey bs && slotsReached bs (boundaryTime s) ≤ t.done | none => false)

/-- DEFERRED_SLOT_ENQUEUE. -/
def execDeferredSlotEnqueue (slot : Nat) (s : State) : Host.Outcome State Fault Refusal :=
  match slotEntry s slot with
  | some (_, bs) =>
    if deferReady s slot then .next (s.enqueueSlot slot bs { s.ttSlots.get {} slot with deferred := false }) else .next s
  | none => .next s

/-! ### The partition (R386) -/

/-- PARTITION_RELEASE: MON lets the partition of a device go on. -/
def execPartitionRelease (dev : Nat) (s : State) : Host.Outcome State Fault Refusal :=
  let mine := (List.range 64).filter fun n => (s.core n).halted == some dev
  .next (mine.foldl (fun s n => (s.modCore n fun k => { k with halted := none }).closeTable n)
    (s.modDev dev fun d => { d with halted := false }))

end Sys2Proof.Machine
end

