-- ==== Sys2Proof/Machine/Registers.lean ====
section
/-!
DEFINITION. Sys2Proof/Machine/Registers.lean: writes that reach registers from outside the bundles (R401 to R405): the
hypervisor window and the per-device registers (R402, R403), invalidations (R27), reservations (R378), stopped contexts
(R405) and the event rings (R404).
-/
namespace Sys2Proof.Machine

/-! ### Allowances (R38, R403) -/

/-- R38, R403: TOPUP; a write with bit 63 set is ignored. -/
def State.topup (s : State) (dev acct : Nat) (amount : Word) : State :=
  if amount.getLsbD 63 then s else s.modDev dev fun d => d.credit acct amount.toNat
/-- TOPUP_WRITE. -/
def execTopupWrite (dev acct : Nat) (amount : Word) (s : State) : Host.Outcome State Fault Refusal := .next (s.topup dev acct amount)

/-! ### Invalidation (R27) -/

/-- R24, R27: an entry of a device's imported translations that an invalidation names: one page, with the 32-MiB entry it lies
in, or all. -/
def invNames (dev : Nat) (page : Option Nat) (e : TEntry) : Bool :=
  e.dev == dev && e.page < 2 ^ 60 && (match page with
    | none => true
    | some p => e.page == p || (e.big && e.page / 512 == p / 512))

/-- R27: the commands that translated through the entries named before the write, and go on with them. -/
def invHolders (s : State) (dev : Nat) (page : Option Nat) : List Nat :=
  s.cmds.filterMap fun e => match e.2 with
    | some c => if c.own.dev == dev && c.stage != .posted && c.got.any (invNames dev page) then some c.id else none
    | none => none

/-- R27: an invalidation: the entries go from every die's cache in this cycle. -/
def State.invalidate (s : State) (dev : Nat) (page : Option Nat) (value : Word) : State :=
  { s with tcache := (s.tcache.map fun (e : Nat × List TEntry) => (e.1, e.2.filter fun t => !invNames dev page t)).filter
             fun e => !e.2.isEmpty }.modDev dev fun d => { d with ptinv := d.ptinv ++ [(value, invHolders s dev page)] }

/-- PTINV_PAGE (R27, R403). -/
def execPtinvPage (dev : Nat) (va : Word) (s : State) : Host.Outcome State Fault Refusal :=
  .next (s.invalidate dev (some (natField va.toNat 16 47)) va)
/-- PTINV_ALL (R27, R403). -/
def execPtinvAll (dev : Nat) (s : State) : Host.Outcome State Fault Refusal := .next (s.invalidate dev none 1)

/-- R27: the oldest invalidation of a device whose commands have all completed. -/
def invDone (s : State) (dev : Nat) : Option (Word × List Nat) :=
  (s.dev dev).ptinv.find? fun e => e.2.all fun i => match s.cmd i with | some c => c.stage == .posted | none => true

/-- PTINV_COMPLETE (R27, R404). -/
def execPtinvComplete (s : State) : Host.Outcome State Fault Refusal :=
  let dev := s.cur
  match invDone s dev with
  | some e =>
    .next ((s.modDev dev fun d => { d with ptinv := d.ptinv.erase e }).hypRecord (mkRecord e.1 s.station dev 0 0 8 1 rsOK stOK 0))
  | none => .next s

/-! ### Reservations (R378) -/

/-- R378: a reservation as it will stand: a write not yet in effect counts. -/
def Resv.terms (r : Resv) : Nat × Nat := match r.pending with | some p => p | none => (r.budget, r.period)

/-- R378: the exact sum of C/T over a paddock's reservations, as a fraction, without the device's own. -/
def resvSum (s : State) (dev p : Nat) : Nat × Nat :=
  s.devs.foldl (fun f e =>
    let t := (e.2.resv.get {} p).terms
    if e.1 = dev || t.1 = 0 then f else (f.1 * t.2 + t.1 * f.2, f.2 * t.2)) (0, 1)

/-- R378: the admission test. -/
def resvAdmits (s : State) (dev p c t : Nat) : Bool :=
  let f := resvSum s dev p
  c = 0 || (t ≠ 0 && c ≤ t && f.1 * t + c * f.2 ≤ f.2 * t)

/-- R378: a RESV write. -/
def State.resvWrite (s : State) (dev : Nat) (value : Word) : State :=
  let p := natField value.toNat 60 4
  let t := natField value.toNat 16 16
  let c := natField value.toNat 0 16
  s.modDev dev fun d =>
    if resvAdmits s dev p c t
    then { d with resvPad := p, resv := d.resv.set {} p { (d.resv.get {} p : Resv) with pending := some (c, t) } }
    else { d with refused := true }
/-- RESV_WRITE. -/
def execResvWrite (dev : Nat) (value : Word) (s : State) : Host.Outcome State Fault Refusal := .next (s.resvWrite dev value)

/-! ### The device's control (R403, R408) -/

/-- R403, R408: a VDCTL write. -/
def State.vdctlWrite (s : State) (dev : Nat) (value : Word) : State :=
  s.modDev dev fun d =>
    let en := value.getLsbD 0
    { d with en := en, grace := natField value.toNat 8 8, fabdom := natField value.toNat 32 16
             runtime := if en && !d.en then 0 else d.runtime }
/-- VDCTL_WRITE. -/
def execVdctlWrite (dev : Nat) (value : Word) (s : State) : Host.Outcome State Fault Refusal := .next (s.vdctlWrite dev value)

/-- R403: a DTBASE write is ignored while the device is enabled. -/
def State.dtbaseWrite (s : State) (dev : Nat) (value : Word) : State :=
  s.modDev dev fun d => if d.en then d else { d with dtbase := value }
/-- DTBASE_WRITE. -/
def execDtbaseWrite (dev : Nat) (value : Word) (s : State) : Host.Outcome State Fault Refusal := .next (s.dtbaseWrite dev value)

/-! ### Stopped contexts (R405) -/

/-- R405: the launch of the selected device whose context of a key is stopped toward HYP, on its core or saved. -/
def stoppedOwner (s : State) (key : Nat) : Option Owner :=
  let c := s.ctx key
  if c.run == .stopHyp && c.dev == s.vdsel then some { key := key, launch := c.launch, dev := c.dev }
  else ((savedCores s).find? fun x => x.core == keyCore key && x.dev == s.vdsel && (x.ctxs.get {} key).run == .stopHyp).map
    fun x => { key := key, launch := x.launch, dev := x.dev }

/-- The code of a ring for an owner: its core's buffer, or the image for one that is saved. -/
def ownerCode (s : State) (o : Owner) (ring : CRing) : List Byte :=
  if (s.ctx o.key).launch = o.launch then codeOf (s.core (keyCore o.key)) ring
  else match s.launch o.launch with
    | some l => codeOf (loadBuffers s l {}) ring
    | none => []

/-- R391, R405: a stopped context is restored from its HYP bank; it issues from the next tick boundary. -/
def State.ctxctlResume (s : State) (ctx : Nat) (ring : CRing) (skip : Bool) : State :=
  let s := { s with ctxsel := ctx % 256 }
  match stoppedOwner s (ctx % 256) with
  | some o =>
    if ring == .driver && (s.dev o.dev).dhimg = 0 then s
    else s.modOwner o fun c => { c.returnTo (ownerCode s o ring) c.trapH ring skip c.bundle with run := .resuming }
  | none => s
/-- CTXCTL_RESUME_USER. -/
def execCtxctlResumeUser (ctx : Nat) (skip : Bool) (s : State) : Host.Outcome State Fault Refusal :=
  .next (s.ctxctlResume ctx .user skip)
/-- CTXCTL_RESUME_DRIVER. -/
def execCtxctlResumeDriver (ctx : Nat) (skip : Bool) (s : State) : Host.Outcome State Fault Refusal :=
  .next (s.ctxctlResume ctx .driver skip)

/-- R405: ACTION 3. -/
def State.ctxctlEnd (s : State) (ctx : Nat) : State :=
  let s := { s with ctxsel := ctx % 256 }
  match stoppedOwner s (ctx % 256) with
  | some o =>
    if (s.ctx o.key).launch = o.launch then s.endLeaf o.key
    else
      let mine : Owner → Bool := fun p => p.key == o.key && p.launch == o.launch
      ({ s with armed := s.armed.filter fun e => !mine e.2 }.modOwner o Ctx.endLeaf).leafDone o.launch
  | none => s
/-- CTXCTL_END_LEAF. -/
def execCtxctlEndLeaf (ctx : Nat) (s : State) : Host.Outcome State Fault Refusal := .next (s.ctxctlEnd ctx)

/-- R389: the HYP bank of the context that CTXCTL named last (log 73). -/
def State.bankWrite (s : State) (n : Nat) (value : Word) : State :=
  let v := value.toNat
  let put : Ctx → Ctx := fun c =>
    { c with trapH := match n with
      | 0 => { c.trapH with pc := BitVec.ofNat 64 (v / 2 * 2) }
      | 1 => { c.trapH with mask := BitVec.ofNat 64 (v % 2 ^ 12) }
      | 2 => { c.trapH with cause := BitVec.ofNat 64 (c.trapH.cause.toNat % 2 ^ 28 + v / 2 ^ 28 % 16 * 2 ^ 28) }
      | 3 => { c.trapH with addr := value }
      | 4 => { c.trapH with xa := value }
      | _ => { c.trapH with xb := value } }
  match stoppedOwner s s.ctxsel with
  | some o => s.modOwner o put
  | none => s.modCtx s.ctxsel put

/-! ### The fabric's registers (R200, R209) and the power cap (R416) -/

/-- CODERATE_WRITE (R200). -/
def execCoderateWrite (reg : Nat) (value : Word) (s : State) : Host.Outcome State Fault Refusal :=
  .next (s.fabWrite (0x400 + reg % 8) value)
/-- LOSSTMO_WRITE (R209). -/
def execLosstmoWrite (value : Word) (s : State) : Host.Outcome State Fault Refusal := .next (s.fabWrite 0x408 value)

/-- R416: a CAP outside 300 to 1,800 W is ignored. -/
def State.pwrcapWrite (s : State) (value : Word) : State :=
  let c := natField value.toNat 0 16
  if 300 ≤ c && c ≤ 1800 then { s with pwrCap := c } else s
/-- PWRCAP_WRITE. -/
def execPwrcapWrite (value : Word) (s : State) : Host.Outcome State Fault Refusal := .next (s.pwrcapWrite value)

/-! ### Attestation and shed requests (R413, R415) -/

/-- R413: the stall named by ATTDST, where it is ACTIVE and holds a report. The nonce and the report stand from its first byte on: of
ATTDST, R413 uses the stall that it names (log 133). -/
def attStall (s : State) : Option Stall :=
  let x := s.stall hypDev (addrStall s.attdst)
  if isStallAddr s.attdst && x.id != 0 && x.st == .active && 8464 ≤ 64 * x.len then some x else none

/-- R413: a request: the nonce is read in the cycle of the write; a second request is ignored. -/
def State.attRequest (s : State) : State :=
  match attStall s, s.attBusy with
  | some x, none => { s with attBusy := some (s.attdst, s.mem.readN x.phys 32) }
  | _, _ => s
/-- ATTREQ. -/
def execAttreq (s : State) : Host.Outcome State Fault Refusal := .next s.attRequest

/-- R397, R399: a warning starts shed entry: every core receives a pre-emption request. During exit, entry starts again; during
entry and in the shed state it changes nothing. -/
def State.warn (s : State) : State :=
  if s.shed == .running || s.shed == .exiting then
    { s with shed := .entering, stable := false, shedAt := s.station
             cores := s.cores.map fun (e : Nat × Core) =>
               (e.1, if e.2.owner != 0 && e.2.pre.isNone then { e.2 with pre := some s.tick } else e.2) }
  else s
/-- BOWARN (R397, R415). -/
def execBowarn (s : State) : Host.Outcome State Fault Refusal := .next s.warn
/-- SHEDREQ (R415). -/
def execShedreq (s : State) : Host.Outcome State Fault Refusal := .next s.warn

/-! ### The window (R401 to R403) -/

/-- R404: HEAD and LOST of a ring's pointer register; TAIL is read-only. -/
def Ring.write (g : Ring) (v : Nat) : Ring := { g with head := natField v 0 8, lost := natField v 32 16 }

/-- R402, R403: a register of a device, under its access codes; other numbers are ignored (R401). -/
def Device.write (n : Nat) (value : Word) (d : Device) : Device :=
  let v := value.toNat
  let rate := fun (m : FMap Nat) (i lo : Nat) => m.set 0 i (natField v lo 16)
  if n = 0x801 then { d with ptbase := value }
  else if n = 0x804 then { d with topacct := natField v 0 8 }
  else if n = 0x807 then { d with rates := rate (rate (rate (rate d.rates 3 48) 2 32) 1 16) 0 0 }
  else if n = 0x808 then { d with rates := rate (rate d.rates 5 16) 4 0 }
  else if n = 0x80A then { d with hbmshare := natField v 0 16 }
  else if n = 0x80B then { d with mitcnt := natField v 0 32 }
  else if 0x80C ≤ n ∧ n ≤ 0x80F then { d with pmallow := d.pmallow.set 0 (n - 0x80C) value }
  else if n = 0x811 then { d with refused := d.refused && !value.getLsbD 0 }
  else if n = 0x812 then { d with burst := natField v 16 16, rate := natField v 0 16 }
  else if n = 0x814 then { d with drvq := { d.drvq with addr := value } }
  else if n = 0x815 then { d with drvq := d.drvq.write v }
  else if n = 0x816 then { d with subring := value }
  else if n = 0x817 then { d with subSize := natField v 0 12 }
  else if n = 0x826 then { d with grpbase := value }
  else if n = 0x41A then { d with dhimg := value }
  else d

/-- R402, R403: a register of a device that the window reaches through VDSEL and that `Device.write` and `Device.read` hold. -/
def deviceReg (n : Nat) : Bool := (0x801 ≤ n && n ≤ 0x812) || (0x814 ≤ n && n ≤ 0x817) || n == 0x826 || n == 0x41A

/-- R33: MIGCTL as 64 bits. -/
def MigCtl.bits (m : MigCtl) : Nat :=
  m.epoch * 2 ^ 32 + m.promote * 2 ^ 24 + m.demote * 2 ^ 16 + bnat m.pause * 2 + bnat m.en
/-- R33: MIGCTL from a value written. -/
def MigCtl.ofBits (v : Nat) : MigCtl :=
  { epoch := natField v 32 16, promote := natField v 24 8, demote := natField v 16 8, pause := bitAt v 1, en := bitAt v 0 }
/-- R33: Config gives the four dies' MIGCTL numbers of their own that no chapter assigns (log 103). -/
def migctlGood : Bool := (List.range 4).all fun d =>
  Config.migctlNum d < 4096 && !csrAssigned (Config.migctlNum d) && (List.range d).all fun e => Config.migctlNum e != Config.migctlNum d
/-- R33: the number of a die's MIGCTL, which the spec does not give: that of Config where it can be one (log 103). -/
def migctlReg (die : Nat) : Nat := if migctlGood then Config.migctlNum die else 0xF00 + die
/-- R33: the die whose MIGCTL has a number. -/
def migctlDie (n : Nat) : Option Nat := (List.range 4).find? fun d => migctlReg d == n

/-- R405: a CTXCTL write. -/
def State.ctxctl (s : State) (v : Nat) : State :=
  match natField v 8 2 with
  | 0 => { s with ctxsel := natField v 0 8 }
  | 1 => s.ctxctlResume (natField v 0 8) .user (bitAt v 10)
  | 2 => s.ctxctlResume (natField v 0 8) .driver (bitAt v 10)
  | _ => s.ctxctlEnd (natField v 0 8)

/-- R401 to R403: a write to a register of the window, under the access codes of R6; per-device registers are those of VDSEL.DEV.
Unassigned numbers and read-only registers ignore it. -/
def State.regWrite (s : State) (n : Nat) (value : Word) : State :=
  let v := value.toNat
  if 0x400 ≤ n ∧ n ≤ 0x409 then s.fabWrite n value
  else if n = 0x800 then { s with vdsel := natField v 0 6 }
  else if n = 0x802 then s.dtbaseWrite s.vdsel value
  else if n = 0x803 then (if value.getLsbD 0 then s.invalidate s.vdsel none value else s.invalidate s.vdsel (some (natField v 16 47)) value)
  else if n = 0x805 then s.topup s.vdsel (s.dev s.vdsel).topacct value
  else if n = 0x809 then s.vdctlWrite s.vdsel value
  else if n = 0x810 then s.resvWrite s.vdsel value
  else if n = 0x813 then { s with ttbase := value }
  else if 0x818 ≤ n ∧ n ≤ 0x81D then s.bankWrite (n - 0x818) value
  else if n = 0x821 then { s with hypq := { s.hypq with addr := value } }
  else if n = 0x822 then { s with hypq := s.hypq.write v }
  else if n = 0x823 then { s with ltovf := value }
  else if n = 0x825 then s.ctxctl v
  else if n = 0x830 then s.pwrcapWrite value
  else if n = 0x831 then s.attRequest
  else if n = 0x832 then { s with attdst := value }
  else if n = 0xC10 then (if v = 1 then s.warn else s)
  else if deviceReg n then s.modDev s.vdsel (Device.write n value)
  else if csrAssigned n then s
  else match migctlDie n with
    | some die => { s with migctl := s.migctl.set {} die (MigCtl.ofBits v) }
    | none => s

/-- R409: a write through the BAR of the virtual function of a device: of DRVQPTR, HEAD alone. -/
def State.vfWrite (s : State) (dev n : Nat) (value : Word) : State :=
  if n = 0x815 then s.modDev dev fun d => { d with drvq := { d.drvq with head := natField value.toNat 0 8 } } else s

/-- REGISTER_WRITE: through function 0, the window, or through the virtual function of a device, one less (R400, R409). -/
def execRegisterWrite (reg : HostReg) (value : Word) (s : State) : Host.Outcome State Fault Refusal :=
  .next (if reg.func = 0 then s.regWrite reg.num.toNat value else s.vfWrite (reg.func - 1) reg.num.toNat value)

/-! ### Reads of the window and of the BARs (R6, R45, R401, R409) -/

/-- R404: a pointer register of a ring. -/
def Ring.pointers (g : Ring) : Nat := g.lost * 2 ^ 32 + g.tail * 2 ^ 8 + g.head

/-- R402, R403: a register of a device; a write-only one reads zero (R6), and so does an unassigned number (R401). -/
def Device.read (n : Nat) (d : Device) : Nat :=
  let rate := fun (i : Nat) => d.rates.get 0 i
  if n = 0x801 then d.ptbase.toNat
  else if n = 0x802 then d.dtbase.toNat
  else if n = 0x804 then d.topacct
  else if n = 0x806 then (BitVec.ofInt 64 (d.allow d.topacct)).toNat
  else if n = 0x807 then rate 3 * 2 ^ 48 + rate 2 * 2 ^ 32 + rate 1 * 2 ^ 16 + rate 0
  else if n = 0x808 then rate 5 * 2 ^ 16 + rate 4
  else if n = 0x809 then d.fabdom * 2 ^ 32 + d.grace * 2 ^ 8 + bnat d.en
  else if n = 0x80A then d.hbmshare
  else if n = 0x80B then d.mitcnt
  else if 0x80C ≤ n ∧ n ≤ 0x80F then (d.pmallow.get 0 (n - 0x80C)).toNat
  else if n = 0x810 then
    let t := (d.resv.get {} d.resvPad : Resv).terms
    d.resvPad * 2 ^ 60 + t.2 * 2 ^ 16 + t.1
  else if n = 0x811 then bnat d.refused
  else if n = 0x812 then bnat d.wakeAgain * 2 ^ 48 + d.tokens * 2 ^ 32 + d.burst * 2 ^ 16 + d.rate
  else if n = 0x814 then d.drvq.addr.toNat
  else if n = 0x815 then d.drvq.pointers
  else if n = 0x816 then d.subring.toNat
  else if n = 0x817 then d.subHead * 2 ^ 32 + d.subSize
  else if n = 0x826 then d.grpbase.toNat
  else if n = 0x41A then d.dhimg.toNat
  else 0

/-- The context that the HYP trap bank of the window belongs to: the one that CTXCTL named last (log 73). -/
def bankCtx (s : State) : Ctx :=
  match stoppedOwner s s.ctxsel with
  | some o => (savedCtx s o).getD (s.ctx o.key)
  | none => s.ctx s.ctxsel

/-- R396: SHEDSTAT.PHASE as a number. -/
def shedNat : ShedPhase → Nat | .running => 0 | .entering => 1 | .checkpoint => 1 | .shed => 2 | .exiting => 3

/-- R401: what a read of a number of the window returns. -/
def State.regRead (s : State) (n : Nat) : Word :=
  if 0x400 ≤ n ∧ n ≤ 0x409 then (pkgRegs s).get 0 n
  else if n = 0x813 then s.ttbase
  else if n = 0x818 then (bankCtx s).trapH.pc
  else if n = 0x819 then (bankCtx s).trapH.mask
  else if n = 0x81A then (bankCtx s).trapH.cause
  else if n = 0x81B then (bankCtx s).trapH.addr
  else if n = 0x81C then (bankCtx s).trapH.xa
  else if n = 0x81D then (bankCtx s).trapH.xb
  else if n = 0x821 then s.hypq.addr
  else if n = 0x823 then s.ltovf
  else if n = 0x832 then s.attdst
  else BitVec.ofNat 64 (
    if n = 0x800 then s.vdsel
    else if n = 0x820 then shedNat s.shed
    else if n = 0x822 then s.hypq.pointers
    else if n = 0x830 then s.pwrAvg * 2 ^ 32 + s.pwrCap
    else if n = 0x833 then s.hbmstat
    else if n = 0x834 then s.boots * 2 ^ 32 + s.bootStage * 2 ^ 4 + s.bootPhase
    else if deviceReg n then (s.dev s.vdsel).read n
    else if csrAssigned n then 0
    else match migctlDie n with
      | some die => (s.mig die).bits
      | none => 0)

/-- R409, R411: a function answers configuration requests: function 0 and the 64 virtual ones, and function 0 alone where boot
stopped. -/
def State.configAnswers (s : State) (fn : Nat) : Bool := fn == 0 || (s.bootStage == 0 && fn ≤ 64)
/-- R409, R411: a virtual function is enabled: none where boot stopped. -/
def State.vfEnabled (s : State) (fn : Nat) : Bool := s.bootStage == 0 && 1 ≤ fn && fn ≤ 64

/-- R409, R411: what a host read of 8 bytes returns, at an offset of the BAR of function 0; a package whose boot stopped answers none. -/
def State.pfRead (s : State) (off : Nat) : Option Word :=
  if s.bootStage ≠ 0 then none else some (if off / 8 < 4096 then s.regRead (off / 8) else 0)
/-- R409: the same in the BAR of the virtual function of a device: DRVQPTR at 8; what is reserved reads zero, and so does WAKE. -/
def State.vfRead (s : State) (dev off : Nat) : Option Word :=
  if !s.vfEnabled (dev + 1) then none
  else some (if off / 8 = 1 then BitVec.ofNat 64 ((s.dev dev).drvq.pointers) else 0)

/-- R45: a byte of a device's descriptor table, 32 bytes for each stall id. -/
def tableByte (s : State) (dev i : Nat) : Byte :=
  let x := (s.dev dev).stall (i / 32)
  if x.id = 0 then 0 else BitVec.ofNat 8 (x.bits / 2 ^ (8 * (i % 32)))

/-- R45: what the hypervisor ring reads at an address of a stall of its own: of the 1-MiB table that some DTBASE names the
descriptors, of any other byte what is stored there. -/
def State.hypRead (s : State) (a : Word) : Byte :=
  match (List.range 64).find? fun d =>
      let b := (s.dev d).dtbase
      b != 0 && addrStall b == addrStall a && addrOffset b ≤ addrOffset a && addrOffset a < addrOffset b + 2 ^ 20 with
  | some d => tableByte s d (addrOffset a - addrOffset (s.dev d).dtbase)
  | none => s.mem.read ((s.stall hypDev (addrStall a)).at a)

/-- EVENT_RING_RECORD (R404, R410): a record to the hypervisor ring, or to the driver ring of a device. -/
def execEventRingRecord (dev : Nat) (hyp : Bool) (record : List Byte) (s : State) : Host.Outcome State Fault Refusal :=
  let r := bytesToNat (record.take 32)
  .next (if hyp then s.hypRecord r else s.drvRecord dev r)

end Sys2Proof.Machine
end

