-- ==== Sys2Proof/Machine/Sha.lean ====
section
/-!
DEFINITION. Sys2Proof/Machine/Sha.lean: SHA-256 (R411, R412 name it; FIPS 180-4 gives it), of a list of bytes.
-/
namespace Sys2Proof.Machine

/-- The least n with n³ over m, below a bound: floor of the cube root. -/
def cubeRoot (m : Nat) : Nat → Nat → Nat
  | 0, lo => lo
  | f + 1, lo => cubeRoot m f (if (lo + 2 ^ f) * (lo + 2 ^ f) * (lo + 2 ^ f) ≤ m then lo + 2 ^ f else lo)

/-- Floor of the square root. -/
def sqRoot (m : Nat) : Nat → Nat → Nat
  | 0, lo => lo
  | f + 1, lo => sqRoot m f (if (lo + 2 ^ f) * (lo + 2 ^ f) ≤ m then lo + 2 ^ f else lo)

/-- The first 64 primes. -/
def shaPrimes : List Nat :=
  [2, 3, 5, 7, 11, 13, 17, 19, 23, 29, 31, 37, 41, 43, 47, 53, 59, 61, 67, 71, 73, 79, 83, 89, 97, 101, 103, 107, 109, 113,
    127, 131] ++
  [137, 139, 149, 151, 157, 163, 167, 173, 179, 181, 191, 193, 197, 199, 211, 223, 227, 229, 233, 239, 241, 251, 257, 263,
    269, 271, 277, 281, 283, 293, 307, 311]

/-- The round constants: the first 32 bits of the fractions of the primes' cube roots. -/
def shaK : List (BitVec 32) := shaPrimes.map fun p => BitVec.ofNat 32 (cubeRoot (p * 2 ^ 96) 35 0)
/-- The initial hash value: the first 32 bits of the fractions of the first eight primes' square roots. -/
def shaH0 : List (BitVec 32) := (shaPrimes.take 8).map fun p => BitVec.ofNat 32 (sqRoot (p * 2 ^ 64) 36 0)

/-- A big-endian natural of bytes. -/
def beNat (bs : List Byte) : Nat := bs.foldl (fun n b => n * 256 + b.toNat) 0
/-- n bytes of a natural, the most significant first. -/
def beBytes (n v : Nat) : List Byte := (List.range n).map fun i => BitVec.ofNat 8 (v / 256 ^ (n - 1 - i))

/-- The message schedule extended: the list holds the last 16 words, the newest last; fuel is the words still to make. -/
def shaSchedule : Nat → List (BitVec 32) → List (BitVec 32)
  | 0, _ => []
  | n + 1, w =>
    let a := w.getD 1 0
    let b := w.getD 14 0
    let s0 := a.rotateRight 7 ^^^ a.rotateRight 18 ^^^ (a >>> 3)
    let s1 := b.rotateRight 17 ^^^ b.rotateRight 19 ^^^ (b >>> 10)
    let v := w.getD 0 0 + s0 + w.getD 9 0 + s1
    v :: shaSchedule n (w.drop 1 ++ [v])

/-- One round on (a, …, h). -/
def shaRound (v : List (BitVec 32)) (kw : BitVec 32) : List (BitVec 32) :=
  let g := fun (i : Nat) => v.getD i 0
  let e := g 4
  let a := g 0
  let t1 := g 7 + (e.rotateRight 6 ^^^ e.rotateRight 11 ^^^ e.rotateRight 25) + ((e &&& g 5) ^^^ (~~~e &&& g 6)) + kw
  let t2 := (a.rotateRight 2 ^^^ a.rotateRight 13 ^^^ a.rotateRight 22) + ((a &&& g 1) ^^^ (a &&& g 2) ^^^ (g 1 &&& g 2))
  [t1 + t2, a, g 1, g 2, g 3 + t1, e, g 5, g 6]

/-- One block of 64 bytes. -/
def shaBlock (h : List (BitVec 32)) (bs : List Byte) : List (BitVec 32) :=
  let w := (List.range 16).map fun i => BitVec.ofNat 32 (beNat ((bs.drop (4 * i)).take 4))
  let ws := w ++ shaSchedule 48 w
  let v := (List.zipWith (fun a b => a + b) shaK ws).foldl shaRound h
  List.zipWith (fun a b => a + b) h v

/-- The padded message. -/
def shaPad (bs : List Byte) : List Byte :=
  bs ++ [0x80] ++ List.replicate ((119 - bs.length % 64) % 64) 0 ++ beBytes 8 (8 * bs.length)

/-- The blocks of a message, in order; fuel is their number. -/
def shaBlocks : Nat → List (BitVec 32) → List Byte → List (BitVec 32)
  | 0, h, _ => h
  | n + 1, h, bs => shaBlocks n (shaBlock h bs) (bs.drop 64)

/-- SHA-256, as 32 bytes. -/
def sha256 (bs : List Byte) : List Byte :=
  let m := shaPad bs
  (shaBlocks (m.length / 64) shaH0 m).flatMap fun w => beBytes 4 w.toNat

end Sys2Proof.Machine
end

