-- ==== Sys2Proof/Machine/Power.lean ====
section
/-!
DEFINITION. Sys2Proof/Machine/Power.lean: boot and measurement (R411, R412, R414), attestation (R413) and the shed state (R396
to R399).
-/
namespace Sys2Proof.Machine

/-! ### Measurements (R412) -/

/-- R412: MEASi as bytes. -/
def State.measBytes (s : State) (i : Nat) : List Byte := beBytes 32 (s.meas.get 0 i).toNat

/-- R412: an extension with the digest of an image. -/
def State.extend (s : State) (i : Nat) (digest : List Byte) : State :=
  { s with meas := s.meas.set 0 i (BitVec.ofNat 256 (beNat (sha256 (s.measBytes i ++ digest)))) }

/-- MEASUREMENT_EXTEND (R411, R412): MON extends a run-time register, MEAS4 to MEAS15. -/
def execMeasurementExtend (reg : Nat) (digest : List Byte) (s : State) : Host.Outcome State Fault Refusal :=
  .next (if 4 ≤ reg && reg ≤ 15 then s.extend reg (digest.take 32) else s)

/-! ### Boot (R411, R412, R414) -/

/-- R411: the key digest that the verifier of a stage trusts: for stage 1 the fused digest of the root key, the same at every boot. -/
def trustedDigest (boots n : Nat) : BitVec 256 := Config.trustedKey (if n = 1 then 0 else 16 * boots + n)

/-- R411: stage n of the boot that is under way: its image's signature verifies, its key has the digest that the stage before it
trusts, and its version is not below the fused counter of its number. -/
def stageOk (boots n : Nat) : Bool :=
  let i := 16 * boots + n
  Config.signed i && BitVec.ofNat 256 (beNat (sha256 ((List.range 32).map (Config.stageKey i)))) == trustedDigest boots n
  && Config.rollback n ≤ Config.stageVersion i

/-- R411, R412: the stages from n on, fuel of them: each is verified and measured before it runs. The first that fails is named, and
PHASE is the stage that then runs. -/
def State.bootStages : Nat → State → Nat → State
  | 0, s, _ => { s with bootPhase := 0 }
  | f + 1, s, n =>
    if stageOk s.boots n then
      State.bootStages f
        { s.extend (n - 1) (beBytes 32 (Config.stageDigest (16 * s.boots + n)).toNat) with bootPhase := n } (n + 1)
    else { s with bootStage := n }

/-- R414: HBMSTAT after training: 1 good, 2 repaired, 3 disabled. -/
def hbmTrained (boots : Nat) : Nat :=
  (List.range 8).foldl (fun a i => a + (Config.training boots i % 3 + 1) * 4 ^ i) 0

/-- R10, R414: the granules that the stacks of a die lose in training. -/
def stacksLost (boots die : Nat) : Nat :=
  1000000000 * ((List.range 2).filter fun i => Config.training boots (2 * die + i) % 3 == 2).length

/-- R414: training, by stage 3. A disabled stack takes its capacity from the HBM of its die, which a TIER stall may also need. -/
def State.train (s : State) : State :=
  { s with hbmstat := hbmTrained s.boots
           poolHbm := (List.range 4).map fun d => s.poolHbm.getD d 0 - stacksLost s.boots d }

/-- PACKAGE_RESET (R411): everything is at its reset value; the stages boot in turn. What the model keeps beside: the count of
package resets, its place among free values, the package's number on the fabric, and what the world still brings, in cycles
from this reset on (log 106). -/
def execPackageReset (s : State) : Host.Outcome State Fault Refusal :=
  let t := { State.reset with boots := min (s.boots + 1) (ones 32), freeCtr := s.freeCtr, pkgid := s.pkgid
                              inputs := s.inputs, softErrs := s.softErrs }
  let t := t.bootStages 4 1
  .next (if t.bootStage = 0 || t.bootStage = 4 then t.train else t)

/-- An input that resets the package. -/
def isReset : Instr → Bool | .packageReset => true | _ => false
/-- R411: after a boot that failed, the package does nothing before the next package reset that the world brings. -/
def resetAhead (s : State) : Option State :=
  match s.inputs.dropWhile fun e => !isReset e.2 with
  | _ :: rest => some { s with inputs := rest, todo := [], cur := 0 }
  | [] => none

/-! ### Attestation (R413) -/

/-- R413: the bytes of a report that are signed. -/
def reportBody (s : State) (nonce : List Byte) : List Byte :=
  natToBytes 2 1 ++ natToBytes 6 0 ++ natToBytes 8 Config.serial.toNat ++ nonce
  ++ (List.range 16).flatMap s.measBytes ++ natToBytes 8 s.boots ++ natToBytes 8 s.shedCount
  ++ (List.range 32).map Config.attKey

/-- R413: the report. -/
def report (s : State) (nonce : List Byte) : List Byte :=
  let b := reportBody s nonce
  b ++ (List.range 7856).map (Config.signature b)

/-- ATTESTATION_COMPLETE (R413): one pending when shed entry begins completes after exit (R417). -/
def execAttestationComplete (s : State) : Host.Outcome State Fault Refusal :=
  match s.attBusy with
  | some (a, nonce) =>
    if s.shed != .running then .next s
    else
      let x := s.stall hypDev (addrStall a)
      let s := { s with attBusy := none }
      let s := if x.id = 0 then s else s.storeCells (placeBytes x.phys (report s nonce))
      .next (s.hypRecord (mkRecord a s.station 0 0 0 8 4 rsOK stOK 0))
  | none => .next s

/-! ### The shed state (R396 to R399) -/

/-- R397: every core is pre-empted, the end of the second step of entry. -/
def coresStopped (s : State) : Bool := s.cores.all fun e => e.2.owner == 0 || coreStopped s e.1
/-- R220: the fragments that the package has begun to send have left. -/
def sendsStopped (s : State) : Bool := s.sends.all fun x => (jobXfers s x.id).isEmpty
/-- R397: every command stands at a 4-KiB boundary of its destination, and the fabric commands have stopped. -/
def allStopped (s : State) : Bool := s.shed == .checkpoint && atBlocks s && sendsStopped s

/-- R161, R219, R397, R398: a core restored after a shed: its planes are replayed, a stream goes on at its next row, and the instances of its
timetable whose start has passed are missed. -/
def State.unshedCore (s : State) (n : Nat) : State :=
  let k := s.core n
  if k.owner = 0 then s
  else
    let keep : Bool := match s.launch k.owner with | some l => l.stage == .preempting | none => false
    let s := s.replayPlanes n
    let s := s.modCore n fun k =>
      { k with pre := if keep then k.pre else none
               eng := { k.eng with stream := k.eng.stream.map fun (t : Stream) =>
                 { t with start := s.station + 1 - t.planes * t.next } } }
    (s.modCtxs n fun c => { c with hold := none, snapped := false }).closeTable n

/-- R383: the slots of the time-triggered table that fell between two times. -/
def State.missSlots (s : State) (first last : Nat) : State :=
  (List.range 256).foldl (fun s i => match slotEntry s i with
    | some (_, bs) =>
      let t := s.ttSlots.get {} i
      { s with ttSlots := s.ttSlots.set {} i { t with missed := t.missed + (slotsReached bs last - slotsReached bs first) } }
    | none => s) s

/-- R396, R398: exit: SHEDGAP is written and every core restored; contexts issue from F + 1 on. -/
def State.shedExit (s : State) : State :=
  let now := Config.wallClock (2 * s.freeCtr + 1)
  let s := { s with shed := .exiting, stable := false, freeCtr := s.freeCtr + 1, shedCount := min (s.shedCount + 1) (ones 16)
                    shedGap := min (now - s.shedStart) (ones 48) }
  ((s.cores.map Prod.fst).foldl State.unshedCore s).missSlots s.shedStart now

/-- SHED_FREEZE (R397, R399): the counter stops; where power is stable already, exit follows directly. -/
def execShedFreeze (s : State) : Host.Outcome State Fault Refusal :=
  if !allStopped s then .next s
  else
    let s := { s with shed := .shed, frozen := true, shedStart := Config.wallClock (2 * s.freeCtr + 1), freeCtr := s.freeCtr + 1 }
    .next (if s.stable then s.shedExit else s)

/-- PWROK (R398, R399, R415). -/
def execPwrok (s : State) : Host.Outcome State Fault Refusal :=
  match s.shed with
  | .shed => .next s.shedExit
  | .entering | .checkpoint => .next { s with stable := true }
  | _ => .next s

end Sys2Proof.Machine
end

