-- ==== Sys2Proof/Machine/Dispatch.lean ====
section
/-!
DEFINITION. Sys2Proof/Machine/Dispatch.lean: the meaning of each instruction, one arm per constructor.
-/
namespace Sys2Proof.Machine

/-- What one instruction does. -/
def exec (i : Instr) (s : State) : Host.Outcome State Fault Refusal :=
  match i with
  -- rows 0 to 4: what a core does as it issues
  | .bundleIssue => Sys2Proof.Machine.execBundleIssue s
  | .writeLanding => Sys2Proof.Machine.execWriteLanding s
  | .transferEffect => Sys2Proof.Machine.execTransferEffect s
  | .nearAccessPerform id => Sys2Proof.Machine.execNearAccessPerform id s
  | .trapEntry => Sys2Proof.Machine.execTrapEntry s
  -- B slot (R234)
  | .ptg t off => Sys2Proof.Machine.execPtg t off s
  | .br c t => Sys2Proof.Machine.execBr c t s
  | .bra t => Sys2Proof.Machine.execBra t s
  | .brx x => Sys2Proof.Machine.execBrx x s
  | .call x t => Sys2Proof.Machine.execCall x t s
  | .ret x => Sys2Proof.Machine.execRet x s
  | .loop lc x off => Sys2Proof.Machine.execLoop lc x off s
  | .loopi lc count off => Sys2Proof.Machine.execLoopi lc count off s
  -- S slots (R235)
  | .add sl d a b => Sys2Proof.Machine.execAdd sl d a b s
  | .sub sl d a b => Sys2Proof.Machine.execSub sl d a b s
  | .and sl d a b => Sys2Proof.Machine.execAnd sl d a b s
  | .or sl d a b => Sys2Proof.Machine.execOr sl d a b s
  | .xor sl d a b => Sys2Proof.Machine.execXor sl d a b s
  | .shl sl d a b => Sys2Proof.Machine.execShl sl d a b s
  | .shr sl d a b => Sys2Proof.Machine.execShr sl d a b s
  | .sra sl d a b => Sys2Proof.Machine.execSra sl d a b s
  | .min sl d a b => Sys2Proof.Machine.execMin sl d a b s
  | .max sl d a b => Sys2Proof.Machine.execMax sl d a b s
  | .minn sl d a b => Sys2Proof.Machine.execMinn sl d a b s
  | .maxn sl d a b => Sys2Proof.Machine.execMaxn sl d a b s
  | .mov sl d a => Sys2Proof.Machine.execMov sl d a s
  | .sel sl d a b c => Sys2Proof.Machine.execSel sl d a b c s
  | .clz sl d a => Sys2Proof.Machine.execClz sl d a s
  | .ctz sl d a => Sys2Proof.Machine.execCtz sl d a s
  | .popc sl d a => Sys2Proof.Machine.execPopc sl d a s
  | .mul sl d a b => Sys2Proof.Machine.execMul sl d a b s
  | .mulh sl d a b => Sys2Proof.Machine.execMulh sl d a b s
  | .mulhn sl d a b => Sys2Proof.Machine.execMulhn sl d a b s
  | .divs sl d a b => Sys2Proof.Machine.execDivs sl d a b s
  | .divn sl d a b => Sys2Proof.Machine.execDivn sl d a b s
  | .rems sl d a b => Sys2Proof.Machine.execRems sl d a b s
  | .remn sl d a b => Sys2Proof.Machine.execRemn sl d a b s
  | .addi sl d a imm => Sys2Proof.Machine.execAddi sl d a imm s
  | .andi sl d a imm => Sys2Proof.Machine.execAndi sl d a imm s
  | .ori sl d a imm => Sys2Proof.Machine.execOri sl d a imm s
  | .xori sl d a imm => Sys2Proof.Machine.execXori sl d a imm s
  | .shli sl d a n => Sys2Proof.Machine.execShli sl d a n s
  | .shri sl d a n => Sys2Proof.Machine.execShri sl d a n s
  | .srai sl d a n => Sys2Proof.Machine.execSrai sl d a n s
  | .li sl d imm => Sys2Proof.Machine.execLi sl d imm s
  | .lih sl d imm q => Sys2Proof.Machine.execLih sl d imm q s
  | .ceq sl c a b => Sys2Proof.Machine.execCeq sl c a b s
  | .cne sl c a b => Sys2Proof.Machine.execCne sl c a b s
  | .clt sl c a b => Sys2Proof.Machine.execClt sl c a b s
  | .cltn sl c a b => Sys2Proof.Machine.execCltn sl c a b s
  | .cle sl c a b => Sys2Proof.Machine.execCle sl c a b s
  | .clen sl c a b => Sys2Proof.Machine.execClen sl c a b s
  | .anyk sl c k lanes => Sys2Proof.Machine.execAnyk sl c k lanes s
  | .allk sl c k lanes => Sys2Proof.Machine.execAllk sl c k lanes s
  | .csrr sl d num => Sys2Proof.Machine.execCsrr sl d num s
  | .csrw sl num a => Sys2Proof.Machine.execCsrw sl num a s
  | .stg sl s_ a => Sys2Proof.Machine.execStg sl s_ a s
  | .stgi sl s_ imm => Sys2Proof.Machine.execStgi sl s_ imm s
  -- A slot (R236)
  | .ldb zero d base off => Sys2Proof.Machine.execLdb zero d base off s
  | .ldh zero d base off => Sys2Proof.Machine.execLdh zero d base off s
  | .ldw zero d base off => Sys2Proof.Machine.execLdw zero d base off s
  | .ldd d base off => Sys2Proof.Machine.execLdd d base off s
  | .stb src base off => Sys2Proof.Machine.execStb src base off s
  | .sth src base off => Sys2Proof.Machine.execSth src base off s
  | .stw src base off => Sys2Proof.Machine.execStw src base off s
  | .std src base off => Sys2Proof.Machine.execStd src base off s
  | .ldv d base off k lw => Sys2Proof.Machine.execLdv d base off k lw s
  | .stv src base off k lw => Sys2Proof.Machine.execStv src base off k lw s
  | .ldvs d base off stride => Sys2Proof.Machine.execLdvs d base off stride s
  | .stvs src base off stride => Sys2Proof.Machine.execStvs src base off stride s
  | .ldk k base off => Sys2Proof.Machine.execLdk k base off s
  | .stk k base off => Sys2Proof.Machine.execStk k base off s
  | .accrd d base off k => Sys2Proof.Machine.execAccrd d base off k s
  | .accwr src base off k => Sys2Proof.Machine.execAccwr src base off k s
  | .tld d base off => Sys2Proof.Machine.execTld d base off s
  | .tst src base off => Sys2Proof.Machine.execTst src base off s
  | .atom op wide d base s_ c off => Sys2Proof.Machine.execAtom op wide d base s_ c off s
  -- V slots, integer and permute (R288)
  | .vadd sl f d a b k => Sys2Proof.Machine.execVadd sl f d a b k s
  | .vsub sl f d a b k => Sys2Proof.Machine.execVsub sl f d a b k s
  | .vaddsat sl f d a b k => Sys2Proof.Machine.execVaddsat sl f d a b k s
  | .vsubsat sl f d a b k => Sys2Proof.Machine.execVsubsat sl f d a b k s
  | .vmul sl f d a b k => Sys2Proof.Machine.execVmul sl f d a b k s
  | .vmulw sl f w d a b k => Sys2Proof.Machine.execVmulw sl f w d a b k s
  | .vmac sl f d a b k => Sys2Proof.Machine.execVmac sl f d a b k s
  | .vmacw sl f w d a b k => Sys2Proof.Machine.execVmacw sl f w d a b k s
  | .vabs sl f d a k => Sys2Proof.Machine.execVabs sl f d a k s
  | .vneg sl f d a k => Sys2Proof.Machine.execVneg sl f d a k s
  | .vmin sl f d a b k => Sys2Proof.Machine.execVmin sl f d a b k s
  | .vmax sl f d a b k => Sys2Proof.Machine.execVmax sl f d a b k s
  | .vand sl f d a b k => Sys2Proof.Machine.execVand sl f d a b k s
  | .vor sl f d a b k => Sys2Proof.Machine.execVor sl f d a b k s
  | .vxor sl f d a b k => Sys2Proof.Machine.execVxor sl f d a b k s
  | .vnot sl f d a k => Sys2Proof.Machine.execVnot sl f d a k s
  | .vshl sl f d a b k => Sys2Proof.Machine.execVshl sl f d a b k s
  | .vshr sl f d a b k => Sys2Proof.Machine.execVshr sl f d a b k s
  | .vsra sl f d a b k => Sys2Proof.Machine.execVsra sl f d a b k s
  | .vcmp sl f cc kd a b k => Sys2Proof.Machine.execVcmp sl f cc kd a b k s
  | .vsel sl f d a b k => Sys2Proof.Machine.execVsel sl f d a b k s
  | .vredsum sl f d a k => Sys2Proof.Machine.execVredsum sl f d a k s
  | .vredmax sl f d a k => Sys2Proof.Machine.execVredmax sl f d a k s
  | .vredmin sl f d a k => Sys2Proof.Machine.execVredmin sl f d a k s
  | .vbcst sl f d a lane k => Sys2Proof.Machine.execVbcst sl f d a lane k s
  | .vperm sl f d a b k => Sys2Proof.Machine.execVperm sl f d a b k s
  | .vrot sl f d a count k => Sys2Proof.Machine.execVrot sl f d a count k s
  | .vzip sl f d a b k => Sys2Proof.Machine.execVzip sl f d a b k s
  | .vunzip sl f d a k => Sys2Proof.Machine.execVunzip sl f d a k s
  | .vpack sl f m d a k => Sys2Proof.Machine.execVpack sl f m d a k s
  | .vunpack sl f d a k => Sys2Proof.Machine.execVunpack sl f d a k s
  | .vdpack sl f d a plane => Sys2Proof.Machine.execVdpack sl f d a plane s
  | .vtpack sl f d a => Sys2Proof.Machine.execVtpack sl f d a s
  -- V slots, float (R302)
  | .vfadd sl f r d a b k => Sys2Proof.Machine.execVfadd sl f r d a b k s
  | .vfsub sl f r d a b k => Sys2Proof.Machine.execVfsub sl f r d a b k s
  | .vfmul sl f r d a b k => Sys2Proof.Machine.execVfmul sl f r d a b k s
  | .vfma sl f r d a b k => Sys2Proof.Machine.execVfma sl f r d a b k s
  | .vfnma sl f r d a b k => Sys2Proof.Machine.execVfnma sl f r d a b k s
  | .vfmin sl f d a b k => Sys2Proof.Machine.execVfmin sl f d a b k s
  | .vfmax sl f d a b k => Sys2Proof.Machine.execVfmax sl f d a b k s
  | .vfabs sl f d a k => Sys2Proof.Machine.execVfabs sl f d a k s
  | .vfneg sl f d a k => Sys2Proof.Machine.execVfneg sl f d a k s
  | .vfcmp sl f cc kd a b k => Sys2Proof.Machine.execVfcmp sl f cc kd a b k s
  | .vfredsum sl f r d a k => Sys2Proof.Machine.execVfredsum sl f r d a k s
  | .vcvt sl t f r d a k => Sys2Proof.Machine.execVcvt sl t f r d a k s
  | .vbfix sl keep r d a k => Sys2Proof.Machine.execVbfix sl keep r d a k s
  | .vbflt sl r d a k => Sys2Proof.Machine.execVbflt sl r d a k s
  | .vrcp sl r d a k => Sys2Proof.Machine.execVrcp sl r d a k s
  | .vrsq sl r d a k => Sys2Proof.Machine.execVrsq sl r d a k s
  | .vsqrt sl r d a k => Sys2Proof.Machine.execVsqrt sl r d a k s
  | .vexp2 sl r d a k => Sys2Proof.Machine.execVexp2 sl r d a k s
  | .vlog2 sl r d a k => Sys2Proof.Machine.execVlog2 sl r d a k s
  | .vtanh sl r d a k => Sys2Proof.Machine.execVtanh sl r d a k s
  | .vsigm sl r d a k => Sys2Proof.Machine.execVsigm sl r d a k s
  -- V2, witnesses (R312, R313)
  | .wmax sl f d a n k => Sys2Proof.Machine.execWmax sl f d a n k s
  | .wmin sl f d a n k => Sys2Proof.Machine.execWmin sl f d a n k s
  | .wclamp sl f d a b k => Sys2Proof.Machine.execWclamp sl f d a b k s
  | .wmed sl f d a n k => Sys2Proof.Machine.execWmed sl f d a n k s
  | .wsat sl f d a n k => Sys2Proof.Machine.execWsat sl f d a n k s
  | .adjb sl d a b xg k => Sys2Proof.Machine.execAdjb sl d a b xg k s
  -- M slot (R239)
  | .mcall idx => Sys2Proof.Machine.execMcall idx s
  | .mcallT idx off => Sys2Proof.Machine.execMcallT idx off s
  | .mcfg w nat sat => Sys2Proof.Machine.execMcfg w nat sat s
  | .mloadCode => Sys2Proof.Machine.execMloadCode s
  | .mloadTable => Sys2Proof.Machine.execMloadTable s
  | .mhalt => Sys2Proof.Machine.execMhalt s
  -- Q slot (R240)
  | .qld n a => Sys2Proof.Machine.execQld n a s
  | .qset n a => Sys2Proof.Machine.execQset n a s
  | .qclr n => Sys2Proof.Machine.execQclr n s
  -- D slot (R241)
  | .dcopy c t eq => Sys2Proof.Machine.execDcopy c t eq s
  | .dcopy2 c t eq => Sys2Proof.Machine.execDcopy2 c t eq s
  | .dgath c t eq => Sys2Proof.Machine.execDgath c t eq s
  | .dscat c t eq => Sys2Proof.Machine.execDscat c t eq s
  | .dfill c t eq => Sys2Proof.Machine.execDfill c t eq s
  | .datom c t eq => Sys2Proof.Machine.execDatom c t eq s
  | .dchase c t eq => Sys2Proof.Machine.execDchase c t eq s
  | .dmig c t eq => Sys2Proof.Machine.execDmig c t eq s
  -- G slot (R241)
  | .adec c t eq => Sys2Proof.Machine.execAdec c t eq s
  | .aplan c t eq => Sys2Proof.Machine.execAplan c t eq s
  | .amerge norm c t eq => Sys2Proof.Machine.execAmerge norm c t eq s
  | .kvinv c t eq => Sys2Proof.Machine.execKvinv c t eq s
  | .kfork rel c t eq => Sys2Proof.Machine.execKfork rel c t eq s
  | .gsend c t eq => Sys2Proof.Machine.execGsend c t eq s
  | .grecv c t eq => Sys2Proof.Machine.execGrecv c t eq s
  | .gred c t eq => Sys2Proof.Machine.execGred c t eq s
  | .gtt c eq => Sys2Proof.Machine.execGtt c eq s
  -- Y slot (R242)
  | .rent x => Sys2Proof.Machine.execRent x s
  | .prepay x => Sys2Proof.Machine.execPrepay x s
  | .renew x => Sys2Proof.Machine.execRenew x s
  | .sublet x => Sys2Proof.Machine.execSublet x s
  | .vacate x => Sys2Proof.Machine.execVacate x s
  | .rentq x => Sys2Proof.Machine.execRentq x s
  | .evwait => Sys2Proof.Machine.execEvwait s
  | .evpop x => Sys2Proof.Machine.execEvpop x s
  | .fence scope kind => Sys2Proof.Machine.execFence scope kind s
  | .realign => Sys2Proof.Machine.execRealign s
  | .wake x => Sys2Proof.Machine.execWake x s
  | .jinit x => Sys2Proof.Machine.execJinit x s
  | .jadd x => Sys2Proof.Machine.execJadd x s
  | .jdone x => Sys2Proof.Machine.execJdone x s
  | .jwait x => Sys2Proof.Machine.execJwait x s
  | .launch x => Sys2Proof.Machine.execLaunch x s
  | .tbind x => Sys2Proof.Machine.execTbind x s
  | .tsnap x => Sys2Proof.Machine.execTsnap x s
  | .troll x => Sys2Proof.Machine.execTroll x s
  | .tfork x => Sys2Proof.Machine.execTfork x s
  | .trap n => Sys2Proof.Machine.execTrap n s
  | .eretRetry => Sys2Proof.Machine.execEretRetry s
  | .eretSkip => Sys2Proof.Machine.execEretSkip s
  | .halt => Sys2Proof.Machine.execHalt s
  -- micro-ops (R319 to R327)
  | .microEnd p => Sys2Proof.Machine.execMicroEnd p s
  | .microLoop cp e par count => Sys2Proof.Machine.execMicroLoop cp e par count s
  | .endl => Sys2Proof.Machine.execEndl s
  | .ldst p st layer src stp imm => Sys2Proof.Machine.execLdst p st layer src stp imm s
  | .swap p => Sys2Proof.Machine.execSwap p s
  | .strm p st m pa arow sa sw wofs => Sys2Proof.Machine.execStrm p st m pa arow sa sw wofs s
  | .wcfg p st par stp imm => Sys2Proof.Machine.execWcfg p st par stp imm s
  | .microZero p st pa arow sa n1 => Sys2Proof.Machine.execMicroZero p st pa arow sa n1 s
  | .drn p st pa arow sa pd sd n1 rsc csc => Sys2Proof.Machine.execDrn p st pa arow sa pd sd n1 rsc csc s
  | .drnq p st pa arow sa pd sd n1 scm scs pz w16 => Sys2Proof.Machine.execDrnq p st pa arow sa pd sd n1 scm scs pz w16 s
  | .drnx p st pa arow sa conv rt n1 sc1 sc2 pz w16 => Sys2Proof.Machine.execDrnx p st pa arow sa conv rt n1 sc1 sc2 pz w16 s
  | .prot => Sys2Proof.Machine.execProt s
  | .post p code => Sys2Proof.Machine.execPost p code s
  -- rows 200 to 206: the array engine
  | .accumulatorAdd => Sys2Proof.Machine.execAccumulatorAdd s
  | .routineStart => Sys2Proof.Machine.execRoutineStart s
  | .routineTimingFailure => Sys2Proof.Machine.execRoutineTimingFailure s
  | .routineEngineEnding => Sys2Proof.Machine.execRoutineEngineEnding s
  | .routineHalted => Sys2Proof.Machine.execRoutineHalted s
  | .drainSlot => Sys2Proof.Machine.execDrainSlot s
  | .mloadComplete => Sys2Proof.Machine.execMloadComplete s
  -- rows 207 to 217: translation, transfer and group engines
  | .commandTranslation cmd => Sys2Proof.Machine.execCommandTranslation cmd s
  | .walkComplete walk => Sys2Proof.Machine.execWalkComplete walk s
  | .transferStart cmd => Sys2Proof.Machine.execTransferStart cmd s
  | .timedStartFailure cmd => Sys2Proof.Machine.execTimedStartFailure cmd s
  | .badparamRecord cmd => Sys2Proof.Machine.execBadparamRecord cmd s
  | .groupCommandStart cmd => Sys2Proof.Machine.execGroupCommandStart cmd s
  | .packetPerform xfer => Sys2Proof.Machine.execPacketPerform xfer s
  | .packetReply xfer => Sys2Proof.Machine.execPacketReply xfer s
  | .enginePortAccess xfer => Sys2Proof.Machine.execEnginePortAccess xfer s
  | .decodePage cmd => Sys2Proof.Machine.execDecodePage cmd s
  | .groupCommandComplete cmd => Sys2Proof.Machine.execGroupCommandComplete cmd s
  -- rows 218, 219: the tack room
  | .tackCommandStart => Sys2Proof.Machine.execTackCommandStart s
  | .tackCommandComplete => Sys2Proof.Machine.execTackCommandComplete s
  -- rows 220 to 237: the fabric
  | .fragmentSend send => Sys2Proof.Machine.execFragmentSend send s
  | .fragmentArrival dev port header payload => Sys2Proof.Machine.execFragmentArrival dev port header payload s
  | .receiveDecodeEnd msg => Sys2Proof.Machine.execReceiveDecodeEnd msg s
  | .messageLost msg => Sys2Proof.Machine.execMessageLost msg s
  | .heldMessageDiscard msg => Sys2Proof.Machine.execHeldMessageDiscard msg s
  | .gsendDeadline send => Sys2Proof.Machine.execGsendDeadline send s
  | .grecvWaitExpiry recv => Sys2Proof.Machine.execGrecvWaitExpiry recv s
  | .deliveryNotice mid => Sys2Proof.Machine.execDeliveryNotice mid s
  | .finalLossNotice mid => Sys2Proof.Machine.execFinalLossNotice mid s
  | .heldNotice mid => Sys2Proof.Machine.execHeldNotice mid s
  | .resendNotice mid missing => Sys2Proof.Machine.execResendNotice mid missing s
  | .abandonNotice src mid => Sys2Proof.Machine.execAbandonNotice src mid s
  | .reductionTimeout red => Sys2Proof.Machine.execReductionTimeout red s
  | .gredDeadline cmd => Sys2Proof.Machine.execGredDeadline cmd s
  | .timetableInstanceStart => Sys2Proof.Machine.execTimetableInstanceStart s
  | .timetableSendEntry core entry => Sys2Proof.Machine.execTimetableSendEntry core entry s
  | .timetableConsumeDeadline core entry => Sys2Proof.Machine.execTimetableConsumeDeadline core entry s
  | .timetableInstanceEnd => Sys2Proof.Machine.execTimetableInstanceEnd s
  -- rows 238 to 249: boundaries, rent and memory management
  | .tickBoundary => Sys2Proof.Machine.execTickBoundary s
  | .stallLapse dev stall => Sys2Proof.Machine.execStallLapse dev stall s
  | .overstayCharge dev stall => Sys2Proof.Machine.execOverstayCharge dev stall s
  | .stallReclaim dev stall => Sys2Proof.Machine.execStallReclaim dev stall s
  | .reclaimScrub scrub => Sys2Proof.Machine.execReclaimScrub scrub s
  | .storageReturn ret => Sys2Proof.Machine.execStorageReturn ret s
  | .sharedStoreCommit => Sys2Proof.Machine.execSharedStoreCommit s
  | .realignRelease => Sys2Proof.Machine.execRealignRelease s
  | .heatHalving => Sys2Proof.Machine.execHeatHalving s
  | .migrationChoice => Sys2Proof.Machine.execMigrationChoice s
  | .migrationSwitch => Sys2Proof.Machine.execMigrationSwitch s
  | .rowMitigation stack row => Sys2Proof.Machine.execRowMitigation stack row s
  -- rows 250 to 264: the yardmaster
  | .yardmasterBoundary => Sys2Proof.Machine.execYardmasterBoundary s
  | .gangTick => Sys2Proof.Machine.execGangTick s
  | .snapshotWaitExpiry => Sys2Proof.Machine.execSnapshotWaitExpiry s
  | .preemptionHalt => Sys2Proof.Machine.execPreemptionHalt s
  | .launchResume => Sys2Proof.Machine.execLaunchResume s
  | .waveEnd => Sys2Proof.Machine.execWaveEnd s
  | .launchEnd => Sys2Proof.Machine.execLaunchEnd s
  | .coreRelease => Sys2Proof.Machine.execCoreRelease s
  | .launchCopy dev fabdom record gang => Sys2Proof.Machine.execLaunchCopy dev fabdom record gang s
  | .memberReport launch member cause => Sys2Proof.Machine.execMemberReport launch member cause s
  | .gangTickNotice launch tick => Sys2Proof.Machine.execGangTickNotice launch tick s
  | .hostWake dev tail => Sys2Proof.Machine.execHostWake dev tail s
  | .wakeRefill => Sys2Proof.Machine.execWakeRefill s
  | .timeTriggeredSlot slot => Sys2Proof.Machine.execTimeTriggeredSlot slot s
  | .deferredSlotEnqueue slot => Sys2Proof.Machine.execDeferredSlotEnqueue slot s
  -- rows 265 to 279: register writes from outside the bundles
  | .topupWrite dev acct amount => Sys2Proof.Machine.execTopupWrite dev acct amount s
  | .ptinvPage dev va => Sys2Proof.Machine.execPtinvPage dev va s
  | .ptinvAll dev => Sys2Proof.Machine.execPtinvAll dev s
  | .ptinvComplete => Sys2Proof.Machine.execPtinvComplete s
  | .resvWrite dev value => Sys2Proof.Machine.execResvWrite dev value s
  | .vdctlWrite dev value => Sys2Proof.Machine.execVdctlWrite dev value s
  | .dtbaseWrite dev value => Sys2Proof.Machine.execDtbaseWrite dev value s
  | .ctxctlResumeUser ctx skip => Sys2Proof.Machine.execCtxctlResumeUser ctx skip s
  | .ctxctlResumeDriver ctx skip => Sys2Proof.Machine.execCtxctlResumeDriver ctx skip s
  | .ctxctlEndLeaf ctx => Sys2Proof.Machine.execCtxctlEndLeaf ctx s
  | .coderateWrite reg value => Sys2Proof.Machine.execCoderateWrite reg value s
  | .losstmoWrite value => Sys2Proof.Machine.execLosstmoWrite value s
  | .pwrcapWrite value => Sys2Proof.Machine.execPwrcapWrite value s
  | .registerWrite reg value => Sys2Proof.Machine.execRegisterWrite reg value s
  | .eventRingRecord dev hyp record => Sys2Proof.Machine.execEventRingRecord dev hyp record s
  -- rows 280 to 291: boot, power, notices
  | .attreq => Sys2Proof.Machine.execAttreq s
  | .attestationComplete => Sys2Proof.Machine.execAttestationComplete s
  | .measurementExtend reg digest => Sys2Proof.Machine.execMeasurementExtend reg digest s
  | .packageReset => Sys2Proof.Machine.execPackageReset s
  | .bowarn => Sys2Proof.Machine.execBowarn s
  | .shedreq => Sys2Proof.Machine.execShedreq s
  | .shedFreeze => Sys2Proof.Machine.execShedFreeze s
  | .pwrok => Sys2Proof.Machine.execPwrok s
  | .collectiveOrderNotice dev red => Sys2Proof.Machine.execCollectiveOrderNotice dev red s
  | .engineInternalError cmd => Sys2Proof.Machine.execEngineInternalError cmd s
  | .partitionRelease dev => Sys2Proof.Machine.execPartitionRelease dev s
  | .launchDiscard launch => Sys2Proof.Machine.execLaunchDiscard launch s

end Sys2Proof.Machine
end

