-- ==== Sys2Proof/Machine/Fetch.lean ====
section
/-!
DEFINITION. Sys2Proof/Machine/Fetch.lean: an instruction placed where the machine takes its next one: the bytes of a literal
bundle (R126, R128), and a word of the microprogram store (R145).
-/
namespace Sys2Proof.Machine

/-- A parcel's bytes (R1). -/
def parcelBytes (p : Nat) : List Byte := natToBytes 2 (p % 2 ^ 16)

/-- R128: the bytes of a syllable of n parcels, the most significant parcel first. -/
def syllableBytes (w : Nat) : Nat → List Byte
  | 0 => []
  | n + 1 => parcelBytes (w / 2 ^ (16 * n)) ++ syllableBytes w n

/-- R126, R128: a literal bundle of one syllable. -/
def literalBundle (sl : Slot) (w : Nat) : List Byte := parcelBytes (0xE000 + 2 ^ sl.bit) ++ syllableBytes w sl.parcels

/-- The slot in which a table word is read, as `decodeTableWord` chooses it. -/
def tableSlot (nbits w : Nat) : Option Slot :=
  (if nbits = 32 then [Slot.S0, .B, .M] else if nbits = 16 then [.Y, .D, .G, .Q] else if nbits = 48 then [.A, .V0, .V2] else []).find?
    fun sl => (decodeSlot sl w).isSome

/-- Bytes put into a list at a place. -/
def putBytes (code : List Byte) (a : Nat) (bs : List Byte) : List Byte :=
  code.take a ++ List.replicate (a - code.length) 0 ++ bs ++ code.drop (a + bs.length)

/-- A bundle placed at the code address of context 0 of core 0, which holds the issue path and issues next. -/
def State.placeBundle (s : State) (sl : Slot) (w : Nat) : State :=
  let c := s.ctx 0
  let s := s.modCore 0 fun k =>
    { k with code := putBytes k.code c.pc.toNat (literalBundle sl w), path := 0, free := false }
  { s.modCtx 0 (fun c => { c with run := .ready, ring := .user }) with
    phase := .issue, pass := 1, todo := [(0, .bundleIssue)] }

/-- A micro-op placed at the index at which a routine of context 0 of core 0 stands, and issued next. -/
def State.placeMicro (s : State) (w : Nat) : State :=
  let r : Routine := match (s.core 0).eng.routine with
    | some r => r
    | none => { own := { key := 0, launch := (s.ctx 0).launch, dev := (s.ctx 0).dev }, idx := 0, snap := [], start := s.station, pc := 0
                issued := s.station }
  let s := s.modEng 0 fun e => { e with store := e.store.set 0 r.pc (BitVec.ofNat 64 w), routine := some r }
  { s with station := s.station + 1, phase := .engine, pass := 1
           todo := match nextMicro (s.core 0).eng r with | some i => [(0, i)] | none => [] }

/-- A table word placed. -/
def State.placeWord (s : State) (nbits w : Nat) : State :=
  if nbits = 64 then s.placeMicro w
  else match tableSlot nbits w with
    | some sl => s.placeBundle sl w
    | none => s.placeBundle .S0 w

end Sys2Proof.Machine
end

