-- ==== Sys2Proof/Machine/Plan.lean ====
section
/-!
DEFINITION. Sys2Proof/Machine/Plan.lean: what happens in a cycle, and in which order. A cycle goes through the phases of
Phase; in each, the plan lists the steps whose conditions hold, until none is left. Steps whose cycle the spec leaves
open (R29, R373) are taken or not by a free value.
-/
namespace Sys2Proof.Machine

/-- A step, with what it is about: a context key, four times a core, or a die, device or launch (State.cur). -/
abbrev Ev := Nat × Instr

/-- A step of no particular core. -/
def pkgEv (i : Instr) : Ev := (0, i)

/-- The candidates that take place now, by free values from a count on. -/
def chance (ctr : Nat) (l : List Ev) : List Ev :=
  (List.range l.length).filterMap fun j => if Config.occurs (ctr + j) then l[j]? else none

/-- The commands in progress. -/
def liveCmds (s : State) : List Cmd := s.cmds.filterMap Prod.snd
/-- R69, R334: rank among the commands that could start in one cycle: D before G, in each engine by context. -/
def startRank (c : Cmd) : Nat := (if c.group then 1 else 0) * 2 ^ 64 + c.own.key * 2 ^ 48 + c.id % 2 ^ 48
/-- Insertion by a rank, equals in order. -/
def insertBy {α : Type} (f : α → Nat) (a : α) : List α → List α
  | [] => [a]
  | b :: bs => if f b ≤ f a then b :: insertBy f a bs else a :: b :: bs
/-- A list in order of rank. -/
def sortBy {α : Type} (f : α → Nat) (l : List α) : List α := l.foldl (fun acc a => insertBy f a acc) []

/-- The keys of cores that hold something. -/
def liveCores (s : State) : List Nat :=
  (List.range 64).filter fun n => (s.core n != {}) || (List.range 4).any fun i => (s.ctx (4 * n + i)).run != .idle

/-! ### The boundary (R48, R49) -/

/-- R48: what happens to a stall at a boundary now. -/
def stallEv (s : State) (dev : Nat) (x : Stall) : Option Ev :=
  if leavesActive s dev x then some (pkgEv (.stallLapse dev x.id))
  else if x.id != 0 && x.st == .overstay && (x.liens = 0 || x.paid ≤ s.tick) then some (pkgEv (.overstayCharge dev x.id))
  else if reclaimDue s dev x then some (pkgEv (.stallReclaim dev x.id))
  else none

/-- R48: an ancestor of a stall is still to be processed; fuel bounds the chain of parents. -/
def parentDue (s : State) (dev : Nat) : Nat → Stall → Bool
  | 0, _ => false
  | f + 1, x =>
    let y := s.stall dev x.parent
    x.parent != 0 && y.id != 0 && ((stallEv s dev y).isSome || parentDue s dev f y)

/-- R48, R62: the stalls at a boundary, none before its ancestors are through. Among stalls of which none descends from another the spec gives
no order: the model takes ascending device and id (log 16, DESIGN CHOICE). -/
def stallEvs (s : State) : List Ev :=
  s.devs.flatMap fun e => e.2.stalls.filterMap fun x => if parentDue s e.1 32768 x.2 then none else stallEv s e.1 x.2

/-- What follows the stalls at a boundary: storage comes back, migration engines choose, contexts and cores are released, and the
fabric's deadlines pass. -/
def boundaryRest (s : State) : List Ev :=
  (s.returning.filterMap fun r => if r.due ≤ s.tick then some (pkgEv (.storageReturn r.id)) else none)
  ++ ((List.range 4).filterMap fun d =>
      let m := s.mig d
      if m.en && !m.pause && (s.moves.get none d).isNone && (chooseMove s d).isSome then some ((d, .migrationChoice)) else none)
  ++ (s.ctxs.filterMap fun e => match e.2.hold with
      | some h => if h.why == .realign && h.since / 1024 < s.tick && !h.freed then some ((e.1, .realignRelease)) else none
      | none => none)
  ++ ((liveCores s).filterMap fun n => if coreLeaves s n then some ((4 * n, .coreRelease)) else none)
  ++ (s.msgs.filterMap fun m => if msgLate s m then some (pkgEv (.messageLost m.id))
      else if heldLate s m then some (pkgEv (.heldMessageDiscard m.id)) else none)
  ++ (s.sends.filterMap fun x => if !sendLate s x then none
      else if x.hdr.kind = 0 then some (pkgEv (.gsendDeadline x.id))
      else if x.hdr.kind = 1 && x.cmd != 0 then some (pkgEv (.gredDeadline x.cmd)) else none)
  ++ (s.recvs.filterMap fun r => if waitExpired s r then some (pkgEv (.grecvWaitExpiry r.id)) else none)
  ++ s.reductions.filterMap fun r => if reductionLate s r then some (pkgEv (.reductionTimeout r.id)) else none

/-- The first steps of a boundary. -/
def boundaryFirst (s : State) : List Ev :=
  pkgEv .tickBoundary :: ((List.range 4).filterMap fun d =>
    let e := (s.mig d).epoch
    if e != 0 && s.tick % e == 0 then some ((d, .heatHalving)) else none)

/-- R48, R49, R61: the boundary phase. -/
def boundaryPlan (s : State) : List Ev :=
  let scrubs := s.scrubs.filterMap fun r => if r.due ≤ s.station then some (pkgEv (.reclaimScrub r.id)) else none
  if !atBoundary s then scrubs
  else if s.pass = 0 then scrubs ++ boundaryFirst s
  else
    let l := stallEvs s
    if l.isEmpty then boundaryRest s else l

/-! ### Inputs (R49, R381) -/

/-- A write of WAKE by the host comes after those of the contexts (R410). -/
def isHostWake : Instr → Bool | .hostWake _ _ => true | _ => false

/-- The inputs of the outside that are due, host wakes apart, or those alone. -/
def dueInputs (s : State) (wakes : Bool) : List Ev := s.inputs.filter fun e => e.1 ≤ s.station && isHostWake e.2 == wakes
/-- The same taken from the list. -/
def State.takeInputs (s : State) (wakes : Bool) : State :=
  { s with inputs := s.inputs.filter fun e => !(e.1 ≤ s.station && isHostWake e.2 == wakes) }

/-! ### The yardmaster (R379 to R383) -/

/-- R382: an entry of the time-triggered table that has something to do at this boundary. -/
def slotWork (s : State) (i : Nat) : Bool :=
  match slotEntry s i with
  | some (_, bs) =>
    let t := s.ttSlots.get {} i
    t.key != slotKey bs || slotsReached bs (boundaryTime s) != t.done || (!slotEn bs && (t.deferred || t.missed != 0))
  | none => false

/-- R382, R383: what the table may have to do for entry i at this boundary. -/
def slotEvs (s : State) (i : Nat) : List Ev :=
  (if slotWork s i then [pkgEv (.timeTriggeredSlot i)] else [])
    ++ if (s.ttSlots.get {} i).deferred then [pkgEv (.deferredSlotEnqueue i)] else []

/-- R373, R375, R393: the launches that may start their leaves: those that wait for a gang tick known and those whose time to load is
up (`sure`), and those that load. -/
def gangCands (s : State) (sure : Bool) : List Ev :=
  s.launches.filterMap fun e => match e.2 with
    | some l =>
      let st := if l.stage == .saved then l.back else l.stage
      let due := st == .gang || (l.gang = 0 && swapDue s l)
      if (st == .loading || st == .gang) && due == sure then some ((e.1, .gangTick)) else none
    | none => none

/-- R393, R395: the pre-empted launches that may go on: those whose time is up (`sure`), and the others. -/
def resumeCands (s : State) (sure : Bool) : List Ev :=
  s.launches.filterMap fun e => match e.2 with
    | some l => if l.stage == .saved && swapDue s l == sure then some ((e.1, .launchResume)) else none
    | none => none

/-- R372: waves that are over. -/
def waveEnds (s : State) : List Ev :=
  s.launches.filterMap fun e => match e.2 with
    | some l => if waveOver s l && l.stage != .ended && (!l.near.isEmpty || l.wave + 1 < l.waves) then some ((e.1, .waveEnd)) else none
    | none => none

/-- R379 to R383, R395: the yardmaster's phase: the wakes and the table first, then its choice, then the launches that resume and
start. The second list holds the steps whose boundary is open. -/
def yardPlan (s : State) : List Ev × List Ev :=
  if !atBoundary s || s.pass ≠ 0 then ([], [])
  else
    (waveEnds s
      ++ (s.devs.map fun e => ((e.1, .wakeRefill) : Ev))
      ++ (List.range 256).flatMap (slotEvs s)
      ++ [pkgEv .yardmasterBoundary]
      ++ ((liveCores s).map fun n => ((4 * n, .snapshotWaitExpiry) : Ev))
      ++ resumeCands s true ++ gangCands s true,
     resumeCands s false ++ gangCands s false)

/-! ### Starts (R69 to R71, R148, R187, R216) -/

/-- R26, R337: translations to take up. -/
def translationEvs (s : State) : List Ev :=
  (sortBy startRank (liveCmds s)).filterMap fun c =>
    if mayTranslate s c || chaseGoes s c
    then some (pkgEv (.commandTranslation c.id)) else none

/-- R69, R75, R333: commands that can start, and in their places those that a parameter fault ends. -/
def startEvs (s : State) : List Ev :=
  (sortBy startRank (liveCmds s)).filterMap fun c =>
    if badNow s c then some (pkgEv (.badparamRecord c.id))
    else if !startNow s c then none
    else if !c.group then some (pkgEv (.transferStart c.id))
    else if gttLate s c then none else some (pkgEv (.groupCommandStart c.id))

/-- R217: the send entries that start in this cycle. -/
def sendEntryEvs (s : State) (n : Nat) : List Ev :=
  match (s.core n).gtt with
  | some t => (List.range t.entries.length).filterMap fun i => match t.entries[i]? with
    | some e =>
      let now := if t.running then s.station == t.begun + e.stamp else instanceDue s n && e.stamp == 0
      if e.kind == 1 && now then some (pkgEv (.timetableSendEntry n i)) else none
    | none => none
  | none => []

/-- R216: timetable instances and their sends. -/
def tableEvs (s : State) : List Ev :=
  (liveCores s).flatMap fun n => (if instanceDue s n then [(4 * n, .timetableInstanceStart)] else []) ++ sendEntryEvs s n

/-- R148, R187: other starts. -/
def otherStarts (s : State) : List Ev :=
  ((liveCores s).filterMap fun n => if (startingCall s n).isSome then some ((4 * n, .routineStart)) else none)
  ++ (liveCores s).filterMap fun n => if (tackReady s n).isSome then some ((4 * n, .tackCommandStart)) else none

/-- R71, R149, R347: what has failed to start in its cycle. -/
def lateEvs (s : State) : List Ev :=
  ((liveCmds s).filterMap fun c => if timedLate s c || gttLate s c then some (pkgEv (.timedStartFailure c.id)) else none)
  ++ (liveCores s).filterMap fun n => if (lateIndex s n).isSome then some ((4 * n, .routineTimingFailure)) else none

/-- The starts of a cycle: translations first, then starts, and failures when nothing more can start. A head that goes leaves its
place for the next cycle only, so no command starts out of its order (R69, R334). A timed command whose translation fails in
its very start cycle has the reason of R26: the spec does not order it and TIMING (log 131, DESIGN CHOICE). -/
def startsPlan (s : State) : List Ev :=
  let f := if s.pass = 0 then tableEvs s ++ translationEvs s else []
  if !f.isEmpty then f
  else
    let t := startEvs s
    if !t.isEmpty then t
    else
      let o := otherStarts s
      if o.isEmpty then lateEvs s else o

/-! ### Replies and ends -/

/-- R83: near accesses that perform in this cycle, the loads or all others, in the order of R84. -/
def dueAccesses (s : State) (loads : Bool) : List Access :=
  let due := s.accesses.filter fun a => a.due ≤ s.station && (match a.op with | .load .. => true | _ => false) == loads
  sortBy (fun (a : Access) => keyCore a.key) (sortBy (fun (a : Access) => a.agent) (sortBy (fun (a : Access) => a.ord)
    (sortBy (fun (a : Access) => a.id) due)))

/-- R83: the loads that perform in this cycle. -/
def loadEvs (s : State) : List Ev := (dueAccesses s true).map fun a => pkgEv (.nearAccessPerform a.id)

/-- R144: a core with an add of its array engine in this cycle. -/
def addsNow (s : State) (n : Nat) : Bool := (s.core n).eng.adds.any fun a => a.cycle ≤ s.station

/-- R84: the writes of one core in this cycle, in the order of agents: A, the array engine, and the others. -/
def coreWrites (s : State) (l : List Access) (n : Nat) : List Ev :=
  let mine := l.filter fun a => keyCore a.key == n
  let put := fun (l : List Access) => l.map fun a => (pkgEv (.nearAccessPerform a.id) : Ev)
  put (mine.filter fun a => a.agent < 2) ++ (if addsNow s n then [(4 * n, .accumulatorAdd)] else [])
    ++ put (mine.filter fun a => 2 ≤ a.agent)

/-- R84, R144: the writes that perform in this cycle, in ascending (core, agent) order. -/
def writeEvs (s : State) : List Ev := let l := dueAccesses s false; (List.range 64).flatMap (coreWrites s l)

/-- R79, R82: the near bank of a physical address: its core and level, and its 64-byte column of 32. -/
def bankOf (p : Nat) : Nat :=
  (p / 2 ^ 24 * 4 + (if p % 2 ^ 24 < 2 ^ 23 then 0 else p % 2 ^ 24 / 2 ^ 22)) * 32 + p / 64 % 32

/-- R82: requests that wait for an engine port, in the order in which a bank serves them. -/
def portEvs (s : State) : List Ev :=
  (sortBy portRank (s.xfers.filter fun x => (portWants s x).isSome)).map fun x =>
    pkgEv (.enginePortAccess x.id)

/-- R82: the bank that a request wants. -/
def portBank (s : State) (e : Ev) : Option Nat :=
  match e.2 with
  | .enginePortAccess id => ((s.xfers.find? fun x => x.id == id).bind (portWants s)).map bankOf
  | _ => none

/-- R82: each bank serves one request in a cycle, the first of those that have reached it; the others wait. -/
def onePerBank (s : State) : List Nat → List Ev → List Ev
  | _, [] => []
  | used, e :: es =>
    match portBank s e with
    | some b => if used.contains b then onePerBank s used es else e :: onePerBank s (b :: used) es
    | none => e :: onePerBank s used es

/-- R25, R29, R31, R37, R167, R187, R202, R413: what may come to pass in this cycle. -/
def replyCands (s : State) : List Ev :=
  (s.xfers.filterMap fun x => if packetReady s x then some (pkgEv (.packetPerform x.id))
    else if replyReady s x then some (pkgEv (.packetReply x.id)) else none)
  ++ (s.walks.filterMap fun w => if w.active && !pageMoving s w.dev w.page then some (pkgEv (.walkComplete w.id)) else none)
  ++ ((liveCmds s).filterMap fun c => if pageReady s c then some (pkgEv (.decodePage c.id))
      else if resultReady s c then some (pkgEv (.groupCommandComplete c.id)) else none)
  ++ (s.sends.filterMap fun x => if sendReady s x then some (pkgEv (.fragmentSend x.id)) else none)
  ++ (s.moves.filterMap fun m => if m.2.isSome then some ((m.1, .migrationSwitch)) else none)
  ++ ((liveCores s).filterMap fun n => if (tackMayEnd s n).isSome then some ((4 * n, .tackCommandComplete)) else none)
  ++ (s.rows.map fun e => pkgEv (.rowMitigation (BitVec.ofNat 8 (e.1 / 2 ^ 40)) (BitVec.ofNat 40 e.1)))
  ++ (if s.attBusy.isSome && s.shed == .running then [pkgEv .attestationComplete] else [])

/-- R199: decodes that end in this cycle. -/
def decodeEvs (s : State) : List Ev :=
  s.msgs.filterMap fun m =>
    if decodeDone s m && s.recvs.any (fun r => some r.id == m.recv) then some (pkgEv (.receiveDecodeEnd m.id)) else none

/-- R150, R158: a micro-op that ends its routine as it comes up to issue. -/
def microFails (s : State) (n : Nat) (i : Instr) : Bool :=
  match exec i { s with cur := 4 * n } with
  | .next t => (match (t.core n).eng.routine with | some r => r.ending.isSome | none => false)
  | _ => false

/-- A micro-op that can post a record as it issues. -/
def isEarly (s : State) (n : Nat) (i : Instr) : Bool :=
  match i with | .microEnd _ => true | .post _ _ => true | _ => microFails s n i

/-- The micro-op of a core in this cycle: its `end` and `post` come before the bundles of the cycle (R152), and so does one
that ends its routine (R150); the others come after. -/
def microEv (s : State) (early : Bool) (n : Nat) : Option Ev :=
  match microReady s n with
  | some r => match nextMicro (s.core n).eng r with
    | some i => if isEarly s n i == early then some (4 * n, i) else none
    | none => none
  | none => none

/-- R217, R219: timetables: consume deadlines, and instances that end. -/
def tableEnds (s : State) : List Ev :=
  (liveCores s).flatMap fun n => match (s.core n).gtt with
    | some t => ((List.range t.entries.length).filterMap fun i => if consumeLate s n i then some (pkgEv (.timetableConsumeDeadline n i)) else none)
        ++ if instanceOver s n then [(4 * n, .timetableInstanceEnd)] else []
    | none => []

/-- R150, R154, R317, R318: ends in an array engine, and the drain slot that has come: in the cycle in which the entry before
finishes. -/
def engineEnds (s : State) (n : Nat) : List Ev :=
  let e := (s.core n).eng
  let ending : Bool := match e.routine with | some r => r.ending.isSome && e.idle | none => false
  let halted : Bool := (match e.routine with | some r => e.haltDone s.station r | none => false) || e.queue.any (haltLeaves e s.station)
  let loaded : Bool := match e.mload with | some l => l.count ≤ l.done | none => false
  (if ending then [(4 * n, .routineEngineEnding)] else []) ++ (if halted then [(4 * n, .routineHalted)] else [])
  ++ (if loaded then [(4 * n, .mloadComplete)] else []) ++ if drainNow s n then [(4 * n, .drainSlot)] else []

/-- R374: launches that are over, of those whose lowest-numbered core is n. -/
def launchEnds (s : State) (n : Nat) : List Ev :=
  s.launches.filterMap fun e => match e.2 with
    | some l => if l.first == n && launchOver s l then some ((e.1, .launchEnd)) else none
    | none => none

/-- The ends of a cycle. -/
def endsPlan (s : State) : List Ev :=
  (if s.pass = 0 then tableEnds s ++ (liveCores s).filterMap (microEv s true) else [])
  ++ (liveCores s).flatMap (engineEnds s)
  ++ ((liveCmds s).filterMap fun c => if recordReady s c then some (pkgEv (.groupCommandComplete c.id)) else none)
  ++ (s.devs.filterMap fun e => if (invDone s e.1).isSome then some ((e.1, .ptinvComplete)) else none)
  ++ waveEnds s

/-! ### Bundles and the rest of the cycle -/

/-- R16: the issue path of a core has something to do. -/
def issues (s : State) (n : Nat) : Bool := !(s.core n).free || (List.range 4).any fun i => (s.ctx (4 * n + i)).run == .ready

/-- R16, R279, R374: the bundles of a cycle in ascending core, and what follows the ends of launches in its place among them. -/
def issueEvs (s : State) : List Ev :=
  (List.range 64).flatMap fun n => launchEnds s n ++ if issues s n then [(4 * n, .bundleIssue)] else []

/-- R154, R318: the drain slots that come in the bundles' part of a cycle, where an `mhalt` has removed the entries before. -/
def drainEvs (s : State) : List Ev := (liveCores s).filterMap fun n => if drainNow s n then some ((4 * n, .drainSlot)) else none

/-- R85: the store buffers to empty at a boundary. -/
def commitEvs (s : State) : List Ev :=
  if atBoundary s then s.ctxs.filterMap fun e => if e.2.sdue.isEmpty then none else some ((e.1, .sharedStoreCommit)) else []

/-- R408: the cycles in which a device held a paddock. -/
def State.countRuntime (s : State) : State :=
  let held := (List.range 64).filter fun d => s.holders.any fun h => h.2 == some d
  held.foldl (fun s d => s.modDev d fun v => { v with runtime := (v.runtime + 1) % 2 ^ 64 }) s

/-- R49, R190: the end of a cycle: liens are released, staged values land, and the counter advances. While the package is frozen
it stands still; the cycle in which it is released ends the freeze (R397, R398). The cycle in which the freeze begins ends
as any other, but for the counter. What the counter does past 2^64 - 1 the spec leaves open: the model's is a natural number
that goes on, of which STATION reads the low 64 bits (log 124, DESIGN CHOICE). -/
def State.closeCycle (s : State) : State :=
  if s.frozen && s.pass = 0 then
    if s.shed == .shed then s
    else { s with frozen := false, shed := if s.shed == .exiting then .running else s.shed, station := s.station + 1 }
  else
    let s := (liveCores s).foldl (fun s n => s.captureImages n) s
    let s := s.releases.foldl (fun s r => s.dropLiens r.1 r.2) { s with releases := [] }
    let s := ((liveCores s).foldl (fun s n => s.modCore n Core.landStg) s).countRuntime
    { s with cmds := s.cmds.filter (fun e => match e.2 with | some c => c.stage != .posted | none => false)
             shed := if s.shed == .entering && coresStopped s then .checkpoint else s.shed
             station := if s.frozen then s.station else s.station + 1 }

/-! ### The phases -/

/-- The phase after a phase. -/
def Phase.next : Phase → Phase
  | .boundary => .inputs | .inputs => .yard | .yard => .starts | .starts => .nearReads | .nearReads => .ports
  | .ports => .replies | .replies => .ends | .ends => .issue | .issue => .engine | .engine => .writes | .writes => .close
  | .close => .boundary

/-- R260: the values of WSTAT and the counters that a `csrr` of this cycle reads. -/
def Ctx.keepPrior (c : Ctx) : Ctx := { c with wstat0 := c.wstat, pmcnt0 := c.pmcnt, wrote := [] }
/-- R260, R401: what a `csrr` of this cycle reads of devices, package registers, MFMT, WSTAT and counters: the values before the
cycle. -/
def State.keepPrior (s : State) : State :=
  { s with prior := s.devs, priorReg := pkgRegs s, ctxs := s.ctxs.map fun (e : Nat × Ctx) => (e.1, e.2.keepPrior) }

/-- R319: a word that is no micro-op ends its routine, before the ends of the cycle are looked for (R150). -/
def State.badMicro (s : State) (n : Nat) : State :=
  match microReady s n with
  | some r => if (nextMicro (s.core n).eng r).isNone then s.engineEnding n else s
  | none => s

/-- R19: so late in shed entry that whatever can come about comes about at once, so that it is complete 250,000 cycles after the warning. -/
def entryLate (s : State) : Bool := (s.shed == .entering || s.shed == .checkpoint) && s.shedAt + 125000 ≤ s.station

/-- What happens as a phase begins. -/
def State.openPhase (s : State) : State :=
  match s.phase with
  | .boundary => if s.pass = 0 then s.strike.keepPrior else s
  | .inputs => s.takeInputs false
  | .issue => if s.pass = 0 && !s.frozen then s.takeInputs true else s
  | .replies => if s.pass = 0 && !s.frozen then s.issueTags else s
  | .ends => if s.pass = 0 && !s.frozen then (liveCores s).foldl State.badMicro s else s
  | _ => s

/-- The steps that certainly come, and those that may, in a phase at its present pass. -/
def phasePlan (s : State) : List Ev × List Ev :=
  if s.phase == .inputs then (if s.pass = 0 then dueInputs s false else [], [])
  else if s.frozen then ([], [])
  else match s.phase with
    | .boundary => (boundaryPlan s, [])
    | .inputs => ([], [])
    | .yard => yardPlan s
    | .starts => (startsPlan s, [])
    | .nearReads => (loadEvs s, [])
    | .ports => ([], if s.pass = 0 then portEvs s else [])
    | .replies => (decodeEvs s, if s.pass = 0 then replyCands s else [])
    | .ends => (endsPlan s.openPhase, [])
    | .issue => (if s.pass = 0 then issueEvs s ++ dueInputs s true else drainEvs s, [])
    | .engine => (if s.pass = 0 then (liveCores s).filterMap (microEv s false) else [], [])
    | .writes => (if s.pass = 0 then commitEvs s ++ writeEvs s else [], [])
    | .close =>
      let freeze := if s.pass = 0 && s.shed == .checkpoint then [pkgEv .shedFreeze] else []
      (((liveCores s).filterMap fun n => if preHalts s n then some ((4 * n, .preemptionHalt)) else none) ++ (if entryLate s then freeze else []),
        if entryLate s then [] else freeze)

/-- What happens as a phase ends. -/
def State.endPhase (s : State) : State :=
  if s.frozen && s.phase != .close then s
  else match s.phase with
    | .inputs => { s with seen := s.devs }
    | .starts => (liveCores s).foldl (fun s n => s.postEntries n) s
    | .ends => s.flushPosts
    | .issue => s.flushPosts
    | .engine => (liveCores s).foldl (fun s n => s.unitStep n) s
    | .close => s.closeCycle
    | _ => s

/-- The machine between two steps: the steps of the present phase are listed, or the next phase begins. -/
def State.turn (s : State) : State :=
  let p := phasePlan s
  let c := if entryLate s then p.2 else chance s.freeCtr p.2
  let l := p.1 ++ (if s.phase == .ports then onePerBank s [] c else c)
  let s := { s.openPhase with freeCtr := s.freeCtr + p.2.length }
  if l.isEmpty then { s.endPhase with phase := s.phase.next, pass := 0 } else { s with todo := l, pass := s.pass + 1 }

end Sys2Proof.Machine
end

