-- ==== Sys2Proof/Machine/Step.lean ====
section
/-!
DEFINITION. Sys2Proof/Machine/Step.lean: one step of the machine, and a state in which a given instruction is the next one.
-/
namespace Sys2Proof.Machine

/-- One step: the first of the steps listed is performed; with none listed, the machine goes on in its cycle. Nothing runs after
a boot that failed but the next package reset (R411). -/
def step (s : State) : Host.Outcome State Fault Refusal :=
  if s.bootStage ≠ 0 then
    match resetAhead s with
    | some t => exec .packageReset t
    | none => .fault .bootStopped
  else match s.todo with
    | (k, i) :: rest => exec i { s with todo := rest, cur := k }
    | [] => .next s.turn

/-- The state with the instruction of a table word where the step takes its next one: a bundle of it alone at the code address of
context 0 of core 0, which issues next; a micro-op in the store of a routine that runs there (log 40). -/
def State.withFetchWord (s : State) (nbits w : Nat) : State := s.placeWord nbits w

end Sys2Proof.Machine
end

