-- ==== Sys2Proof/Machine/Views.lean ====
section
/-!
DEFINITION. Sys2Proof/Machine/Views.lean: views of a state that the statements of Certificates speak of; no step uses them.
-/
namespace Sys2Proof.Machine

/-- The state in which the issuing context stands at its n-th bundle from the present one, with the writes due by then
landed (R133). -/
def laterBundle (s : State) (n : Nat) : State :=
  (s.modCtx s.cur fun c => { c with bundle := c.bundle + n }).landDue s.cur

/-- No write to a register is under way in the issuing context. -/
def quietFor (s : State) (T : Tgt) : Prop := ∀ p ∈ s.me.pend, p.tgt ≠ T

/-- The port of a scalar slot, read. -/
def scalarPort : SSlot → Ctx → Word
  | .s0, c => c.pS0
  | .s1, c => c.pS1

/-- The trap that a syllable of a slot takes when its check names a cause (R136, R137), the granule that cause 0x32 names marked (R87). -/
def trapped (sl : Slot) (code : Nat) (addr : Word) (s : State) : State :=
  (s.meetPoison s.me.dev code addr).takeTrap s.cur { code := code, addr := addr, mask := slotMaskBit sl, async := false }

/-- A transfer of the present bundle to a target: it is noted for the bundle three on, the pc stands, an event is counted, and
nothing else changes (R247, R408). -/
def transferred (s t : State) (ev : Nat) (target : Word) : Prop :=
  t = s.setCtx s.cur { s.me with
    xfers := s.me.xfers ++ [{ at_ := s.me.bundle + 3, target := target }], pmcnt := (s.me.countEv ev 1).pmcnt }

end Sys2Proof.Machine
end

