-- ==== Sys2Proof/Safety.lean ====
section
/-!
DEFINITION. Sys2Proof/Safety.lean: what a safe run is: a run that no step ends. The model has one fault, a boot that failed
(R411), and refuses nothing.
-/
namespace Sys2Proof

/-- A state from which n steps can be taken. -/
def runs (n : Nat) (s : Machine.State) : Prop := ∃ t, Host.Core.run core n s = .next t

/-- A state from which any number of steps can be taken. -/
def safe (s : Machine.State) : Prop := ∀ n, runs n s

end Sys2Proof
end

