-- ==== Sys2Proof/Certificates/Slice0/Obligations.lean ====
section
/-!
DEFINITION. Sys2Proof/Certificates/Slice0/Obligations.lean: what is claimed of the model, one definition for each
statement. Each docstring names the rules of spec/ that the statement formalises.
-/

/-! ### What the statements speak of -/

namespace Sys2Proof.Machine

/-- A register-form or immediate S operation: its word is opcode, d, a and b as given (R235), it completes whatever the
state, and lat bundles later, and not before, xd and the slot's port hold the value v of the operands as they stood at
issue; x0 stays zero. Nothing else is changed or scheduled. -/
def ScalarResult (i : Instr) (sl : SSlot) (d : XNum) (op a b lat : Nat) (v : Ctx → Word) : Prop :=
  encode i = op * 2 ^ 25 + d.toNat * 2 ^ 19 + a * 2 ^ 13 + b ∧ i.slot = some sl.slot ∧
  ∀ s : State, ∃ t : State, exec i s = .next t ∧ (∃ p q, t = s.sched [p, q] ∧ p.tgt = .x d.toNat ∧ q.tgt = sPort sl) ∧
    (quietFor s (.x d.toNat) →
      (laterBundle t lat).me.xr d = (if d = 0 then 0 else v s.me) ∧
      ∀ n, n < lat → (laterBundle t n).me.xr d = s.me.xr d) ∧
    (quietFor s (sPort sl) →
      scalarPort sl (laterBundle t lat).me = v s.me ∧
      ∀ n, n < lat → scalarPort sl (laterBundle t n).me = scalarPort sl s.me)

/-- A compare or vote: its word, and the condition that it writes at latency 1, not before; nothing else is
changed or scheduled. -/
def ConditionResult (i : Instr) (sl : SSlot) (c : BitVec 3) (op a b : Nat) (v : Ctx → Prop) : Prop :=
  encode i = op * 2 ^ 25 + c.toNat * 2 ^ 19 + a * 2 ^ 13 + b ∧ i.slot = some sl.slot ∧
  ∀ s : State, ∃ t : State, exec i s = .next t ∧ (∃ p, t = s.sched [p] ∧ p.tgt = .c c.toNat) ∧
    (quietFor s (.c c.toNat) → ((laterBundle t 1).me.cr c = true ↔ v s.me) ∧ (laterBundle t 0).me.cr c = s.me.cr c)

end Sys2Proof.Machine

open Sys2Proof Sys2Proof.Machine

/-! ### The S slots -/

/-- R254: the register ALU operations: the table's opcode and fields, and each result, one bundle later in xd and in the
port of the slot; `clz`, `ctz` and `popc` give the number, from 0 to 64, of leading zeros, of trailing zeros and of one bits. -/
def Obligations.ScalarAluResults : Prop :=
  ∀ (sl : SSlot) (d a b : XNum) (c : BitVec 3),
    ScalarResult (.add sl d a b) sl d 0x01 a.toNat (b.toNat * 2 ^ 7) 1 (fun r => r.xr a + r.xr b) ∧
    ScalarResult (.sub sl d a b) sl d 0x02 a.toNat (b.toNat * 2 ^ 7) 1 (fun r => r.xr a - r.xr b) ∧
    ScalarResult (.and sl d a b) sl d 0x03 a.toNat (b.toNat * 2 ^ 7) 1 (fun r => r.xr a &&& r.xr b) ∧
    ScalarResult (.or sl d a b) sl d 0x04 a.toNat (b.toNat * 2 ^ 7) 1 (fun r => r.xr a ||| r.xr b) ∧
    ScalarResult (.xor sl d a b) sl d 0x05 a.toNat (b.toNat * 2 ^ 7) 1 (fun r => r.xr a ^^^ r.xr b) ∧
    ScalarResult (.shl sl d a b) sl d 0x06 a.toNat (b.toNat * 2 ^ 7) 1
      (fun r => BitVec.ofNat 64 ((r.xr a).toNat * 2 ^ ((r.xr b).toNat % 64))) ∧
    ScalarResult (.shr sl d a b) sl d 0x07 a.toNat (b.toNat * 2 ^ 7) 1
      (fun r => BitVec.ofNat 64 ((r.xr a).toNat / 2 ^ ((r.xr b).toNat % 64))) ∧
    ScalarResult (.sra sl d a b) sl d 0x08 a.toNat (b.toNat * 2 ^ 7) 1
      (fun r => BitVec.ofInt 64 ((r.xr a).toInt / 2 ^ ((r.xr b).toNat % 64))) ∧
    ScalarResult (.min sl d a b) sl d 0x09 a.toNat (b.toNat * 2 ^ 7) 1
      (fun r => BitVec.ofInt 64 (min (r.xr a).toInt (r.xr b).toInt)) ∧
    ScalarResult (.max sl d a b) sl d 0x0A a.toNat (b.toNat * 2 ^ 7) 1
      (fun r => BitVec.ofInt 64 (max (r.xr a).toInt (r.xr b).toInt)) ∧
    ScalarResult (.minn sl d a b) sl d 0x0B a.toNat (b.toNat * 2 ^ 7) 1
      (fun r => BitVec.ofNat 64 (min (r.xr a).toNat (r.xr b).toNat)) ∧
    ScalarResult (.maxn sl d a b) sl d 0x0C a.toNat (b.toNat * 2 ^ 7) 1
      (fun r => BitVec.ofNat 64 (max (r.xr a).toNat (r.xr b).toNat)) ∧
    ScalarResult (.mov sl d a) sl d 0x0D a.toNat 0 1 (fun r => r.xr a) ∧
    ScalarResult (.sel sl d a b c) sl d 0x0E a.toNat (b.toNat * 2 ^ 7 + c.toNat) 1
      (fun r => if r.cr c = true then r.xr a else r.xr b) ∧
    ∃ lead trail pop : Word → Nat,
      ScalarResult (.clz sl d a) sl d 0x0F a.toNat 0 1 (fun r => BitVec.ofNat 64 (lead (r.xr a))) ∧
      ScalarResult (.ctz sl d a) sl d 0x10 a.toNat 0 1 (fun r => BitVec.ofNat 64 (trail (r.xr a))) ∧
      ScalarResult (.popc sl d a) sl d 0x11 a.toNat 0 1 (fun r => BitVec.ofNat 64 (pop (r.xr a))) ∧
      ∀ w : Word,
        (lead w ≤ 64 ∧ (∀ i, 64 - lead w ≤ i → w.getLsbD i = false) ∧ (lead w < 64 → w.getLsbD (63 - lead w) = true)) ∧
        (trail w ≤ 64 ∧ (∀ i, i < trail w → w.getLsbD i = false) ∧ (trail w < 64 → w.getLsbD (trail w) = true)) ∧
        pop w = ((List.range 64).map fun i => (w.getLsbD i).toNat).sum

/-- R255, R256: the immediate forms and the constants: opcode and fields, and each result. -/
def Obligations.ScalarImmediateResults : Prop :=
  ∀ (sl : SSlot) (d a : XNum) (i : BitVec 13) (n : BitVec 6) (j : BitVec 19) (h : BitVec 16) (q : BitVec 2),
    ScalarResult (.addi sl d a i) sl d 0x21 a.toNat i.toNat 1 (fun r => BitVec.ofInt 64 ((r.xr a).toInt + i.toInt)) ∧
    ScalarResult (.andi sl d a i) sl d 0x23 a.toNat i.toNat 1 (fun r => r.xr a &&& BitVec.ofInt 64 i.toInt) ∧
    ScalarResult (.ori sl d a i) sl d 0x24 a.toNat i.toNat 1 (fun r => r.xr a ||| BitVec.ofInt 64 i.toInt) ∧
    ScalarResult (.xori sl d a i) sl d 0x25 a.toNat i.toNat 1 (fun r => r.xr a ^^^ BitVec.ofInt 64 i.toInt) ∧
    ScalarResult (.shli sl d a n) sl d 0x26 a.toNat n.toNat 1
      (fun r => BitVec.ofNat 64 ((r.xr a).toNat * 2 ^ n.toNat)) ∧
    ScalarResult (.shri sl d a n) sl d 0x27 a.toNat n.toNat 1
      (fun r => BitVec.ofNat 64 ((r.xr a).toNat / 2 ^ n.toNat)) ∧
    ScalarResult (.srai sl d a n) sl d 0x28 a.toNat n.toNat 1
      (fun r => BitVec.ofInt 64 ((r.xr a).toInt / 2 ^ n.toNat)) ∧
    ScalarResult (.li sl d j) sl d 0x30 0 j.toNat 1 (fun _ => BitVec.ofInt 64 j.toInt) ∧
    ∃ half : Word → Word,
      ScalarResult (.lih sl d h q) sl d 0x31 0 (q.toNat * 2 ^ 17 + h.toNat) 1 (fun r => half (r.xr d)) ∧
      ∀ (w : Word) (k : Nat), k < 64 → (half w).getLsbD k =
        if 16 * q.toNat ≤ k ∧ k < 16 * q.toNat + 16 then h.getLsbD (k - 16 * q.toNat) else w.getLsbD k

/-- R257, R258: the multiply operations: bits 63:0 and 127:64 of the product, three bundles later. The divide operations, twelve bundles
later: all ones and the dividend for a zero divisor, -2^63 and 0 for the one signed overflow, and else the quotient truncated toward
zero and the remainder. -/
def Obligations.MultipliesAndDivides : Prop :=
  (∀ (sl : SSlot) (d a b : XNum),
    ScalarResult (.mul sl d a b) sl d 0x18 a.toNat (b.toNat * 2 ^ 7) 3
      (fun r => BitVec.ofInt 64 ((r.xr a).toInt * (r.xr b).toInt)) ∧
    ScalarResult (.mul sl d a b) sl d 0x18 a.toNat (b.toNat * 2 ^ 7) 3
      (fun r => BitVec.ofNat 64 ((r.xr a).toNat * (r.xr b).toNat)) ∧
    ScalarResult (.mulh sl d a b) sl d 0x19 a.toNat (b.toNat * 2 ^ 7) 3
      (fun r => BitVec.ofInt 64 ((r.xr a).toInt * (r.xr b).toInt / 2 ^ 64)) ∧
    ScalarResult (.mulhn sl d a b) sl d 0x1A a.toNat (b.toNat * 2 ^ 7) 3
      (fun r => BitVec.ofNat 64 ((r.xr a).toNat * (r.xr b).toNat / 2 ^ 64))) ∧
  (∀ (sl : SSlot) (d a b : XNum), ∃ qs rs qn rn : Word → Word → Word,
    ScalarResult (.divs sl d a b) sl d 0x1C a.toNat (b.toNat * 2 ^ 7) 12 (fun r => qs (r.xr a) (r.xr b)) ∧
    ScalarResult (.divn sl d a b) sl d 0x1D a.toNat (b.toNat * 2 ^ 7) 12 (fun r => qn (r.xr a) (r.xr b)) ∧
    ScalarResult (.rems sl d a b) sl d 0x1E a.toNat (b.toNat * 2 ^ 7) 12 (fun r => rs (r.xr a) (r.xr b)) ∧
    ScalarResult (.remn sl d a b) sl d 0x1F a.toNat (b.toNat * 2 ^ 7) 12 (fun r => rn (r.xr a) (r.xr b)) ∧
    ∀ x y : Word,
      (y = 0 → qs x y = BitVec.ofNat 64 (2 ^ 64 - 1) ∧ rs x y = x ∧ qn x y = BitVec.ofNat 64 (2 ^ 64 - 1) ∧ rn x y = x) ∧
      (x.toInt = -2 ^ 63 → y.toInt = -1 → (qs x y).toInt = -2 ^ 63 ∧ rs x y = 0) ∧
      (y ≠ 0 → ¬(x.toInt = -2 ^ 63 ∧ y.toInt = -1) →
        (qs x y).toInt = x.toInt.tdiv y.toInt ∧ (rs x y).toInt = x.toInt - y.toInt * (qs x y).toInt) ∧
      (y ≠ 0 → (qn x y).toNat = x.toNat / y.toNat ∧ (rn x y).toNat = x.toNat - y.toNat * (qn x y).toNat))

/-- R259: the compares and votes write their condition, at latency 1, and no x register and no port. -/
def Obligations.ComparesAndVotes : Prop :=
  ∀ (sl : SSlot) (c : BitVec 3) (a b : XNum) (k : KNum),
    (ConditionResult (.ceq sl c a b) sl c 0x38 a.toNat (b.toNat * 2 ^ 7) (fun r => (r.xr a = r.xr b)) ∧
      ConditionResult (.cne sl c a b) sl c 0x39 a.toNat (b.toNat * 2 ^ 7) (fun r => (r.xr a ≠ r.xr b)) ∧
      ConditionResult (.clt sl c a b) sl c 0x3A a.toNat (b.toNat * 2 ^ 7)
        (fun r => ((r.xr a).toInt < (r.xr b).toInt)) ∧
      ConditionResult (.cltn sl c a b) sl c 0x3B a.toNat (b.toNat * 2 ^ 7)
        (fun r => ((r.xr a).toNat < (r.xr b).toNat)) ∧
      ConditionResult (.cle sl c a b) sl c 0x3C a.toNat (b.toNat * 2 ^ 7)
        (fun r => ((r.xr a).toInt ≤ (r.xr b).toInt)) ∧
      ConditionResult (.clen sl c a b) sl c 0x3D a.toNat (b.toNat * 2 ^ 7)
        (fun r => ((r.xr a).toNat ≤ (r.xr b).toNat))) ∧
    (∀ l n code, (l, n, code) ∈ [(VoteLanes.l1024, 1024, 0), (.l512, 512, 1), (.l256, 256, 2), (.l128, 128, 3)] →
      ConditionResult (.anyk sl c k l) sl c 0x40 k.toNat code (fun r => (∃ i, i < n ∧ (r.kr k).getLsbD i = true)) ∧
      ConditionResult (.allk sl c k l) sl c 0x41 k.toNat code (fun r => (∀ i, i < n → (r.kr k).getLsbD i = true)))

/-! ### Control registers and staging -/

/-- First: R260, R121, R408: `csrr` and `csrw` check the number first (cause 0x02 for one that no chapter assigns), then the ring (cause
0x04). Else `csrr` writes the register's value to xd and to the slot's port and `csrw` schedules xa for the register, one bundle
later; a counter whose event is not allowed reads 0 and sets PMSTAT.DENIED, and ignores a write.
Second: R6, R99, R121, R122, R127, R200, R209, R260, R362, R385, R389, R408: what a `csrw` leaves when it lands with no other write under way:
ROUND, WGEN, GFMT, IDLEREM, the loop, watchpoint and counter registers, the driver's trap bank and scratch registers, DHIMG, CODERATE and
LOSSTMO take their bits, FLAGS, MSTAT, PMSTAT and WSTAT clear where the value holds 1, and the read-only STATION, COREID, TSTART, ALLOW,
MFMT and PKGID change nothing. And what a `csrr` reads: each register as it stands at the beginning of the cycle, with the landed writes of
its own context over it, and without those that land on DHIMG and the package registers from another context in that cycle.
The model's readings and choices it rests on: log 22, 163. -/
def Obligations.ControlRegisters : Prop :=
  (∀ (sl : SSlot) (d a : XNum) (n : BitVec 12) (s : State),
     (csrAssigned n.toNat = false →
       exec (.csrr sl d n) s = .next (trapped sl.slot 0x02 0 s) ∧ exec (.csrw sl n a) s = .next (trapped sl.slot 0x02 0 s)) ∧
     (csrAssigned n.toNat = true → ringNat s.me.ring < csrRing n.toNat →
       exec (.csrr sl d n) s = .next (trapped sl.slot 0x04 0 s) ∧ exec (.csrw sl n a) s = .next (trapped sl.slot 0x04 0 s)) ∧
     (csrAssigned n.toNat = true → csrRing n.toNat ≤ ringNat s.me.ring →
       (if 0x034 ≤ n.toNat ∧ n.toNat ≤ 0x037 ∧ pmDenied s s.me (n.toNat - 0x034) = true then
         exec (.csrr sl d n) s = .next (s.sched [mkPend s.me sl.slot 1 (.x d.toNat) (ones 64) 0,
           mkPend s.me sl.slot 1 (sPort sl) (ones 64) 0, mkPend s.me sl.slot 1 .denied 1 1]) ∧
         exec (.csrw sl n a) s = .next s
       else
         exec (.csrr sl d n) s = .next (s.sched [mkPend s.me sl.slot 1 (.x d.toNat) (ones 64) (csrRead s s.cur n.toNat).toNat,
           mkPend s.me sl.slot 1 (sPort sl) (ones 64) (csrRead s s.cur n.toNat).toNat]) ∧
         exec (.csrw sl n a) s = .next (s.sched [mkPend s.me sl.slot 1 (.csr n.toNat) (ones 64) (s.me.xr a).toNat])))) ∧
  ((∀ (sl : SSlot) (a : XNum) (s : State), s.me.pend = [] →
     ∃ t : BitVec 12 → State, (∀ n, csrAssigned n.toNat = true → csrRing n.toNat ≤ ringNat s.me.ring →
         ¬(0x034 ≤ n.toNat ∧ n.toNat ≤ 0x037 ∧ pmDenied s s.me (n.toNat - 0x034) = true) → exec (.csrw sl n a) s = .next (t n)) ∧
       let v := (s.me.xr a).toNat
       let at_ := fun (n : Nat) => laterBundle (t (BitVec.ofNat 12 n)) 1
       (at_ 0x008).me.round = v % 4 ∧ (at_ 0x00A).me.wgen = v % 2 ^ 16 ∧ (at_ 0x022).me.gfmt = v % 2 ^ 10 ∧ (at_ 0x01C).me.idleRem = v % 2 ^ 12 ∧
       (∀ i, i < 6 → (at_ 0x009).me.flags.testBit i = (s.me.flags.testBit i && !(s.me.xr a).getLsbD i)) ∧
       (∀ i, i < 5 → (at_ 0x021).me.mstat.testBit i = (s.me.mstat.testBit i && !(s.me.xr a).getLsbD i)) ∧
       (at_ 0x038).me.pmstat.testBit 0 = (s.me.pmstat.testBit 0 && !(s.me.xr a).getLsbD 0) ∧
       (∀ i, i < 64 → (at_ 0x02C).me.wstat.getLsbD i =
         (s.me.wstat.getLsbD i && !((s.me.xr a).getLsbD i && (i < 4 || 8 ≤ i && i < 12 || 16 ≤ i && i < 20)))) ∧
       (∀ i, i < 4 →
         ((at_ (0x010 + i)).me.lcnt.get 0 i).toNat = v % 2 ^ 32 + v / 2 ^ 63 * 2 ^ 63 ∧
         ((at_ (0x014 + i)).me.lbeg.get 0 i).toNat = v / 2 * 2 ∧ ((at_ (0x018 + i)).me.lend.get 0 i).toNat = v / 2 * 2 ∧
         (at_ (0x024 + i)).me.waddr.get 0 i = s.me.xr a ∧
         ((at_ (0x028 + i)).me.wctl.get 0 i).toNat = v % 2 ^ 5 + v / 2 ^ 12 % 2 ^ 4 * 2 ^ 12 ∧
         (at_ (0x030 + i)).me.pmev.get 0 i = v % 2 ^ 8 ∧ (at_ (0x034 + i)).me.pmcnt.get 0 i = s.me.xr a ∧
         (at_ (0x416 + i)).me.dscr.get 0 i = s.me.xr a) ∧
       (at_ 0x410).me.trapD.pc.toNat = v / 2 * 2 ∧ (at_ 0x411).me.trapD.mask.toNat = v % 2 ^ 12 ∧
       (at_ 0x412).me.trapD.cause.toNat = s.me.trapD.cause.toNat % 2 ^ 28 + v / 2 ^ 28 % 2 ^ 4 * 2 ^ 28 ∧
       (at_ 0x413).me.trapD.addr = s.me.xr a ∧ (at_ 0x414).me.trapD.xa = s.me.xr a ∧ (at_ 0x415).me.trapD.xb = s.me.xr a ∧
       ((at_ 0x41A).dev s.me.dev).dhimg = s.me.xr a ∧
       (at_ 0x408).losstmo = (if v % 2 ^ 8 = 0 then s.losstmo else v % 2 ^ 8) ∧
       (∀ i, i < 8 → (at_ (0x400 + i)).coderate.get 0 i =
         let k := v % 2 ^ 5
         let m := v / 2 ^ 8 % 2 ^ 4
         let p := v / 2 ^ 16 % 2 ^ 5
         if 1 ≤ k ∧ k ≤ 16 ∧ m ≤ 8 ∧ k + m ≤ 24 ∧ 1 ≤ p ∧ p ≤ 16 then
           BitVec.ofNat 64 (k + m * 2 ^ 8 + p * 2 ^ 16 + v / 2 ^ 24 % 2 * 2 ^ 24)
         else s.coderate.get 0 i) ∧
       ∀ n ∈ ([0x000, 0x001, 0x002, 0x003, 0x020, 0x023] : List Nat), (at_ n).me = { s.me with bundle := s.me.bundle + 1 }) ∧
   ∀ (s : State) (core k : Nat), k < 4 →
     let c := s.ctx (4 * core + k)
     let rd := csrRead s.keepPrior (4 * core + k)
     let nat := fun (v : Nat) => (BitVec.ofNat 64 v : Word)
     rd 0x000 = nat s.station ∧ rd 0x001 = nat (core + k * 2 ^ 6 + (if c.elastic = true then 2 ^ 8 else 0)) ∧ rd 0x002 = nat c.tstart ∧
     rd 0x003 = BitVec.ofInt 64 ((s.dev c.dev).accts.get 0 c.acct) ∧ rd 0x008 = nat c.round ∧ rd 0x009 = nat c.flags ∧ rd 0x00A = nat c.wgen ∧
     rd 0x01C = nat c.idleRem ∧ rd 0x020 = nat (s.core core).eng.mfmt ∧ rd 0x021 = nat c.mstat ∧ rd 0x022 = nat c.gfmt ∧
     rd 0x023 = nat s.pkgid ∧ rd 0x02C = c.wstat ∧ rd 0x02D = nat (s.shedGap + s.shedCount * 2 ^ 48) ∧ rd 0x02E = nat (s.dev c.dev).runtime ∧
     rd 0x038 = nat c.pmstat ∧ rd 0x408 = nat s.losstmo ∧ rd 0x409 = nat (s.fabBad + s.fabYard * 2 ^ 16 + s.fabLate * 2 ^ 32) ∧
     rd 0x410 = c.trapD.pc ∧ rd 0x411 = c.trapD.mask ∧ rd 0x412 = c.trapD.cause ∧ rd 0x413 = c.trapD.addr ∧ rd 0x414 = c.trapD.xa ∧
     rd 0x415 = c.trapD.xb ∧ rd 0x41A = (s.dev c.dev).dhimg ∧
     (∀ i, i < 4 →
       rd (0x010 + i) = c.lcnt.get 0 i ∧ rd (0x014 + i) = c.lbeg.get 0 i ∧ rd (0x018 + i) = c.lend.get 0 i ∧ rd (0x024 + i) = c.waddr.get 0 i ∧
       rd (0x028 + i) = c.wctl.get 0 i ∧ rd (0x030 + i) = nat (c.pmev.get 0 i) ∧ rd (0x416 + i) = c.dscr.get 0 i ∧
       rd (0x034 + i) = (if ((s.dev c.dev).pmallow.get 0 (c.pmev.get 0 i / 64)).getLsbD (c.pmev.get 0 i % 64) then c.pmcnt.get 0 i else 0)) ∧
     (∀ i, i < 8 → rd (0x400 + i) = s.coderate.get 0 i) ∧
     (∀ n, n = 0x408 ∨ n = 0x409 ∨ n = 0x41A ∨ (0x400 ≤ n ∧ n ≤ 0x407) → ∀ other v, other ≠ 4 * core + k →
       csrRead (s.csrLand other n v) (4 * core + k) n = csrRead s (4 * core + k) n) ∧
     ∀ v, v < 2 ^ 64 → csrRead (s.csrLand (4 * core + k) 0x41A v) (4 * core + k) 0x41A = nat v)

/-! ### Landing (R133, R135) -/

/-- R133, R135: when a context's writes land, of those due on one x register in full, exactly one takes effect: one of the latest
bundle that has any; of these the one of the highest slot; of these the one issued last. With none due, the register keeps its
value. WRITE_LANDING does this for a ready context at its present bundle, and leaves memory and every other context alone. -/
def Obligations.LandingTakesOneWrite : Prop :=
  ∀ (s : State) (n : XNum), s.me.run = .ready → n ≠ 0 →
    (∀ p ∈ s.me.pend, p.tgt = .x n.toNat → p.mask = ones 64) →
    ∃ t : State, exec .writeLanding s = .next t ∧ t.mem = s.mem ∧ (∀ q, q ≠ s.cur → t.ctx q = s.ctx q) ∧
      t.me.pend = s.me.pend.filter (fun p => s.me.bundle < p.land) ∧
      ((∀ p ∈ s.me.pend, p.tgt = .x n.toNat → s.me.bundle < p.land) → t.me.xr n = s.me.xr n) ∧
      ∀ p ∈ s.me.pend, p.tgt = .x n.toNat → p.land ≤ s.me.bundle →
        (∀ q ∈ s.me.pend, q.tgt = .x n.toNat → q.land ≤ s.me.bundle →
          q = p ∨ q.land < p.land ∨ (q.land = p.land ∧ (q.slot < p.slot ∨ (q.slot = p.slot ∧ q.seq < p.seq)))) →
        t.me.xr n = BitVec.ofNat 64 p.val

/-! ### The B slot -/

/-- R246 to R249, R252, R408: `ptg` computes a target from the head of its bundle; `br` with a clear condition has no effect, and every
other transfer is taken, to take effect at bundle n + 3; `call` writes its link besides: where an idle run of 2 or more bundles stands next in
code order, the head after that run; else the head after the one that follows the next head, be that an idle head or not, also where
that head is an idle head whose run bundle n + 3 would go on with, and also at the last bundle of a loop. TRANSFER_EFFECT: a transfer due at a ready
context's present bundle sets the pc to its target and clears ACT of every active loop whose range does not hold the target, and of no
other; with none due nothing changes. -/
def Obligations.TransfersAndTheirEffect : Prop :=
  (∀ (c : BitVec 3) (u : BitVec 2) (x : XNum) (off : BitVec 25) (s : State),
    (∃ t : State, exec (.ptg u off) s = .next t ∧ (∃ p, t = s.sched [p] ∧ p.tgt = .t u.toNat) ∧
      (quietFor s (.t u.toNat) → (laterBundle t 1).me.tr u = s.me.pc + BitVec.ofInt 64 (2 * off.toInt))) ∧
    (s.me.cr c = false → exec (.br c u) s = .next s) ∧
    (s.me.cr c = true → ∃ t : State, exec (.br c u) s = .next t ∧ transferred s t 0x03 (s.me.tr u)) ∧
    (∃ t : State, exec (.bra u) s = .next t ∧ transferred s t 0x03 (s.me.tr u)) ∧
    (∃ t : State, exec (.brx x) s = .next t ∧ transferred s t 0x03 (s.me.xr x)) ∧
    (∃ t : State, exec (.ret x) s = .next t ∧ transferred s t 0x04 (s.me.xr x)) ∧
    (∃ r t, exec (.call x u) s = .next t ∧ transferred s r 0x03 (s.me.tr u) ∧
      let h1 := nextHead s.myCode s.me.pc
      ∃ link : Word, t = r.sched [mkPend s.me .B 1 (.x x.toNat) (ones 64) link.toNat] ∧
        (∀ m, headAt s.myCode h1 = .idle m → 2 ≤ m → link = nextHead s.myCode h1) ∧
        ((∀ m, headAt s.myCode h1 = .idle m → m = 1) → link = nextHead s.myCode (nextHead s.myCode h1)))) ∧
  (∀ (s : State), s.me.run = .ready →
    ((∀ x ∈ s.me.xfers, x.at_ ≠ s.me.bundle) → ∃ t : State, exec .transferEffect s = .next t ∧ t = s.setCtx s.cur s.me) ∧
    ∀ x, s.me.xfers.find? (fun x => x.at_ == s.me.bundle) = some x →
      ∃ t : State, exec .transferEffect s = .next t ∧ t = s.setCtx s.cur t.me ∧ t.me.pc = x.target ∧
        (∀ y ∈ t.me.xfers, s.me.bundle < y.at_) ∧
        ∀ n, n < 4 → loopAct t.me n = (loopAct s.me n &&
          (decide ((s.me.lbeg.get 0 n).toNat ≤ x.target.toNat) && decide (x.target.toNat ≤ (s.me.lend.get 0 n).toNat))))

namespace Sys2Proof.Machine

/-- R251: loop n meets the test of the bundle at the context's pc. -/
def meetsEdge (c : Ctx) (n : Nat) : Prop := n < 4 ∧ loopAct c n = true ∧ c.lend.get 0 n = c.pc

/-- R251: of two loops that meet the test, m is taken first: the higher LBEG, then the higher number. -/
def takenFirst (c : Ctx) (m n : Nat) : Prop :=
  (c.lbeg.get 0 n).toNat < (c.lbeg.get 0 m).toNat ∨ ((c.lbeg.get 0 n).toNat = (c.lbeg.get 0 m).toNat ∧ n < m)

/-- R251: loop n meets the test and every loop taken first is exhausted. -/
def edgeReaches (c : Ctx) (n : Nat) : Prop := meetsEdge c n ∧ ∀ m, meetsEdge c m → takenFirst c m n → loopCount c m = 0

/-- R251: the writes of the test, landing at the next bundle: of each loop that it reaches, COUNT lowered by one, or ACT cleared where
COUNT is 0. -/
def edgeWrites (c : Ctx) (es : List Pend) : Prop :=
  ∀ p, p ∈ es ↔ ∃ n, edgeReaches c n ∧ p.land = c.bundle + 1 ∧ p.slot = 0 ∧ p.seq = c.bundle + 1 ∧ p.tgt = .lcnt n ∧
    (0 < loopCount c n → p.mask = 2 ^ 32 - 1 ∧ p.val = loopCount c n - 1) ∧ (loopCount c n = 0 → p.mask = 2 ^ 63 ∧ p.val = 0)

/-- R251: where the context goes on: LBEG of the loop whose edge is taken, else the given address. -/
def edgeGoes (c : Ctx) (other pc : Word) : Prop :=
  (∀ n, edgeReaches c n → 0 < loopCount c n → pc = c.lbeg.get 0 n) ∧ ((∀ n, meetsEdge c n → loopCount c n = 0) → pc = other)

/-- R72: TSTART once a bundle of the context has issued. -/
def startOfLaunch (s : State) (c : Ctx) : Nat := if c.bundle = 0 then s.station else c.tstart

end Sys2Proof.Machine

/-- R250: `loop` and `loopi` write LBEG, LEND and LCNT of their loop, the last bundle lying not before the next one in code order;
`loop` with N = 0 writes LCNT 0 and skips the body; a last bundle before the next one, and a count of 0 for `loopi`, raise cause
0x02. R72, R126, R127, R133, R251: the slots of a bundle are checked in a state that has TSTART stamped at the first bundle and the
writes of the loop test under way: of each loop that the test reaches, COUNT lowered or ACT cleared at the next bundle. A committed
bundle counts one more bundle and goes on at LBEG of the loop whose edge is taken, else past the body that its `loop` skips, else at the
next head in code order; a return goes where it says; after `halt` only the event counts. An idle run issues one empty bundle: it
begins with the IDLEREM of a return, which is cleared, or with the count of its head, stays at its head until its last bundle, and meets
the loop test with that one alone.
The model's readings and choices it rests on: log 162. -/
def Obligations.LoopsOpen : Prop :=
  (∀ (s t : State) (key : Nat), let c := s.ctx key
    (∃ es, edgeWrites c es ∧ s.bundleBase key =
      ({ s with cur := key }).setCtx key { c with tstart := startOfLaunch s c, pend := c.pend ++ es }) ∧
    let d := (t.ctx key).countEv 0x01 1
    ∃ u : Ctx, s.commitBundle key t = ({ t with cur := s.cur }).setCtx key u ∧
      (d.run = .ended → u = d) ∧
      (d.run ≠ .ended → d.redirected = true → u = { d with bundle := d.bundle + 1, hold := none, redirected := false }) ∧
      (d.run ≠ .ended → d.redirected = false → ∃ pc,
        edgeGoes c (d.skipTo.getD (nextHead (codeOf (s.core (keyCore key)) c.ring) c.pc)) pc ∧
        u = { d with bundle := d.bundle + 1, hold := none, pc := pc, skipTo := none, returned := false, watchOff := false })) ∧
  (∀ (s : State) (key m : Nat), let c := s.ctx key
    fetch (s.core (keyCore key)) c.ring c.pc = .idle m → c.redirected = false →
    let rest := if c.idleRun ≠ 0 then c.idleRun else if c.returned = true ∧ c.idleRem ≠ 0 then c.idleRem else m
    ∃ (u : Ctx) (es : List Pend) (pc : Word), bundleAt s key = .commits (s.setCtx key u) ∧
      (1 < rest → es = [] ∧ pc = c.pc) ∧
      (rest ≤ 1 → edgeWrites c es ∧ edgeGoes c (c.skipTo.getD (nextHead (codeOf (s.core (keyCore key)) c.ring) c.pc)) pc) ∧
      u = { (c.countEv 0x01 1) with
        tstart := startOfLaunch s c, bundle := c.bundle + 1, hold := none, pc := pc, pend := c.pend ++ es, idleRun := rest - 1
        idleRem := if c.idleRun = 0 ∧ c.returned = true then 0 else c.idleRem, skipTo := none, returned := false, watchOff := false }) ∧
  ∀ (lc : BitVec 2) (x : XNum) (o19 : BitVec 19) (o12 : BitVec 12) (k : BitVec 13) (s : State),
    ∀ g ∈ [((Instr.loop lc x o19, (s.me.xr x).toNat % 2 ^ 32, o19.toNat) : Instr × Nat × Nat), (.loopi lc k o12, k.toNat, o12.toNat)],
      let hn := nextHead s.myCode s.me.pc
      let e := s.me.pc + BitVec.ofNat 64 (2 * g.2.2)
      (e.toNat < hn.toNat → exec g.1 s = .next (trapped .B 0x02 0 s)) ∧
      (hn.toNat ≤ e.toNat → g.2.1 ≠ 0 → ∃ t : State, exec g.1 s = .next t ∧
        t = s.sched [mkPend s.me .B 1 (.lbeg lc.toNat) (ones 64) hn.toNat, mkPend s.me .B 1 (.lend lc.toNat) (ones 64) e.toNat,
          mkPend s.me .B 1 (.lcnt lc.toNat) (ones 64) (lcntWord true (g.2.1 - 1)).toNat]) ∧
      (hn.toNat ≤ e.toNat → g.2.1 = 0 →
        exec g.1 s = .next (if g.1 = .loopi lc k o12 then trapped .B 0x02 0 s else
          (s.sched [mkPend s.me .B 1 (.lcnt lc.toNat) (ones 64) 0]).setCtx s.cur
            { s.me.addPend [mkPend s.me .B 1 (.lcnt lc.toNat) (ones 64) 0] with skipTo := some (nextHead s.myCode e) }))

/-! ### The step and the bundle -/

/-- A step with something listed performs the first of the list, its subject in `cur`; with nothing listed it lists what comes next
in the cycle; and nothing runs after a boot that failed but the next package reset that the world brings (R411). A bundle whose only syllable decodes to an instruction does what that
instruction does (R136): it commits it, takes its trap, or holds; and by itself the instruction ends the same way.
The model's readings and choices it rests on: log 1, 107. -/
def Obligations.StepRunsDecodedInstruction : Prop :=
  (∀ s : State, s.bootStage ≠ 0 → (∀ e ∈ s.inputs, e.2 ≠ .packageReset) → step s = .fault .bootStopped) ∧
  (∀ (s : State) (l r : List (Nat × Instr)) (c : Nat), s.bootStage ≠ 0 → s.inputs = l ++ (c, .packageReset) :: r →
    (∀ e ∈ l, e.2 ≠ .packageReset) → step s = exec .packageReset { s with inputs := r, todo := [], cur := 0 }) ∧
  (∀ (s : State) (k : Nat) (i : Instr) (rest : List (Nat × Instr)), s.bootStage = 0 → s.todo = (k, i) :: rest →
    step s = exec i { s with todo := rest, cur := k }) ∧
  (∀ s : State, s.bootStage = 0 → s.todo = [] → step s = .next s.turn) ∧
  (∀ (i : Instr) (sl : Slot) (s : State), i.slot = some sl → exec i s = finishSlot sl s (slotExec i s)) ∧
  (∀ (i : Instr) (sl : Slot) (w key : Nat) (s : State), decodeSlot sl w = some i →
    fetch (s.core (keyCore key)) (s.ctx key).ring (s.ctx key).pc = .bundle [(sl, w)] →
    bundleAt s key = match slotExec i (s.bundleBase key) with
      | .ok t => .commits (s.commitBundle key t)
      | .trap code addr => .traps ((s.meetPoison (s.ctx key).dev code addr).setHits key (Nat.lor 0 (hitBits (s.ctx key))))
          { code := code, addr := addr, mask := slotMaskBit sl, async := false }
      | .watch hits addr => .traps (s.setHits key (Nat.lor (Nat.lor 0 hits) (hitBits (s.ctx key))))
          { code := 0x40, addr := addr, mask := slotMaskBit sl, async := false }
      | .hold why => .holds why)

namespace Sys2Proof.Machine

/-- R136, R243: the cause and TRAPADDR with which a slot faults in a state, if it does: a reserved syllable, a fault of its operation, or
a watchpoint. -/
def slotFault (s : State) (w : Slot × Nat) : Option (Nat × Word) :=
  match decodeSlot w.1 w.2 with
  | none => some (0x02, 0)
  | some i => match slotExec i s with
    | .trap code addr => some (code, addr)
    | .watch _ addr => some (0x40, addr)
    | _ => none

/-- R138: why a slot holds in a state, if it does. -/
def slotHold (s : State) (w : Slot × Nat) : Option HoldWhy :=
  match decodeSlot w.1 w.2 with
  | none => none
  | some i => match slotExec i s with | .hold why => some why | _ => none

/-- The state after slots in their order, each that passes acting on what those before it left. -/
def afterSlots (s : State) : List (Slot × Nat) → State
  | [] => s
  | w :: ws => match decodeSlot w.1 w.2 with
    | none => afterSlots s ws
    | some i => match slotExec i s with | .ok t => afterSlots t ws | _ => afterSlots s ws

end Sys2Proof.Machine

/-- R136, R137, R138: a bundle whose slots all pass commits all of them, in precedence order; when any slot faults, no slot takes
effect: the bundle ends with the cause of the first faulting slot and the mask of all that fault, whatever holds, with no change but HIT
bits and the granules that poisoned reads (cause 0x32, R87) met; else the first slot that holds makes it hold.
The model's readings and choices it rests on: log 121. -/
def Obligations.BundleCommitsAtomically : Prop :=
  ∀ (s : State) (key : Nat) (ws : List (Slot × Nat)),
    fetch (s.core (keyCore key)) (s.ctx key).ring (s.ctx key).pc = .bundle ws →
    let at_ := fun (j : Nat) => afterSlots (s.bundleBase key) (ws.take j)
    let w := fun (j : Nat) => ws.getD j (.B, 0)
    let faulty := (List.range ws.length).filter fun j => (slotFault (at_ j) (w j)).isSome
    ((∀ j, j < ws.length → slotFault (at_ j) (w j) = none ∧ slotHold (at_ j) (w j) = none) →
      bundleAt s key = .commits (s.commitBundle key (afterSlots (s.bundleBase key) ws))) ∧
    (∀ j c a, j < ws.length → slotFault (at_ j) (w j) = some (c, a) → (∀ i, i < j → slotFault (at_ i) (w i) = none) →
      let met := (List.range ws.length).foldl (fun t i => match slotFault (at_ i) (w i) with
        | some (code, addr) => t.meetPoison (s.ctx key).dev code addr
        | none => t) s
      ∃ h, bundleAt s key = .traps (met.setHits key h)
        { code := c, addr := a, mask := (faulty.map fun j => slotMaskBit (w j).1).sum, async := false }) ∧
    (∀ j why, j < ws.length → (∀ i, i < ws.length → slotFault (at_ i) (w i) = none) → slotHold (at_ j) (w j) = some why →
      (∀ i, i < j → slotHold (at_ i) (w i) = none) → bundleAt s key = .holds why)

/-- R126, R128, R130: a literal bundle of one syllable that is not all zero, stored whole at an even code address of the segment
with no poisoned byte, is fetched as that syllable in its slot, whatever code stands around it. -/
def Obligations.LiteralBundleFetched : Prop :=
  ∀ (k : Core) (ring : CRing) (pc : Word) (sl : Slot) (w : Nat),
    pc.toNat % 2 = 0 → w ≠ 0 → w < 2 ^ (16 * sl.parcels) → codeBadOf k ring = [] →
    ((codeOf k ring).drop pc.toNat).take (2 + 2 * sl.parcels) = literalBundle sl w →
    fetch k ring pc = .bundle [(sl, w)]

namespace Sys2Proof.Machine

/-- The issue path goes by contexts of core n that are not ready or hold, each marked in turn. -/
def passesBy (n : Nat) : State → List Nat → State → Prop
  | s, [], t => t = s
  | s, i :: is, t => (attempt s (4 * n + i) = .absent ∧ passesBy n s is t) ∨
      ∃ u, attempt s (4 * n + i) = .holds u ∧ passesBy n u is t

end Sys2Proof.Machine

/-- R16, R17, R277: BUNDLE_ISSUE gives the issue path of its core to the first context in order that can use it, and the state after is
what its bundle leaves; with none the core issues nothing and the path is free. The order begins with the holder of a path that is
held; on a free one it begins after the last holder, and at a tick boundary with the lowest of the contexts that `realign` holds.
The model's readings and choices it rests on: log 16, 139. -/
def Obligations.PathHolderIssues : Prop :=
  ∀ (s : State) (n p : Nat), s.cur = 4 * n → (s.core n).path = p → p < 4 →
    let held := fun (i : Nat) => match (s.ctx (4 * n + i)).hold with | some h => decide (h.why = .realign) | none => false
    ∃ order : List Nat,
      ((s.core n).free = false → order = [p, (p + 1) % 4, (p + 2) % 4, (p + 3) % 4]) ∧
      ((s.core n).free = true → s.station % 1024 ≠ 0 ∨ (∀ i, i < 4 → held i = false) →
        order = [(p + 1) % 4, (p + 2) % 4, (p + 3) % 4, p]) ∧
      ((s.core n).free = true → s.station % 1024 = 0 → ∀ i, i < 4 → held i = true → (∀ j, j < i → held j = false) → order.head? = some i) ∧
      (∀ i, i ∈ order ↔ i < 4) ∧
      (∀ l i r s' t, order = l ++ i :: r → passesBy n s l s' → attempt s' (4 * n + i) = .issues t →
        ∃ u, exec .bundleIssue s = .next u ∧ (u.core n).path = i ∧ (u.core n).free = false ∧ u.mem = t.mem ∧
          u.ctx (4 * n + i) = t.ctx (4 * n + i)) ∧
      (∀ s', passesBy n s order s' → ∃ u : State, exec .bundleIssue s = .next u ∧ (u.core n).free = true ∧ u.mem = s'.mem ∧
        u.ctxs = s'.ctxs)

/-! ### Near storage: the A slot and `qld` -/

namespace Sys2Proof.Machine

/-- How an access is checked (R80, R262): its address, its bytes, the level it needs, whether a quad sibling's stall will do, the
alignment of its offset, and the offsets of the bytes that it reads. -/
structure AccessForm where
  ea      : Word
  bytes   : Nat
  level   : Nat
  sibling : Bool
  align   : Nat
  reads   : List Nat

/-- The form of each A-slot access of one piece, and of `qld` (the tables of R80 and R262; R330). -/
def accessForm (s : State) : Instr → Option (Slot × AccessForm)
  | .ldb _ _ b o => some (.A, ⟨ea s.me b o, 1, 1, true, 1, [0]⟩)
  | .ldh _ _ b o => some (.A, ⟨ea s.me b o, 2, 1, true, 1, List.range 2⟩)
  | .ldw _ _ b o => some (.A, ⟨ea s.me b o, 4, 1, true, 1, List.range 4⟩)
  | .ldd _ b o => some (.A, ⟨ea s.me b o, 8, 1, true, 1, List.range 8⟩)
  | .stb _ b o => some (.A, ⟨ea s.me b o, 1, 1, true, 1, []⟩)
  | .sth _ b o => some (.A, ⟨ea s.me b o, 2, 1, true, 1, []⟩)
  | .stw _ b o => some (.A, ⟨ea s.me b o, 4, 1, true, 1, []⟩)
  | .std _ b o => some (.A, ⟨ea s.me b o, 8, 1, true, 1, []⟩)
  | .ldv _ b o k l => some (.A, ⟨ea s.me b o, 512, 1, true, 1, activeBytes (s.me.kr k) (laneBytes l)⟩)
  | .stv _ b o _ _ => some (.A, ⟨ea s.me b o, 512, 1, true, 1, []⟩)
  | .ldk _ b o => some (.A, ⟨ea s.me b o, 128, 1, true, 1, List.range 128⟩)
  | .stk _ b o => some (.A, ⟨ea s.me b o, 128, 1, true, 1, []⟩)
  | .accrd _ b o k => some (.A, ⟨ea s.me b o, 512, 0, false, 512, activeBytes (s.me.kr k) 4⟩)
  | .accwr _ b o _ => some (.A, ⟨ea s.me b o, 512, 0, false, 512, []⟩)
  | .tld _ b o => some (.A, ⟨ea s.me b o, 512, 2, false, 512, List.range 512⟩)
  | .tst _ b o => some (.A, ⟨ea s.me b o, 512, 2, false, 512, []⟩)
  | .atom _ w _ b _ _ o =>
    some (.A, ⟨s.me.xr b + o.signExtend 64, if w then 8 else 4, 1, false, if w then 8 else 4, List.range (if w then 8 else 4)⟩)
  | .qld _ a => some (.Q, ⟨s.me.xr a, 512, 1, false, 1, List.range 512⟩)
  | _ => none

/-- The stall that an address names, as the checks of this cycle see it (R49). -/
def stallAt (s : State) (a : Word) : Stall := (s.view s.me.dev).stall (addrStall a)

/-- R80, step 2: the address lies outside every stall, the access runs past its stall's last byte, or it is misaligned. -/
def outside (s : State) (f : AccessForm) : Prop :=
  addrStall f.ea = 0 ∨ (stallAt s f.ea).id = 0 ∨ 64 * (stallAt s f.ea).len < addrOffset f.ea + f.bytes ∨
    addrOffset f.ea % f.align ≠ 0

/-- R80, steps 3 to 5: a near stall of a home core that will do, at the level that is needed. -/
def reachable (s : State) (f : AccessForm) : Prop :=
  (stallAt s f.ea).level = f.level ∧
    ((stallAt s f.ea).core = s.myCore ∨ (f.sibling = true ∧ (stallAt s f.ea).core / 4 = s.myCore / 4))

/-- R80, steps 1 to 6. -/
def admitted (s : State) (f : AccessForm) : Prop :=
  f.ea.getLsbD 63 = true ∧ ¬outside s f ∧ reachable s f ∧
    (stallAt s f.ea).st = .active ∧ s.tick < (stallAt s f.ea).paid

/-- R80, step 7, R87: a byte at an offset lies in a granule that a read finds poisoned. -/
def tainted (s : State) (a : Word) (i : Nat) : Prop := poisonedAt s (((stallAt s a).phys + addrOffset a + i) / 64) = true

/-- Every check passes and no watchpoint of the context matches. -/
def clear (s : State) (f : AccessForm) (rd wr : Bool) : Prop :=
  admitted s f ∧ (∀ i ∈ f.reads, ¬tainted s f.ea i) ∧ watchHits s.me rd wr [(f.ea, f.bytes)] = []

/-- The state with an access of the issuing context on its way, which performs in the given cycle, with the addresses of its pieces where
it has several; all else is unchanged. -/
def underWay (s : State) (due : Nat) (a : Word) (op : AccOp) (pieces : List Word := []) : State :=
  { s with nextId := s.nextId + 1
           accesses := s.accesses ++ [{ id := s.nextId, key := s.cur, agent := 0, born := s.station, due := due,
                                        ord := a.toNat, op := op, named := pieces }] }

/-- R83: cycles until an access performs, and the latency of a load, for a stall of the own core or of a sibling. -/
def toPerform (s : State) (a : Word) : Nat := if (stallAt s a).core = s.myCore then 1 else 6
def loadLatency (s : State) (a : Word) (own : Nat) : Nat := if (stallAt s a).core = s.myCore then own else 13

/-- R363: the accesses that read and that write for the watchpoints; an `atom` does both. -/
def writesOwn : Instr → Bool
  | .stb .. | .sth .. | .stw .. | .std .. | .stv .. | .stvs .. | .stk .. | .accwr .. | .tst .. | .atom .. => true
  | _ => false
def readsOwn (i : Instr) : Bool := !writesOwn i || (match i with | .atom .. => true | _ => false)

/-- R268: no lock of the device on this core's slots covers the row of a tack-room access. -/
def unlocked (s : State) (f : AccessForm) : Prop :=
  f.level = 2 → ∀ l ∈ (s.core s.myCore).tack.locks, l.own.dev = s.me.dev → ∀ i ∈ l.stalls,
    (s.stall l.own.dev i).range.hi ≤ (stallAt s f.ea).phys + addrOffset f.ea ∨
    (stallAt s f.ea).phys + addrOffset f.ea + 512 ≤ (s.stall l.own.dev i).range.lo

/-- R360, R361, R363: watchpoint n matches an access of the given kind to pieces of so many bytes: its RD or WR selects the kind, and a
byte of a piece lies in its range, of 2^(SIZE + 3) bytes and aligned to its size. -/
def meets (c : Ctx) (rd wr : Bool) (pieces : List (Word × Nat)) (n : Nat) : Prop :=
  let k := c.wctl.get 0 n
  let size := 2 ^ (k.toNat / 2 ^ 12 % 16 + 3)
  n < 4 ∧ c.watchOff = false ∧ ((rd = true ∧ k.getLsbD 0 = true) ∨ (wr = true ∧ k.getLsbD 1 = true)) ∧
    ∃ g ∈ pieces, ∃ i, i < g.2 ∧ (g.1.toNat + i) / size = (c.waddr.get 0 n).toNat / size

/-- The watchpoints that match an access, each once and in order. -/
def hitList (c : Ctx) (rd wr : Bool) (pieces : List (Word × Nat)) (hits : List Nat) : Prop :=
  hits.Pairwise (· < ·) ∧ ∀ n, n ∈ hits ↔ meets c rd wr pieces n

/-- R85: a store of the issuing context into the stall named is buffered. -/
def buffers (s : State) (a : Word) : Bool := (stallAt s a).shared && s.me.elastic

end Sys2Proof.Machine

/-- R80, R262, R330: the checks of a near access in their order, for every A-slot access of one piece and `qld`: an imported
address, an address outside or misaligned, a far or wrong level or a home core that will not do, a stall that is not held, and
a poisoned byte that would be read; the first that fails decides the cause and TRAPADDR. A granule in which a load so meets an error that
cannot be corrected is poisoned from then on (R87).
The model's readings and choices it rests on: log 10. -/
def Obligations.NearChecksInOrder : Prop :=
  ∀ (i : Instr) (sl : Slot) (f : AccessForm) (s : State), accessForm s i = some (sl, f) →
    (f.ea.getLsbD 63 = false → exec i s = .next (trapped sl 0x14 f.ea s)) ∧
    (f.ea.getLsbD 63 = true → outside s f → exec i s = .next (trapped sl 0x13 f.ea s)) ∧
    (f.ea.getLsbD 63 = true → ¬outside s f → ¬reachable s f → exec i s = .next (trapped sl 0x14 f.ea s)) ∧
    (f.ea.getLsbD 63 = true → ¬outside s f → reachable s f →
      ¬((stallAt s f.ea).st = .active ∧ s.tick < (stallAt s f.ea).paid) → exec i s = .next (trapped sl 0x10 f.ea s)) ∧
    (∀ j k r, admitted s f → f.reads = k ++ j :: r → (∀ i ∈ k, ¬tainted s f.ea i) → tainted s f.ea j →
      let t := trapped sl 0x32 (BitVec.ofNat 64 ((f.ea.toNat + j) / 64 * 64)) s
      exec i s = .next t ∧
        ((stallAt s f.ea).phys % 64 = 0 → (stallAt s f.ea).len ≤ 2 ^ 40 → ((stallAt s f.ea).phys + addrOffset f.ea + j) / 64 ∈ t.poison))

/-- First: R83, R263, R266, R268, R330: the loads that pass: each puts one access on its way, with the cycle in which it performs, the
bytes it reads, how they are extended, and the registers and latency at which they land.
Second: R83, R85, R263, R266, R268: the stores that pass: each puts one access on its way with the bytes it writes, byte by byte from
the address of EA; a store into a SHARED NEAR stall in ELASTIC mode is marked as one to be buffered, `tst` never. -/
def Obligations.LoadsAndStoresIssue : Prop :=
  (∀ (z : Bool) (d b : XNum) (o : BitVec 20) (k : KNum) (v : VCode) (n : BitVec 3) (s : State),
     let a := ea s.me b o
     let p := (stallAt s a).phys + addrOffset a
     let dx := [mkPend s.me .A (loadLatency s a 4) (.x d.toNat) (ones 64) (ones 64)]
     let go := fun (w : Nat) (conv : LoadConv) (ds : List Pend) =>
       underWay s (s.station + toPerform s a) a (.load [(p, w)] conv ds)
     (clear s ⟨a, 1, 1, true, 1, [0]⟩ true false →
       exec (.ldb z d b o) s = .next (go 1 (if z then .zext 8 else .sext 8) dx)) ∧
     (clear s ⟨a, 2, 1, true, 1, List.range 2⟩ true false →
       exec (.ldh z d b o) s = .next (go 2 (if z then .zext 16 else .sext 16) dx)) ∧
     (clear s ⟨a, 4, 1, true, 1, List.range 4⟩ true false →
       exec (.ldw z d b o) s = .next (go 4 (if z then .zext 32 else .sext 32) dx)) ∧
     (clear s ⟨a, 8, 1, true, 1, List.range 8⟩ true false → exec (.ldd d b o) s = .next (go 8 .raw dx)) ∧
     (clear s ⟨a, 128, 1, true, 1, List.range 128⟩ true false →
       exec (.ldk k b o) s = .next (go 128 .raw [mkPend s.me .A (loadLatency s a 5) (.k k.toNat) (ones 1024) (ones 1024)])) ∧
     (clear s ⟨a, 512, 2, false, 512, List.range 512⟩ true false →
       (∀ l ∈ (s.core s.myCore).tack.locks, l.own.dev = s.me.dev → ∀ i ∈ l.stalls,
         (s.stall l.own.dev i).range.hi ≤ p ∨ p + 512 ≤ (s.stall l.own.dev i).range.lo) →
       exec (.tld v b o) s = .next (underWay s (s.station + 1) a (.load [(p, 512)] .raw (vLoadDests s.me 6 v (ones 4096))))) ∧
     (clear s ⟨s.me.xr b, 512, 1, false, 1, List.range 512⟩ true false →
       exec (.qld n b) s = .next (underWay s (s.station + 1) (s.me.xr b)
         (.load [((stallAt s (s.me.xr b)).phys + addrOffset (s.me.xr b), 512)] .raw
           [mkPend s.me .Q 4 (.sc n.toNat) (ones 4096) (ones 4096)])))) ∧
  (∀ (r b : XNum) (o : BitVec 20) (k : KNum) (v : VCode) (s : State),
     let a := ea s.me b o
     let p := (stallAt s a).phys + addrOffset a
     let go := fun (w : Nat) (byte : Nat → Byte) =>
       underWay s (s.station + toPerform s a) a (.store ((List.range w).map fun i => (p + i, byte i)) (buffers s a))
     let xb := fun (i : Nat) => BitVec.ofNat 8 ((s.me.xr r).toNat / 2 ^ (8 * i))
     (clear s ⟨a, 1, 1, true, 1, []⟩ false true → exec (.stb r b o) s = .next (go 1 xb)) ∧
     (clear s ⟨a, 2, 1, true, 1, []⟩ false true → exec (.sth r b o) s = .next (go 2 xb)) ∧
     (clear s ⟨a, 4, 1, true, 1, []⟩ false true → exec (.stw r b o) s = .next (go 4 xb)) ∧
     (clear s ⟨a, 8, 1, true, 1, []⟩ false true → exec (.std r b o) s = .next (go 8 xb)) ∧
     (clear s ⟨a, 128, 1, true, 1, []⟩ false true →
       exec (.stk k b o) s = .next (go 128 fun i => BitVec.ofNat 8 ((s.me.kr k).toNat / 2 ^ (8 * i)))) ∧
     (clear s ⟨a, 512, 2, false, 512, []⟩ false true →
       (∀ l ∈ (s.core s.myCore).tack.locks, l.own.dev = s.me.dev → ∀ i ∈ l.stalls,
         (s.stall l.own.dev i).range.hi ≤ p ∨ p + 512 ≤ (s.stall l.own.dev i).range.lo) →
       exec (.tst v b o) s = .next (underWay s (s.station + 1) a
         (.store ((List.range 512).map fun i => (p + i, vbyte (s.me.vsrc 8 v) i)) false))))

/-- R264, R267: the predicated accesses that pass: `ldv` and `stv` of lanes of 1, 2 or 4 bytes, and `accrd` and `accwr` of a
quarter-row. Only the bytes of active lanes are read or written: bit j of a load's mask is set exactly where the lane of that
bit is active, and the cells of a store are those of active lanes. `accrd` reads in this cycle, soft errors corrected (R87), and its
result is scheduled. -/
def Obligations.PredicatedAccessesIssue : Prop :=
  ∀ (b : XNum) (o : BitVec 20) (k : KNum) (v : VCode) (l : LaneW) (w : Nat) (s : State),
    (l, w) ∈ [(LaneW.e8, 1), (.e16, 2), (.e32, 4)] →
    let a := ea s.me b o
    let p := (stallAt s a).phys + addrOffset a
    let on := fun (w i : Nat) => (s.me.kr k).getLsbD (i / w) = true
    (clear s ⟨a, 512, 1, true, 1, activeBytes (s.me.kr k) w⟩ true false →
      ∃ m, exec (.ldv v b o k l) s = .next (underWay s (s.station + toPerform s a) a
          (.load [(p, 512)] .raw (vLoadDests s.me (loadLatency s a 5) v m))) ∧
        ∀ j, m.testBit j = true ↔ j < 4096 ∧ on w (j / 8)) ∧
    (clear s ⟨a, 512, 1, true, 1, []⟩ false true →
      ∃ cs, exec (.stv v b o k l) s = .next (underWay s (s.station + toPerform s a) a (.store cs (buffers s a))) ∧
        ∀ c : Host.Cell, c ∈ cs ↔ ∃ i, i < 512 ∧ on w i ∧ c = (p + i, vbyte (s.me.vsrc (8 * w) v) i)) ∧
    (clear s ⟨a, 512, 0, false, 512, activeBytes (s.me.kr k) 4⟩ true false →
      ∃ m, exec (.accrd v b o k) s = .next ((s.scan p 512).sched ((vLoadDests s.me 6 v m).map fun q =>
          { q with val := Nat.land (bytesToNat ((s.scan p 512).mem.readN p 512)) q.val })) ∧
        ∀ j, m.testBit j = true ↔ j < 4096 ∧ on 4 (j / 8)) ∧
    (clear s ⟨a, 512, 0, false, 512, []⟩ false true →
      ∃ cs, exec (.accwr v b o k) s = .next (underWay s s.station a (.store cs false)) ∧
        ∀ c : Host.Cell, c ∈ cs ↔ ∃ i, i < 512 ∧ on 4 i ∧ c = (p + i, vbyte (s.me.vsrc 32 v) i))

/-- R85, R265, R269: `ldvs` and `stvs`: eight chunks of 64 bytes, chunk j at EA + j times the stride, each checked by itself; all perform
in one cycle, c + 1 when every chunk lies in a stall of the own core and else c + 6; stored chunks that overlap stand in order, so that
the higher prevails. An `atom` that passes puts its operation on its way: performing in the next cycle in the own core's bank, with
the low bits of its operands as read at issue; the old value lands 8 bundles later. -/
def Obligations.StridedAndAtomicAccessesIssue : Prop :=
  (∀ (b t : XNum) (o : BitVec 20) (v : VCode) (s : State),
    let at_ := fun (j : Nat) => ea s.me b o + s.me.xr t * BitVec.ofNat 64 j
    let own := (List.range 8).all fun j => (stallAt s (at_ j)).core == s.myCore
    let p := fun (j : Nat) => (stallAt s (at_ j)).phys + addrOffset (at_ j)
    ((∀ j, j < 8 → admitted s ⟨at_ j, 64, 1, true, 1, []⟩ ∧ ∀ i, i < 64 → ¬tainted s (at_ j) i) →
      watchHits s.me true false ((List.range 8).map fun j => (at_ j, 64)) = [] →
      exec (.ldvs v b o t) s = .next (underWay s (s.station + (if own = true then 1 else 6)) (ea s.me b o)
        (.load ((List.range 8).map fun j => (p j, 64)) .raw (vLoadDests s.me (if own = true then 5 else 13) v (ones 4096)))
        ((List.range 8).map at_))) ∧
    ((∀ j, j < 8 → admitted s ⟨at_ j, 64, 1, true, 1, []⟩) →
      watchHits s.me false true ((List.range 8).map fun j => (at_ j, 64)) = [] →
      let cells := fun (buf : Bool) => (List.range 8).flatMap fun j =>
        if buffers s (at_ j) = buf then (List.range 64).map fun i => (p j + i, vbyte (s.me.vsrc 8 v) (64 * j + i)) else []
      let put := fun (buf : Bool) (u : State) => if cells buf = [] then u else
        underWay u (s.station + (if own = true then 1 else 6)) (ea s.me b o) (.store (cells buf) buf)
      exec (.stvs v b o t) s = .next (put true (put false s)))) ∧
  (∀ (op : AtomOp) (w : Bool) (d b x c : XNum) (o : BitVec 8) (s : State),
    let a := s.me.xr b + o.signExtend 64
    let n := if w then 8 else 4
    clear s ⟨a, n, 1, false, n, List.range n⟩ true true →
    exec (.atom op w d b x c o) s = .next (underWay s (s.station + 1) a
      (.atom ((stallAt s a).phys + addrOffset a) w op ((s.me.xr x).toNat % 2 ^ (8 * n)) ((s.me.xr c).toNat % 2 ^ (8 * n))
        [mkPend s.me .A 8 (.x d.toNat) (ones 64) (ones 64), mkPend s.me .A 8 .flags (ones 6) 0])))

/-- R83, R84, R85, R86, R269: a near access performs in its cycle and is gone; before it nothing happens. A direct store writes
its cells and no other byte, a buffered store writes none, a load schedules the bytes of memory with the context's own buffered
stores laid over them, and an atomic writes the new word and schedules the old one; what is read is scanned for soft errors. A load that
meets an error which cannot be corrected and which came after its check delivers what it reads and leaves cause 0x32 (log 10, DESIGN CHOICE
of when). R34, R87: of an 8-byte word of near storage in which one bit has turned a scan corrects and counts it; two bits, or two bytes of a granule
of a far stall that is not TOLERANT, leave the bytes as stored and the granule poisoned; one byte of such a granule is corrected; and
without errors a scan changes nothing.
The model's readings and choices it rests on: log 10, 16. -/
def Obligations.NearAccessesPerform : Prop :=
  (∀ (id : Nat) (s : State) (a : Access), s.accesses.find? (fun x => x.id == id) = some a →
    (s.station < a.due → exec (.nearAccessPerform id) s = .next s) ∧
    (a.due ≤ s.station → (∀ g ∈ a.op.segs, ∀ i, i < g.2 → uncorrectable s (g.1 + i) = false) → ∃ t : State, exec (.nearAccessPerform id) s = .next t ∧
      t.accesses = s.accesses.filter (fun x => x.id != id) ∧
      (∀ cs, a.op = .store cs false →
        (∀ q, (∀ c ∈ cs, c.1 ≠ q) → t.mem.read q = s.mem.read q) ∧
        (∀ l c r, cs = l ++ c :: r → (∀ e ∈ r, e.1 ≠ c.1) → t.mem.read c.1 = c.2)) ∧
      (∀ cs, a.op = .store cs true → t.mem = s.mem ∧
        (∀ e, e ∈ (t.ctx a.key).sbuf ↔ e = (a.id, cs) ∨ e ∈ (s.ctx a.key).sbuf)) ∧
      (∀ segs conv ds, a.op = .load segs conv ds → t.mem = (s.scanAll segs).mem ∧
        (t.ctx a.key).pend = (s.ctx a.key).pend ++ loadPends conv ((s.scanAll segs).readAs a.key segs) ds) ∧
      (∀ p w op x c ds, a.op = .atom p w op x c ds →
        let n := if w then 8 else 4
        let u := s.scan p n
        let old := bytesToNat (u.mem.readN p n)
        (∀ q, q < p ∨ p + n ≤ q → t.mem.read q = u.mem.read q) ∧
        bytesToNat (t.mem.readN p n) = (match op with
          | .add => (old + x) % 2 ^ (8 * n) | .and => old &&& x | .or => old ||| x | .xor => old ^^^ x
          | .min => if signExt old (8 * n) ≤ signExt x (8 * n) then old else x
          | .max => if signExt old (8 * n) ≤ signExt x (8 * n) then x else old
          | .minn => min old x | .maxn => max old x | .fadd => (fadd .f32 .rne old x).1 | .xchg => x
          | .cas => if old = c then x else old) % 2 ^ (8 * n) ∧
        ∀ d ∈ ds, d.tgt ≠ .flags → { d with val := old } ∈ (t.ctx a.key).pend)) ∧
    (∀ p n conv ds k, a.due ≤ s.station → a.op = .load [(p, n)] conv ds → a.named = [] → k < n → uncorrectable s (p + k) = true →
      (∀ i, i < k → uncorrectable s (p + i) = false) → p + n < 2 ^ 40 →
      (s.ctx a.key).run = .ready → (s.ctx a.key).async.length < 16 →
      ∃ t : State, exec (.nearAccessPerform id) s = .next t ∧ (p + k) / 64 ∈ t.poison ∧
        (t.ctx a.key).pend = (s.ctx a.key).pend ++ loadPends conv ((s.scan p n).readAs a.key [(p, n)]) ds ∧
        (t.ctx a.key).async = (s.ctx a.key).async ++
          [{ cycle := s.station, code := 0x32, addr := BitVec.ofNat 64 ((a.ord % 2 ^ 64 + k) / 64 * 64) }])) ∧
  (∀ (s : State) (p n : Nat), s.flips = [] → s.scan p n = s) ∧
  (∀ (s : State) (p i j : Nat), p % 8 = 0 → p < 2 ^ 40 → i < 64 → j < 64 → i ≠ j →
    let one := fun (i : Nat) => (p + i / 8, (BitVec.ofNat 8 (2 ^ (i % 8)) : Byte))
    (s.flips = [one i] → (s.scan p 8).mem = s.mem ∧ (s.scan p 8).poison = s.poison ∧ (s.scan p 8).flips = [] ∧
      ((s.scan p 8).core (p / 2 ^ 24)).errs = (s.core (p / 2 ^ 24)).errs + 1) ∧
    (s.flips = [(p + i / 8, (one i).2 ^^^ (one j).2)] → i / 8 = j / 8 → p / 64 ∈ (s.scan p 8).poison ∧ (s.scan p 8).flips = [] ∧
      ((s.scan p 8).core (p / 2 ^ 24)).errs = (s.core (p / 2 ^ 24)).errs ∧
      (s.scan p 8).mem.read (p + i / 8) = s.mem.read (p + i / 8) ^^^ ((one i).2 ^^^ (one j).2)) ∧
    (s.flips = [one i, one j] → i / 8 ≠ j / 8 → p / 64 ∈ (s.scan p 8).poison ∧ (s.scan p 8).flips = [] ∧
      ((s.scan p 8).core (p / 2 ^ 24)).errs = (s.core (p / 2 ^ 24)).errs ∧
      (s.scan p 8).mem.read (p + i / 8) = s.mem.read (p + i / 8) ^^^ (one i).2)) ∧
  (∀ (s : State) (g i j : Nat) (a b : Byte), 2 ^ 40 ≤ 64 * g → i < 64 → j < 64 → i ≠ j → a ≠ 0 → b ≠ 0 →
    isTolerant s (64 * g) = false →
    (s.flips = [(64 * g + i, a)] → (s.scan (64 * g) 64).mem = s.mem ∧ (s.scan (64 * g) 64).poison = s.poison) ∧
    (s.flips = [(64 * g + i, a), (64 * g + j, b)] → g ∈ (s.scan (64 * g) 64).poison ∧ (s.scan (64 * g) 64).flips = [] ∧
      (s.scan (64 * g) 64).mem.read (64 * g + i) = s.mem.read (64 * g + i) ^^^ a))

/-- R263 to R269, R360, R361, R363: every A-slot access that passes its checks, of one piece or of eight, meets the watchpoints of its own
kind whose range holds a byte that it names: their HIT bits are set. If one of them has TRAP set it faults with cause 0x40 and takes no
effect; else it goes on as it does where no watchpoint matches.
The model's readings and choices it rests on: log 24, 121. -/
def Obligations.WatchpointsMeetAccesses : Prop :=
  ∀ (s : State) (hits : List Nat),
    let bits := hits.foldl (fun m n => m + 2 ^ n) 0
    let seen := s.setHits s.cur bits
    let blind := s.modCtx s.cur fun c => { c with watchOff := true }
    let caught := fun (i : Instr) (a : Word) => exec i s = .next (seen.takeTrap s.cur { code := 0x40, addr := a, mask := slotMaskBit .A, async := false })
    let traps := ∃ w ∈ hits, (s.me.wctl.get 0 w).getLsbD 2 = true
    hits ≠ [] →
    (∀ i f, accessForm s i = some (.A, f) → admitted s f → (∀ i ∈ f.reads, ¬tainted s f.ea i) → unlocked s f →
      hitList s.me (readsOwn i) (writesOwn i) [(f.ea, f.bytes)] hits →
      (traps → caught i f.ea) ∧
      (¬traps → (f.level ≠ 0 ∨ writesOwn i = true → ∃ due op, exec i s = .next (underWay seen due f.ea op) ∧
          exec i blind = .next (underWay blind due f.ea op)) ∧
        (f.level = 0 → writesOwn i = false → ∃ ps, exec i s = .next ((seen.scan ((stallAt s f.ea).phys + addrOffset f.ea) 512).sched ps) ∧
          exec i blind = .next ((blind.scan ((stallAt s f.ea).phys + addrOffset f.ea) 512).sched ps)))) ∧
    (∀ (v : VCode) (b t : XNum) (o : BitVec 20),
      let at_ := fun (j : Nat) => ea s.me b o + s.me.xr t * BitVec.ofNat 64 j
      let chunks := (List.range 8).map fun j => (at_ j, 64)
      (∀ j, j < 8 → admitted s ⟨at_ j, 64, 1, true, 1, []⟩) →
      ((∀ j, j < 8 → ∀ i, i < 64 → ¬tainted s (at_ j) i) → hitList s.me true false chunks hits →
        (traps → caught (.ldvs v b o t) (ea s.me b o)) ∧
        (¬traps → ∃ due op, exec (.ldvs v b o t) s = .next (underWay seen due (ea s.me b o) op ((List.range 8).map at_)) ∧
          exec (.ldvs v b o t) blind = .next (underWay blind due (ea s.me b o) op ((List.range 8).map at_)))) ∧
      (hitList s.me false true chunks hits →
        (traps → caught (.stvs v b o t) (ea s.me b o)) ∧
        (¬traps → ∃ t' u : State, exec (.stvs v b o t) s = .next t' ∧ exec (.stvs v b o t) blind = .next u ∧
          t'.accesses = u.accesses ∧ t'.me = seen.me ∧ t'.mem = s.mem)))

/-- R120, R261, R329, R331: the staging registers and the scale registers: what `stg`, `stgi`, `qset` and `qclr` write, and when; byte i of a
scale register set is byte i mod 8 of xa, or zero; the write lands on the core's register. -/
def Obligations.StagingAndScaleRegisters : Prop :=
  (∀ (sl : SSlot) (n : BitVec 6) (a : XNum) (i : BitVec 19) (s : State),
    ∃ tr ti : State, exec (.stg sl n a) s = .next tr ∧ exec (.stgi sl n i) s = .next ti ∧
      ∀ p ∈ [(tr, s.me.xr a), (ti, BitVec.ofInt 64 i.toInt)],
        (n.toNat < 8 → quietFor s (.ds n.toNat) → (laterBundle p.1 1).me.ds.get 0 n.toNat = p.2) ∧
        (8 ≤ n.toNat → n.toNat < 16 → quietFor s (.gs (n.toNat - 8)) → (laterBundle p.1 1).me.gs.get 0 (n.toNat - 8) = p.2) ∧
        (16 ≤ n.toNat → n.toNat < 24 → p.1.me = s.me ∧ (p.1.core s.myCore).mp = (s.core s.myCore).mp ∧
          (Core.landStg (p.1.core s.myCore)).mp.get 0 (n.toNat - 16) = p.2) ∧
        (24 ≤ n.toNat → n.toNat < 28 → p.1.me = s.me ∧ (p.1.core s.myCore).rt = (s.core s.myCore).rt ∧
          (Core.landStg (p.1.core s.myCore)).rt.get 0 (n.toNat - 24) = p.2) ∧
        (28 ≤ n.toNat → p.1 = trapped sl.slot 0x02 0 s)) ∧
  (∀ (n : BitVec 3) (a : XNum) (s : State),
    (∃ v, exec (.qset n a) s = .next (s.sched [mkPend s.me .Q 1 (.sc n.toNat) (ones 4096) v]) ∧
      (∀ i, i < 512 → v / 2 ^ (8 * i) % 256 = (s.me.xr a).toNat / 2 ^ (8 * (i % 8)) % 256) ∧
      (∀ p, p.tgt = .sc n.toNat → p.val = v →
        (State.landOne s.cur s p).core s.myCore = { s.core s.myCore with sc := (s.core s.myCore).sc.set 0 n.toNat (BitVec.ofNat 4096 v) })) ∧
    exec (.qclr n) s = .next (s.sched [mkPend s.me .Q 1 (.sc n.toNat) (ones 4096) 0]))
/-! ### The vector slots: integers and permutes -/

namespace Sys2Proof.Machine

/-- What a vector operation leaves in one of its registers: n lanes of width w, which lanes are written, and with what. -/
structure LaneView where
  w   : Nat
  n   : Nat
  on  : Ctx → Nat → Bool
  val : Ctx → Nat → Nat

/-- The port of a vector slot, read. -/
def vectorPort : VSlot → Ctx → VReg
  | .v0, c => c.pV0
  | .v1, c => c.pV1
  | .v2, c => c.pV2

/-- No write to FLAGS or to a control register is under way in the issuing context. -/
def quietFlags (s : State) : Prop := ∀ p ∈ s.me.pend, p.tgt ≠ .flags ∧ ∀ n, p.tgt ≠ .csr n

/-- The state that follows a vector operation: nothing is changed but that writes are scheduled, and lat bundles later, not
before, register d + r holds the r-th view, its other lanes as they were; the slot's port holds the first view, zero in the other
lanes; and the flags are ORed into FLAGS. A d of 774 discards all but the flags, and a port as d all but the port (R123 to R125,
R133, R287, R301). -/
def VectorWrites (s t : State) (sl : VSlot) (d : VCode) (lat : Nat) (regs : List LaneView) (fl : Nat) : Prop :=
  (∃ ps, t = s.sched ps ∧ ∀ p ∈ ps, (d.toNat < 768 ∧ ∃ r, r < regs.length ∧ p.tgt = .v (d.toNat + r)) ∨
    (d.toNat ≠ 774 ∧ p.tgt = vPort sl) ∨ (fl ≠ 0 ∧ p.tgt = .flags)) ∧
  (∀ r x, regs[r]? = some x → d.toNat < 768 → quietFor s (.v (d.toNat + r)) →
    (∀ m, m < lat → (laterBundle t m).me.vr (d.toNat + r) = s.me.vr (d.toNat + r)) ∧
    ∀ j, j < x.n → lane ((laterBundle t lat).me.vr (d.toNat + r)) x.w j =
      if x.on s.me j = true then x.val s.me j else lane (s.me.vr (d.toNat + r)) x.w j) ∧
  (∀ x, regs[0]? = some x → d.toNat ≠ 774 → quietFor s (vPort sl) →
    (∀ m, m < lat → vectorPort sl (laterBundle t m).me = vectorPort sl s.me) ∧
    ∀ j, j < x.n → lane (vectorPort sl (laterBundle t lat).me) x.w j = if x.on s.me j = true then x.val s.me j else 0) ∧
  (quietFlags s → (∀ m, m < lat → (laterBundle t m).me.flags = s.me.flags) ∧
    ∀ b, (laterBundle t lat).me.flags.testBit b = (s.me.flags.testBit b || (decide (b < 6) && fl.testBit b)))

/-- A vector operation: its word in the frame of R237, its slot, and that it completes whatever the state, so leaving its
registers and raising its flags. -/
def VectorResult (i : Instr) (sl : VSlot) (d : VCode) (op fmt a b k m lat : Nat) (regs : List LaneView) (fl : Ctx → Nat) :
    Prop :=
  encode i = op * 2 ^ 40 + fmt * 2 ^ 36 + d.toNat * 2 ^ 26 + a * 2 ^ 16 + b * 2 ^ 6 + k * 4 + m ∧ i.slot = some sl.slot ∧
  ∀ s : State, ∃ t : State, exec i s = .next t ∧ VectorWrites s t sl d lat regs (fl s.me)

/-- A lane operation under predicate k on one register of format f (R287). -/
def lanesUnder (f : Fmt) (k : KNum) (v : Ctx → Nat → Nat) : List LaneView :=
  [⟨f.width, f.lanes, fun c j => (c.kr k).getLsbD j, v⟩]

/-- val(x) of R287: lane j of a source, by the signedness of its format. -/
def srcVal (f : Fmt) (a : VCode) (c : Ctx) (j : Nat) : Int :=
  let x := BitVec.ofNat f.width (lane (c.vsrc f.width a) f.width j)
  if f.signed = true then x.toInt else x.toNat

/-- The code of lane j of a source. -/
def srcCode (f : Fmt) (a : VCode) (c : Ctx) (j : Nat) : Nat := lane (c.vsrc f.width a) f.width j

/-- The low w bits of an integer. -/
def lowBits (w : Nat) (z : Int) : Nat := (z % 2 ^ w).toNat

/-- The nearest value of a format. -/
def clampTo (f : Fmt) (z : Int) : Int :=
  if f.signed = true then max (-2 ^ (f.width - 1)) (min (2 ^ (f.width - 1) - 1) z) else max 0 (min (2 ^ f.width - 1) z)

end Sys2Proof.Machine

/-- R287, R288, R289, R290: the lane operations of V0 and V1 on one register, two bundles later: exact integers reduced to the
width, saturated by the signedness of the format, bitwise on codes, and shifts by the count in each lane. -/
def Obligations.VectorLaneResults : Prop :=
  ∀ (sl : VSlot) (f : Fmt) (d a b : VCode) (k : KNum), f.isInt = true →
    let A := srcVal f a
    let B := srcVal f b
    let D := srcVal f d
    let go := fun (op : Nat) (v : Ctx → Nat → Int) (i : Instr) =>
      VectorResult i sl d op f.code a.toNat b.toNat k.toNat 0 2 (lanesUnder f k fun c j => lowBits f.width (v c j)) fun _ => 0
    let un := fun (op : Nat) (v : Ctx → Nat → Int) (i : Instr) =>
      VectorResult i sl d op f.code a.toNat 0 k.toNat 0 2 (lanesUnder f k fun c j => lowBits f.width (v c j)) fun _ => 0
    go 0x01 (fun c j => A c j + B c j) (.vadd sl f d a b k) ∧
    go 0x02 (fun c j => A c j - B c j) (.vsub sl f d a b k) ∧
    go 0x03 (fun c j => clampTo f (A c j + B c j)) (.vaddsat sl f d a b k) ∧
    go 0x04 (fun c j => clampTo f (A c j - B c j)) (.vsubsat sl f d a b k) ∧
    go 0x05 (fun c j => A c j * B c j) (.vmul sl f d a b k) ∧
    go 0x07 (fun c j => D c j + A c j * B c j) (.vmac sl f d a b k) ∧
    un 0x09 (fun c j => (A c j).natAbs) (.vabs sl f d a k) ∧
    un 0x0A (fun c j => -A c j) (.vneg sl f d a k) ∧
    go 0x0B (fun c j => min (A c j) (B c j)) (.vmin sl f d a b k) ∧
    go 0x0C (fun c j => max (A c j) (B c j)) (.vmax sl f d a b k) ∧
    go 0x11 (fun c j => A c j * 2 ^ srcCode f b c j) (.vshl sl f d a b k) ∧
    go 0x12 (fun c j => srcCode f a c j / 2 ^ srcCode f b c j) (.vshr sl f d a b k) ∧
    (f.signed = true → go 0x13 (fun c j => A c j / 2 ^ srcCode f b c j) (.vsra sl f d a b k))

/-- First: R118, R288, R292: `vcmp` writes its predicate two bundles later, bit i being 1 exactly where lane i exists, is active and
compares true; no vector register and no port changes, and a write to k0 is discarded.
Second: R288, R289, R293: the operations on codes, for every format: bit j of each lane, and `vsel`, which writes every lane. -/
def Obligations.VectorComparesBitsAndSelect : Prop :=
  (∀ (sl : VSlot) (f : Fmt) (kd : KNum) (a b : VCode) (k : KNum), f.isInt = true →
     ∀ g ∈ [(VCmpOp.eq, 0, fun x y : Int => decide (x = y)), (.ne, 1, fun x y => decide (x ≠ y)),
         (.lt, 2, fun x y => decide (x < y)), (.le, 3, fun x y => decide (x ≤ y))],
       let i := Instr.vcmp sl f g.1 kd a b k
       encode i = 0x14 * 2 ^ 40 + f.code * 2 ^ 36 + kd.toNat * 2 ^ 26 + a.toNat * 2 ^ 16 + b.toNat * 2 ^ 6 + k.toNat * 4 + g.2.1 ∧
       ∀ s : State, ∃ t : State, exec i s = .next t ∧ (∃ p, t = s.sched [p] ∧ p.tgt = .k kd.toNat) ∧
         (quietFor s (.k kd.toNat) → (∀ m, m < 2 → (laterBundle t m).me.kr kd = s.me.kr kd) ∧
           (kd = 0 → (laterBundle t 2).me.kr kd = s.me.kr kd) ∧
           (kd ≠ 0 → ∀ j, ((laterBundle t 2).me.kr kd).getLsbD j =
             (decide (j < f.lanes) && (s.me.kr k).getLsbD j && g.2.2 (srcVal f a s.me j) (srcVal f b s.me j))))) ∧
  (∀ (sl : VSlot) (f : Fmt) (d a b : VCode) (k : KNum),
     let go := fun (op : Nat) (v : Bool → Bool → Bool) (i : Instr) => ∃ r : Nat → Nat → Nat,
       (∀ x y j, x < 2 ^ f.width → y < 2 ^ f.width → r x y < 2 ^ f.width ∧
         (j < f.width → (r x y).testBit j = v (x.testBit j) (y.testBit j))) ∧
       VectorResult i sl d op f.code a.toNat b.toNat k.toNat 0 2
         (lanesUnder f k fun c j => r (srcCode f a c j) (srcCode f b c j)) fun _ => 0
     go 0x0D (fun x y => x && y) (.vand sl f d a b k) ∧ go 0x0E (fun x y => x || y) (.vor sl f d a b k) ∧
     go 0x0F (fun x y => x != y) (.vxor sl f d a b k) ∧
     VectorResult (.vnot sl f d a k) sl d 0x10 f.code a.toNat 0 k.toNat 0 2
       (lanesUnder f k fun c j => 2 ^ f.width - 1 - srcCode f a c j) (fun _ => 0) ∧
     VectorResult (.vsel sl f d a b k) sl d 0x15 f.code a.toNat b.toNat k.toNat 0 2
       [⟨f.width, f.lanes, fun _ _ => true, fun c j => if (c.kr k).getLsbD j = true then srcCode f a c j else srcCode f b c j⟩]
       (fun _ => 0))

/-- R288, R291: `vmulw` and `vmacw`: source lane i goes, at r times the width, to lane i div r of register d + i mod r; the
addend of `vmacw` is the destination lane as it stood at issue, read with the signedness of the format. -/
def Obligations.WideningMultiplies : Prop :=
  ∀ (sl : VSlot) (f : Fmt) (d a b : VCode) (k : KNum), f.isInt = true → d.toNat < 768 →
    ∀ g ∈ [(Widen.pair, 2), (.quad, 4)], f.width * g.2 ≤ 32 →
      let w := f.width * g.2
      let wide := fun (c : Ctx) (r j : Nat) =>
        let x := BitVec.ofNat w (lane (c.vr (d.toNat + r)) w j)
        if f.signed = true then x.toInt else (x.toNat : Int)
      let view := fun (v : Ctx → Nat → Nat → Int) => (List.range g.2).map fun r =>
        (⟨w, f.lanes / g.2, fun c j => (c.kr k).getLsbD (j * g.2 + r), fun c j => lowBits w (v c r j)⟩ : LaneView)
      let p := fun (c : Ctx) (r j : Nat) => srcVal f a c (j * g.2 + r) * srcVal f b c (j * g.2 + r)
      VectorResult (.vmulw sl f g.1 d a b k) sl d 0x06 f.code a.toNat b.toNat k.toNat (g.2 / 4) 2 (view p) (fun _ => 0) ∧
      VectorResult (.vmacw sl f g.1 d a b k) sl d 0x08 f.code a.toNat b.toNat k.toNat (g.2 / 4) 2
        (view fun c r j => wide c r j + p c r j) (fun _ => 0)

/-- R114, R288, R294: the reductions write the whole register: their result in lane 0 and zero above it. The sum is taken to 32
bits; the greatest and least are those of the active lanes, and of none the least or greatest value of the format. -/
def Obligations.VectorReductions : Prop :=
  ∀ (sl : VSlot) (f : Fmt) (d a : VCode) (k : KNum), f.isInt = true →
    let act := fun (c : Ctx) (j : Nat) => j < f.lanes ∧ (c.kr k).getLsbD j = true
    let view := fun (w : Nat) (v : Ctx → Nat) => [(⟨w, 4096 / w, fun _ _ => true, fun c j => if j = 0 then v c else 0⟩ : LaneView)]
    (VectorResult (.vredsum sl f d a k) sl d 0x16 f.code a.toNat 0 k.toNat 0 2
      (view 32 fun c => lowBits 32 ((List.range f.lanes).map fun j => if (c.kr k).getLsbD j = true then srcVal f a c j else 0).sum)
      (fun _ => 0)) ∧
    ∃ hi lo : Ctx → Int,
      VectorResult (.vredmax sl f d a k) sl d 0x17 f.code a.toNat 0 k.toNat 0 2
        (view f.width fun c => lowBits f.width (hi c)) (fun _ => 0) ∧
      VectorResult (.vredmin sl f d a k) sl d 0x18 f.code a.toNat 0 k.toNat 0 2
        (view f.width fun c => lowBits f.width (lo c)) (fun _ => 0) ∧
      ∀ c, (∀ j, act c j → lo c ≤ srcVal f a c j ∧ srcVal f a c j ≤ hi c) ∧
        ((∃ j, act c j) → (∃ j, act c j ∧ hi c = srcVal f a c j) ∧ ∃ j, act c j ∧ lo c = srcVal f a c j) ∧
        ((¬∃ j, act c j) → hi c = (if f.signed = true then -2 ^ (f.width - 1) else 0) ∧
          lo c = if f.signed = true then 2 ^ (f.width - 1) - 1 else 2 ^ f.width - 1)

/-- R288, R295, R296: the permutes of V2, three bundles later: `vbcst`, `vrot`, `vperm` within groups of min(L, 2^w) lanes, and the
interleaving of `vzip` and `vunzip` over a pair. -/
def Obligations.VectorPermutes : Prop :=
  ∀ (sl : VSlot) (f : Fmt) (d a b : VCode) (j : BitVec 10) (k : KNum), j.toNat < f.lanes →
    let A := srcCode f a
    let B := srcCode f b
    let pair := fun (v : Ctx → Nat → Nat) => [0, 1].map fun r =>
      (⟨f.width, f.lanes, fun c j => (c.kr k).getLsbD j, fun c j => v c (r * f.lanes + j)⟩ : LaneView)
    VectorResult (.vbcst sl f d a j k) sl d 0x20 f.code a.toNat j.toNat k.toNat 0 3 (lanesUnder f k fun c _ => A c j.toNat)
      (fun _ => 0) ∧
    VectorResult (.vperm sl f d a b k) sl d 0x21 f.code a.toNat b.toNat k.toNat 0 3
      (lanesUnder f k fun c i => let g := min f.lanes (2 ^ f.width); A c (i / g * g + B c i % g)) (fun _ => 0) ∧
    VectorResult (.vrot sl f d a j k) sl d 0x22 f.code a.toNat j.toNat k.toNat 0 3
      (lanesUnder f k fun c i => A c (if i + j.toNat < f.lanes then i + j.toNat else i + j.toNat - f.lanes)) (fun _ => 0) ∧
    VectorResult (.vzip sl f d a b k) sl d 0x23 f.code a.toNat b.toNat k.toNat 0 3
      (pair fun c m => if m % 2 = 0 then A c (m / 2) else B c (m / 2)) (fun _ => 0) ∧
    VectorResult (.vunzip sl f d a k) sl d 0x24 f.code a.toNat 0 k.toNat 0 3
      ([0, 1].map fun r => ⟨f.width, f.lanes, fun c j => (c.kr k).getLsbD j, fun c i =>
        lane (c.vr (a.toNat + (2 * i + r) / f.lanes)) f.width ((2 * i + r) % f.lanes)⟩) (fun _ => 0)

/-- R288, R297: `vpack` narrows and `vunpack` widens by two, in the layout of the widening multiplies. -/
def Obligations.PacksAndUnpacks : Prop :=
  ∀ (sl : VSlot) (f : Fmt) (d a : VCode) (k : KNum), f.isInt = true → f.width ≤ 16 →
    let w := 2 * f.width
    let S := fun (c : Ctx) (i : Nat) =>
      let x := BitVec.ofNat w (lane (c.vr (a.toNat + i % 2)) w (i / 2))
      if f.signed = true then x.toInt else (x.toNat : Int)
    let pk := fun (m : PackMod) (code : Nat) (v : Int → Int) =>
      VectorResult (.vpack sl f m d a k) sl d 0x25 f.code a.toNat 0 k.toNat code 3
        (lanesUnder f k fun c i => lowBits f.width (v (S c i))) (fun _ => 0)
    pk .wrap 0 id ∧
    pk .sats 1 (fun z => max (-2 ^ (f.width - 1)) (min (2 ^ (f.width - 1) - 1) z)) ∧
    pk .satn 2 (fun z => max 0 (min (2 ^ f.width - 1) z)) ∧
    VectorResult (.vunpack sl f d a k) sl d 0x26 f.code a.toNat 0 k.toNat 0 3
      ([0, 1].map fun r => ⟨w, f.lanes / 2, fun c j => (c.kr k).getLsbD (2 * j + r), fun c j =>
        lowBits w (srcVal f a c (2 * j + r))⟩) (fun _ => 0)

/-- R108, R109, R111, R298, R299: `vdpack` writes one plane of the digits whose sum with weights 1, 9 and 81 is the element, each
digit from -4 to 4 in sign and magnitude, zero as 0; `vtpack` writes five trits to the byte, 103 bytes to the row, the positions
beyond the row as trit 0 and the bytes beyond the rows as zero. -/
def Obligations.WeightPacking : Prop :=
  ∀ (sl : VSlot) (f : Fmt) (d a : VCode), f = .i8 ∨ f = .n8 →
    let elem := fun (c : Ctx) (r j : Nat) =>
      let x := BitVec.ofNat 8 (lane (c.vr (a.toNat + r)) 8 j)
      if f = .i8 then x.toInt else (x.toNat : Int)
    (∃ dig : Int → Nat → Int,
      (∀ z, -128 ≤ z → z ≤ 255 → z = dig z 0 + 9 * dig z 1 + 81 * dig z 2 ∧ ∀ p, p ≤ 2 → -4 ≤ dig z p ∧ dig z p ≤ 4) ∧
      ∀ p : BitVec 10, p.toNat ≤ 2 →
        VectorResult (.vdpack sl f d a p) sl d 0x27 f.code a.toNat p.toNat 0 0 3
          [⟨4, 1024, fun _ _ => true, fun c i =>
            let g := dig (elem c (i / 512) (i % 512)) p.toNat
            if g < 0 then 8 + g.natAbs else g.natAbs⟩] (fun _ => 0)) ∧
    VectorResult (.vtpack sl f d a) sl d 0x28 f.code a.toNat 0 0 0 3
      [⟨8, 512, fun _ _ => true, fun c i =>
        let trit := fun (q : Nat) => if 512 ≤ q then 1 else
          if f = .i8 then (elem c (i / 103) q).sign + 1 else min (elem c (i / 103) q) 2
        if 412 ≤ i then 0 else
          (trit (5 * (i % 103)) + 3 * trit (5 * (i % 103) + 1) + 9 * trit (5 * (i % 103) + 2) + 27 * trit (5 * (i % 103) + 3) +
            81 * trit (5 * (i % 103) + 4)).toNat⟩] (fun _ => 0)

/-! ### The vector slots: floats, conversions, special functions, witnesses -/

namespace Sys2Proof.Machine

/-- The rounding mode that an operation uses: its override, or ROUND.MODE as landed (R97, R300). -/
def roundB (r : RndB) (c : Ctx) : RMode := match r with
  | .rne => .rne
  | .rtz => .rtz
  | .mode => [RMode.rne, .rtz, .rup, .rdn].getD (c.round % 4) .rne
def roundU (r : RndU) (c : Ctx) : RMode := match r with
  | .rne => .rne
  | .rtz => .rtz
  | .rup => .rup
  | .rdn => .rdn
  | .mode => [RMode.rne, .rtz, .rup, .rdn].getD (c.round % 4) .rne

/-- A code that is a number. -/
def finiteCode (f : Fmt) (c : Nat) : Prop := isNaN f c = false ∧ isInf f c = false

/-- R96, R303: with a NaN among the operands, in their order, the result is the first one with its quiet bit set; NV is raised if
any of them is signalling, or if the operation is invalid besides. -/
def NaNRule (f : Fmt) (cs : List Nat) (invalid : Bool) (r : FRes) : Prop :=
  ∀ p c q, cs = p ++ c :: q → (∀ x ∈ p, isNaN f x = false) → isNaN f c = true →
    r = (c ||| 2 ^ (fracBits f - 1), if invalid || cs.any (isSNaN f) then 16 else 0)

/-- R96, R100: an exact sum or product v / 2^n is rounded once; an exact zero has the given sign and no flag. -/
def RoundsOnce (f : Fmt) (mode : RMode) (v : Int) (n : Nat) (zeroNeg : Bool) (r : FRes) : Prop :=
  if v = 0 then r = (signBit f zeroNeg, 0) else r = roundRat f (decide (v < 0)) v.natAbs (2 ^ n) mode

/-- R104: v / 2^n rounded to an integer of format t; NX when inexact, or, out of range, the nearest value and NV alone. -/
def RoundsToInteger (t : Fmt) (mode : RMode) (v : Int) (n : Nat) (r : FRes) : Prop :=
  ∃ z : Int,
    (match mode with
      | .rtz => z = v.tdiv (2 ^ n)
      | .rdn => z * 2 ^ n ≤ v ∧ v < (z + 1) * 2 ^ n
      | .rup => (z - 1) * 2 ^ n < v ∧ v ≤ z * 2 ^ n
      | .rne => 2 * (z * 2 ^ n - v).natAbs ≤ 2 ^ n ∧ (2 * (z * 2 ^ n - v).natAbs = 2 ^ n → z % 2 = 0)) ∧
    r = if clampTo t z = z then (lowBits t.width z, if z * 2 ^ n = v then 0 else 1) else (lowBits t.width (clampTo t z), 16)

/-- R114: the tree over 2^n leaves, from the top: the value of node i at level n, absent when no leaf is present, and the flags of
every rounding below it. -/
def treeNode (op : Nat → Nat → FRes) (leaf : Nat → Option Nat) : Nat → Nat → Option Nat × Nat
  | 0, i => (leaf i, 0)
  | n + 1, i =>
    let l := treeNode op leaf n (2 * i)
    let r := treeNode op leaf n (2 * i + 1)
    match l.1, r.1 with
    | some x, some y => (some (op x y).1, l.2 ||| r.2 ||| (op x y).2)
    | some x, none => (some x, l.2 ||| r.2)
    | none, o => (o, l.2 ||| r.2)

end Sys2Proof.Machine

/-- R94, R95, R100: rounding. For a positive quotient, of every format, sign and mode: the flags tell overflow exactly (beyond the
largest finite value by a half step or more for RNE, ties to even; by a whole step toward zero; by anything away from zero), and
inexactness; an overflow gives the infinity or the largest finite code by mode and format; else no finite code of that sign
is nearer (RNE, the even one of two equally near), or lies between the value and the result on the side of the mode. -/
def Obligations.RoundingIsExact : Prop :=
  ∀ (f : Fmt) (s : Bool) (num den : Nat) (mode : RMode), f.isFloat = true → 0 < num → 0 < den →
    let r := roundRat f s num den mode
    let val := fun c => (fval f c).natAbs * den
    let x := num * 2 ^ 149
    let top := val (maxCode f)
    let next := val (maxCode f + 1)
    let away := mode = (if s = true then RMode.rdn else .rup)
    let over_ := (mode = .rne ∧ (top + next < 2 * x ∨ (top + next = 2 * x ∧ hasInf f = true))) ∨ (away ∧ top < x) ∨
      (mode ≠ .rne ∧ ¬away ∧ next ≤ x)
    (over_ → r = (if hasInf f = true ∧ (mode = .rne ∨ away) then infCode f s else maxFin f s, 5)) ∧
    (¬over_ → r.1 < 2 ^ f.width ∧ finiteCode f r.1 ∧ fsign f r.1 = s ∧ r.2 < 4 ∧ (r.2 % 2 = 1 ↔ val r.1 ≠ x) ∧
      (2 ≤ r.2 → val r.1 ≠ x ∧ x < val (2 ^ fracBits f)) ∧ (val r.1 ≠ x → val r.1 < val (2 ^ fracBits f) → 2 ≤ r.2) ∧
      ∀ c, c < 2 ^ f.width → finiteCode f c → fsign f c = s →
        (mode = .rne → ((val r.1 : Int) - x).natAbs ≤ ((val c : Int) - x).natAbs ∧
          (c ≠ r.1 → ((val r.1 : Int) - x).natAbs = ((val c : Int) - x).natAbs → r.1 % 2 = 0)) ∧
        (away → x ≤ val r.1 ∧ (x ≤ val c → val r.1 ≤ val c)) ∧
        (mode ≠ .rne → ¬away → val r.1 ≤ x ∧ (val c ≤ x → val c ≤ val r.1)))

/-- R96, R287, R301, R302, R303: float sums, products and fused forms: each active lane is the exact result rounded once, with the
rules for NaNs, infinities and exact zeros; the flags of the active lanes land with the result, four bundles later.
The model's readings and choices it rests on: log 19. -/
def Obligations.FloatArithmetic : Prop :=
  ∀ (sl : VSlot) (f : Fmt) (r : RndB) (d a b : VCode) (k : KNum), f = .f32 ∨ f = .f16 ∨ f = .bf16 →
    ∃ (add sub mul : RMode → Nat → Nat → FRes) (fma fnma : RMode → Nat → Nat → Nat → FRes),
      (
        let go := fun (op : Nat) (v : Ctx → Nat → FRes) (i : Instr) =>
          VectorResult i sl d op f.code a.toNat b.toNat k.toNat ([RndB.mode, .rne, .rtz].findIdx (· == r)) 4
            (lanesUnder f k fun c j => (v c j).1) fun c => orFlags f.lanes (c.kr k) fun j => (v c j).2
        let A := srcCode f a
        let B := srcCode f b
        let D := srcCode f d
        go 0x40 (fun c j => add (roundB r c) (A c j) (B c j)) (.vfadd sl f r d a b k) ∧
        go 0x41 (fun c j => sub (roundB r c) (A c j) (B c j)) (.vfsub sl f r d a b k) ∧
        go 0x42 (fun c j => mul (roundB r c) (A c j) (B c j)) (.vfmul sl f r d a b k) ∧
        go 0x43 (fun c j => fma (roundB r c) (A c j) (B c j) (D c j)) (.vfma sl f r d a b k) ∧
        go 0x44 (fun c j => fnma (roundB r c) (A c j) (B c j) (D c j)) (.vfnma sl f r d a b k)) ∧
      ∀ (m : RMode) (x y z : Nat), x < 2 ^ f.width → y < 2 ^ f.width → z < 2 ^ f.width →
        let sx := fsign f x
        let sy := fsign f y
        let num := isNaN f x = false ∧ isNaN f y = false
        let bad := (isInf f x && isZero f y) || (isZero f x && isInf f y)
        NaNRule f [x, y] false (add m x y) ∧ NaNRule f [x, y] false (sub m x y) ∧ NaNRule f [x, y] false (mul m x y) ∧
        (num → isInf f x = true → isInf f y = true → add m x y = if sx = sy then (x, 0) else (defNaN f, 16)) ∧
        (num → isInf f x = true → isInf f y = false → add m x y = (x, 0)) ∧
        (num → isInf f x = false → isInf f y = true → add m x y = (y, 0)) ∧
        (finiteCode f x → finiteCode f y →
          RoundsOnce f m (fval f x + fval f y) 149 (if sx = sy then sx else decide (m = .rdn)) (add m x y)) ∧
        (num → sub m x y = add m x (Nat.xor y (2 ^ (f.width - 1)))) ∧
        (num → bad = true → mul m x y = (defNaN f, 16)) ∧
        (num → bad = false → isInf f x = true ∨ isInf f y = true → mul m x y = (infCode f (sx != sy), 0)) ∧
        (finiteCode f x → finiteCode f y → RoundsOnce f m (fval f x * fval f y) 298 (sx != sy) (mul m x y)) ∧
        ∀ g ∈ [(fma, false), (fnma, true)],
          let sp := (sx != sy) != g.2
          let p := if g.2 = true then -(fval f x * fval f y) else fval f x * fval f y
          NaNRule f [x, y, z] bad (g.1 m x y z) ∧
          (num → isNaN f z = false →
            (bad = true → g.1 m x y z = (defNaN f, 16)) ∧
            (bad = false → isInf f x = true ∨ isInf f y = true →
              g.1 m x y z = if isInf f z = true ∧ fsign f z ≠ sp then (defNaN f, 16) else (infCode f sp, 0)) ∧
            (finiteCode f x → finiteCode f y → isInf f z = true → g.1 m x y z = (z, 0)) ∧
            (finiteCode f x → finiteCode f y → finiteCode f z →
              RoundsOnce f m (fval f z * 2 ^ 149 + p) 298 (if fsign f z = sp then sp else decide (m = .rdn)) (g.1 m x y z)))

/-- R304, R305, R306, R307: `vfmin` and `vfmax` copy an operand, ranking -0 below +0; `vfabs` and `vfneg` act on the sign bit of every
code, NaNs included; `vfcmp` writes a predicate and NV; `vfredsum` sums the active lanes over the tree. -/
def Obligations.FloatSelectsComparesAndSums : Prop :=
  ∀ (sl : VSlot) (f : Fmt) (d a b : VCode) (kd k : KNum) (r : RndU), f.isFloat = true →
    let A := srcCode f a
    let B := srcCode f b
    VectorResult (.vfabs sl f d a k) sl d 0x47 f.code a.toNat 0 k.toNat 0 4 (lanesUnder f k fun c j => A c j % 2 ^ (f.width - 1))
      (fun _ => 0) ∧
    VectorResult (.vfneg sl f d a k) sl d 0x48 f.code a.toNat 0 k.toNat 0 4
      (lanesUnder f k fun c j => (A c j + 2 ^ (f.width - 1)) % 2 ^ f.width) (fun _ => 0) ∧
    (f.arith = true →
      (∀ g ∈ [(false, 0x45, Instr.vfmin sl f d a b k), (true, 0x46, .vfmax sl f d a b k)],
        ∃ v : Nat → Nat → FRes,
          VectorResult g.2.2 sl d g.2.1 f.code a.toNat b.toNat k.toNat 0 4 (lanesUnder f k fun c j => (v (A c j) (B c j)).1)
            (fun c => orFlags f.lanes (c.kr k) fun j => (v (A c j) (B c j)).2) ∧
          ∀ x y, x < 2 ^ f.width → y < 2 ^ f.width → NaNRule f [x, y] false (v x y) ∧
            (isNaN f x = false → isNaN f y = false →
              let wins := if g.1 = true then fval f x < fval f y ∨ (fval f x = fval f y ∧ fsign f x = true ∧ fsign f y = false)
                else fval f y < fval f x ∨ (fval f x = fval f y ∧ fsign f y = true ∧ fsign f x = false)
              (wins → v x y = (y, 0)) ∧ (¬wins → v x y = (x, 0)))) ∧
      (∀ g ∈ [(VFCmpOp.eq, 0, false), (.lt, 1, true), (.le, 2, true), (.un, 3, false)],
        let i := Instr.vfcmp sl f g.1 kd a b k
        let nan := fun c j => isNaN f (A c j) || isNaN f (B c j)
        let true_ := fun (c : Ctx) j =>
          let x := fval f (A c j)
          let y := fval f (B c j)
          match g.1 with
          | .eq => !nan c j && decide (x = y)
          | .lt => !nan c j && decide (x < y)
          | .le => !nan c j && decide (x ≤ y)
          | .un => nan c j
        let nv := fun (c : Ctx) => ∃ j, j < f.lanes ∧ (c.kr k).getLsbD j = true ∧
          (isSNaN f (A c j) = true ∨ isSNaN f (B c j) = true ∨ (g.2.2 = true ∧ nan c j = true))
        encode i = 0x49 * 2 ^ 40 + f.code * 2 ^ 36 + kd.toNat * 2 ^ 26 + a.toNat * 2 ^ 16 + b.toNat * 2 ^ 6 + k.toNat * 4 + g.2.1 ∧
        ∀ s : State, ∃ t : State, ∃ ps, exec i s = .next t ∧ t = s.sched ps ∧ (∀ p ∈ ps, p.tgt = .k kd.toNat ∨ p.tgt = .flags) ∧
          (quietFor s (.k kd.toNat) → (∀ m, m < 4 → (laterBundle t m).me.kr kd = s.me.kr kd) ∧
            (kd ≠ 0 → ∀ j, ((laterBundle t 4).me.kr kd).getLsbD j =
              (decide (j < f.lanes) && (s.me.kr k).getLsbD j && true_ s.me j))) ∧
          (quietFlags s → (nv s.me → (laterBundle t 4).me.flags = s.me.flags ||| 16) ∧
            (¬nv s.me → (laterBundle t 4).me.flags = s.me.flags))) ∧
      (
        let node := fun (c : Ctx) => treeNode (fadd f (roundU r c))
          (fun j => if (c.kr k).getLsbD j = true then some (A c j) else none) (Nat.log2 f.lanes) 0
        VectorResult (.vfredsum sl f r d a k) sl d 0x4A f.code a.toNat
          (16 * [0, 4, 5, 6, 7].getD ([RndU.mode, .rne, .rtz, .rup, .rdn].findIdx (· == r)) 0) k.toNat 0 4
          [⟨f.width, f.lanes, fun _ _ => true, fun c j => if j = 0 then (node c).1.getD 0 else 0⟩] (fun c => (node c).2)))

/-- R101 to R104, R308: `vcvt`: one rounding for each active element, NaNs keeping their sign, infinities saturating where the
format has none, integers clamped with NV; elements spread over the registers of a group. -/
def Obligations.Conversions : Prop :=
  ∀ (sl : VSlot) (t f : Fmt) (r : RndU) (d a : VCode) (k : KNum),
    t.isFloat = true ∨ f.isFloat = true → t ≠ f → max t.width f.width ≤ 4 * min t.width f.width →
    let e := max f.lanes t.lanes
    let rs := e / f.lanes
    let rt := e / t.lanes
    let el := fun (c : Ctx) i => lane (if rs = 1 then c.vsrc f.width a else c.vr (a.toNat + i % rs)) f.width (i / rs)
    ∃ cv : RMode → Nat → FRes,
      VectorResult (.vcvt sl t f r d a k) sl d 0x4B f.code a.toNat
        (16 * [0, 4, 5, 6, 7].getD ([RndU.mode, .rne, .rtz, .rup, .rdn].findIdx (· == r)) 0 + t.code) k.toNat 0 4
        ((List.range rt).map fun q => ⟨t.width, t.lanes, fun c j => (c.kr k).getLsbD (j * rt + q), fun c j =>
          (cv (roundU r c) (el c (j * rt + q))).1⟩)
        (fun c => orFlags e (c.kr k) fun i => (cv (roundU r c) (el c i)).2) ∧
      ∀ (m : RMode) (x : Nat), x < 2 ^ f.width →
        (f.isInt = true → let z := BitVec.ofNat f.width x
          RoundsOnce t m (if f.signed = true then z.toInt else z.toNat) 0 false (cv m x)) ∧
        (t.isInt = true → (isNaN f x = true → cv m x = (0, 16)) ∧
          (isInf f x = true → cv m x = (lowBits t.width (clampTo t (if fsign f x = true then -2 ^ 40 else 2 ^ 40)), 16)) ∧
          (finiteCode f x → RoundsToInteger t m (fval f x) 149 (cv m x))) ∧
        (t.isFloat = true → f.isFloat = true →
          (finiteCode f x → RoundsOnce t m (fval f x) 149 (fsign f x) (cv m x)) ∧
          (isInf f x = true → cv m x = if t = .e4m3 then (maxFin t (fsign f x), 5) else (infCode t (fsign f x), 0)) ∧
          (isNaN f x = true → (cv m x).2 = (if t ≠ .f32 ∧ isSNaN f x = true then 16 else 0) ∧
            fsign t (cv m x).1 = fsign f x ∧ isNaN t (cv m x).1 = true ∧
            (f ≠ .e4m3 → t ≠ .e4m3 → (cv m x).1 % 2 ^ fracBits t =
              (x % 2 ^ fracBits f * 2 ^ (23 - fracBits f) / 2 ^ (23 - fracBits t)) ||| (if t = .f32 then 0 else 2 ^ (fracBits t - 1)))))

/-- R104 to R106, R309, R310: `vbfix` chooses for each block of 32 lanes the least exponent that keeps every active finite element
below 2^24, 255 for a NaN, or takes those of d + 1 under KEEP, and rounds each active lane to an integer; `vbflt` rounds each
element times its block's scale. -/
def Obligations.BlockFixedTransforms : Prop :=
  ∀ (sl : VSlot) (keep : Bool) (r : RndU) (d a : VCode) (k : KNum),
    let rc := 16 * [0, 4, 5, 6, 7].getD ([RndU.mode, .rne, .rtz, .rup, .rdn].findIdx (· == r)) 0
    let A := srcCode .f32 a
    let on := fun (c : Ctx) i => (c.kr k).getLsbD i = true
    ∃ (ex : Ctx → Nat → Nat) (el : Ctx → Nat → FRes) (back : Ctx → Nat → FRes),
      VectorResult (.vbfix sl keep r d a k) sl d 0x4C 8 a.toNat (rc + keep.toNat) k.toNat 0 4
        [⟨32, 128, fun c j => (c.kr k).getLsbD j, fun c j => (el c j).1⟩,
          ⟨8, 512, fun _ _ => true, fun c j => if j < 4 then ex c j else 0⟩]
        (fun c => orFlags 128 (c.kr k) fun i => (el c i).2) ∧
      VectorResult (.vbflt sl r d a k) sl d 0x4D 8 a.toNat rc k.toNat 0 4 (lanesUnder .f32 k fun c j => (back c j).1)
        (fun c => orFlags 128 (c.kr k) fun i => (back c i).2) ∧
      ∀ c, (∀ j, j < 4 →
          let blk := fun (i : Nat) => 32 * j ≤ i ∧ i < 32 * j + 32 ∧ on c i
          (keep = true → ex c j = lane (c.vr (d.toNat + 1)) 8 j) ∧
          (keep = false → (∃ i, blk i ∧ isNaN .f32 (A c i) = true) → ex c j = 255) ∧
          (keep = false → (¬∃ i, blk i ∧ isNaN .f32 (A c i) = true) → ex c j < 255 ∧ ∀ e, ex c j ≤ e ↔
            ∀ i, blk i → finiteCode .f32 (A c i) → (fval .f32 (A c i)).natAbs * 2 ^ 127 < 2 ^ 173 * 2 ^ e)) ∧
        ∀ i, i < 128 → on c i →
          (ex c (i / 32) = 255 ∨ isNaN .f32 (A c i) = true → el c i = (0, 16)) ∧
          (ex c (i / 32) ≠ 255 → isInf .f32 (A c i) = true → el c i = (if fsign .f32 (A c i) = true then 2 ^ 31 else 2 ^ 31 - 1, 16)) ∧
          (ex c (i / 32) ≠ 255 → finiteCode .f32 (A c i) →
            RoundsToInteger .i32 (roundU r c) (fval .f32 (A c i) * 2 ^ (381 - ex c (i / 32))) 403 (el c i)) ∧
          (
            let e := lane (c.vr (a.toNat + 1)) 8 (i / 32)
            (e = 255 → back c i = (0x7FC00000, 16)) ∧
            (e ≠ 255 → RoundsOnce .f32 (roundU r c) ((BitVec.ofNat 32 (lane (c.vr a.toNat) 32 i)).toInt * 2 ^ e) 127 false (back c i)))

/-- R115, R116, R311: the special functions, eight bundles later: NaNs quietened, the tables' special inputs with their flags, the
reciprocal and the roots rounded from the exact real and then cleared in bits 8:0 with NX, and UF for a tiny inexact result; `vexp2` of
an integer and `vlog2` of a power of two are exact; every other finite result of the four irrational functions is inexact. The results of
these four lie within what one rounding and the clearing of bits 8:0 can take from the exact real: 513 units in the last place.
The model's readings and choices it rests on: log 20. -/
def Obligations.SpecialFunctions : Prop :=
  ∀ (sl : VSlot) (r : RndU) (d a : VCode) (k : KNum),
    ∃ rcp rsq sqrt exp2 log2 tanh sigm : RMode → Nat → FRes,
      (
        let rc := 16 * [0, 4, 5, 6, 7].getD ([RndU.mode, .rne, .rtz, .rup, .rdn].findIdx (· == r)) 0
        let go := fun (op : Nat) (v : RMode → Nat → FRes) (i : Instr) =>
          VectorResult i sl d op 8 a.toNat rc k.toNat 0 8 (lanesUnder .f32 k fun c j => (v (roundU r c) (srcCode .f32 a c j)).1)
            fun c => orFlags 128 (c.kr k) fun j => (v (roundU r c) (srcCode .f32 a c j)).2
        go 0x60 rcp (.vrcp sl r d a k) ∧ go 0x61 rsq (.vrsq sl r d a k) ∧ go 0x62 sqrt (.vsqrt sl r d a k) ∧
        go 0x63 exp2 (.vexp2 sl r d a k) ∧ go 0x64 log2 (.vlog2 sl r d a k) ∧ go 0x65 tanh (.vtanh sl r d a k) ∧
        go 0x66 sigm (.vsigm sl r d a k)) ∧
      ∀ (m : RMode) (x : Nat), x < 2 ^ 32 →
        let V := fun c => (fval .f32 c).natAbs
        let pinf := 0x7F800000
        let ninf := 0xFF800000
        let qnan := 0x7FC00000
        let neg := isNaN .f32 x = false ∧ isInf .f32 x = false ∧ isZero .f32 x = false ∧ fsign .f32 x = true
        let pos := isNaN .f32 x = false ∧ isInf .f32 x = false ∧ isZero .f32 x = false ∧ fsign .f32 x = false
        let cleared := fun (y z : FRes) (exact : Prop) => z.1 = y.1 / 512 * 512 ∧
          (z.2.testBit 0 = true ↔ y.2.testBit 0 = true ∨ z.1 ≠ y.1) ∧
          (z.2.testBit 1 = true ↔ y.2.testBit 1 = true ∨ (z.1 % 2 ^ 31 < 2 ^ 23 ∧ ¬exact)) ∧ z.2 < 4
        (isNaN .f32 x = true → ∀ v ∈ [rcp, rsq, sqrt, exp2, log2, tanh, sigm],
          v m x = (x ||| 2 ^ 22, if x.testBit 22 = true then 0 else 16)) ∧
        (neg → rsq m x = (qnan, 16) ∧ sqrt m x = (qnan, 16) ∧ log2 m x = (qnan, 16)) ∧
        (x = 0 → rcp m x = (pinf, 8) ∧ rsq m x = (pinf, 8) ∧ sqrt m x = (0, 0) ∧ exp2 m x = (0x3F800000, 0) ∧
          log2 m x = (ninf, 8) ∧ tanh m x = (0, 0) ∧ sigm m x = (0x3F000000, 0)) ∧
        (x = 2 ^ 31 → rcp m x = (ninf, 8) ∧ rsq m x = (ninf, 8) ∧ sqrt m x = (2 ^ 31, 0) ∧ exp2 m x = (0x3F800000, 0) ∧
          log2 m x = (ninf, 8) ∧ tanh m x = (2 ^ 31, 0) ∧ sigm m x = (0x3F000000, 0)) ∧
        (x = pinf → rcp m x = (0, 0) ∧ rsq m x = (0, 0) ∧ sqrt m x = (pinf, 0) ∧ exp2 m x = (pinf, 0) ∧ log2 m x = (pinf, 0) ∧
          tanh m x = (0x3F800000, 0) ∧ sigm m x = (0x3F800000, 0)) ∧
        (x = ninf → rcp m x = (2 ^ 31, 0) ∧ rsq m x = (qnan, 16) ∧ sqrt m x = (qnan, 16) ∧ exp2 m x = (0, 0) ∧
          log2 m x = (qnan, 16) ∧ tanh m x = (0xBF800000, 0) ∧ sigm m x = (0, 0)) ∧
        (neg ∨ pos → (V 0x7F7FFFFF * V x < 2 ^ 298 → rcp m x = (if fsign .f32 x = true then ninf else pinf, 5)) ∧
          (2 ^ 298 ≤ V 0x7F7FFFFF * V x → cleared (roundRat .f32 (fsign .f32 x) (2 ^ 149) (V x) m) (rcp m x)
            (V (rcp m x).1 * V x = 2 ^ 298))) ∧
        (pos → ∀ g ∈ [(sqrt, fun y k => decide (y * y ≤ k * k * V x * 2 ^ 149), fun y => decide (y * y = V x * 2 ^ 149)),
            (rsq, fun y k => decide (y * y * V x ≤ k * k * 2 ^ 447), fun y => decide (y * y * V x = 2 ^ 447))],
          ∃ y, 0 < y ∧ y < 0x7F800000 ∧ (g.1 m x).1 = y / 512 * 512 ∧
            ((g.1 m x).2 = if g.2.2 (V (g.1 m x).1) = true then 0 else 1) ∧
            (g.2.2 (V y) = false → match m with
              | .rne => g.2.1 (V (y - 1) + V y) 2 = true ∧ g.2.1 (V y + V (y + 1)) 2 = false
              | .rup => g.2.1 (V (y - 1)) 1 = true ∧ g.2.1 (V y) 1 = false
              | _ => g.2.1 (V y) 1 = true ∧ g.2.1 (V (y + 1)) 1 = false)) ∧
        (neg ∨ pos → ∀ n : Int, fval .f32 x = n * 2 ^ 149 → -149 ≤ n → n ≤ 127 →
          cleared (roundRat .f32 false (2 ^ (n + 149).toNat) (2 ^ 149) m) (exp2 m x)
            (V (exp2 m x).1 = 2 ^ (n + 149).toNat)) ∧
        (∀ n : Nat, pos → V x = 2 ^ n → RoundsOnce .f32 .rtz ((n : Int) - 149) 0 false (log2 m x)) ∧
        (neg ∨ pos → (∀ v ∈ [tanh, sigm], (v m x).1 % 512 = 0 ∧ (v m x).2.testBit 0 = true) ∧
          ((¬∃ n : Int, fval .f32 x = n * 2 ^ 149) → (exp2 m x).1 % 512 = 0 ∧ (exp2 m x).2.testBit 0 = true) ∧
          ((¬∃ n : Nat, V x = 2 ^ n) → pos → (log2 m x).1 % 512 = 0 ∧ (log2 m x).2.testBit 0 = true)) ∧
        (let val := fun (c : Nat) => ((fval .f32 c : Int) : Real) / 2 ^ 149
         let near := fun (z : FRes) (y : Real) => isNaN .f32 z.1 = false ∧ isInf .f32 z.1 = false ∧
           |val z.1 - y| ≤ 513 / 2 ^ 23 * |y| + 513 / 2 ^ 149
         (neg ∨ pos → near (tanh m x) (Real.tanh (val x)) ∧ near (sigm m x) (1 / (1 + Real.exp (-val x))) ∧
           (128 * 2 ^ 149 ≤ fval .f32 x → exp2 m x = (pinf, 5)) ∧
           (fval .f32 x < 128 * 2 ^ 149 → near (exp2 m x) ((2 : Real) ^ val x))) ∧
         (pos → near (log2 m x) (Real.logb 2 (val x))))

namespace Sys2Proof.Machine

/-- The rank of a contributor: by value, with -0 below +0 for floats (R179). -/
def rankOf (f : Fmt) (x : Nat) : Int :=
  if f.isFloat = true then 2 * fval f x - (fsign f x).toNat
  else let z := BitVec.ofNat f.width x; if f.signed = true then z.toInt else z.toNat

/-- The registers of a witness reduction: the reduced lanes, and the witness: its header, a byte for each lane, zeros (R178). -/
def witnessViews (f : Fmt) (k : KNum) (n op : Nat) (v : Ctx → Nat → Nat) (byte : Ctx → Nat → Nat) : List LaneView :=
  [⟨f.width, f.lanes, fun c i => (c.kr k).getLsbD i, v⟩,
    ⟨8, 512, fun _ _ => true, fun c i =>
      if i < 8 then (c.wgen % 2 ^ 16 * 2 ^ 48 + f.lanes * 2 ^ 32 + n * 2 ^ 24 + f.code * 2 ^ 20 + op * 2 ^ 16) / 256 ^ i % 256
      else if i < 8 + f.lanes then (if (c.kr k).getLsbD (i - 8) = true then byte c (i - 8) else 255) else 0⟩]

end Sys2Proof.Machine

/-- R177 to R181, R312: the witness reductions, six bundles later: the reduced lanes in d, the header and the witness bytes in
d + 1, NV for a signalling NaN chosen. `wmax`, `wmin` and `wmed` name the contributor chosen and tell a tie; `wclamp` tells which
bound held; `wsat` sums with saturation at every step and names the first that clipped. -/
def Obligations.WitnessReductions : Prop :=
  ∀ (sl : VSlot) (f : Fmt) (d a b : VCode) (n : BitVec 7) (k : KNum), f.witness = true → 0 < n.toNat →
    let X := fun (c : Ctx) (i j : Nat) => lane (c.vr (a.toNat + j)) f.width i
    let K := fun c i j => rankOf f (X c i j)
    let nan := fun c i j => f.isFloat = true ∧ isNaN f (X c i j) = true
    (∀ g ∈ [(Instr.wmax sl f d a n k, 0x70, 1), (.wmin sl f d a n k, 0x71, 2), (.wmed sl f d a n k, 0x73, 4)],
      ∃ (pick : Ctx → Nat → Nat) (tie : Ctx → Nat → Bool),
        VectorResult g.1 sl d g.2.1 f.code a.toNat n.toNat k.toNat 0 6
          (witnessViews f k n.toNat g.2.2
            (fun c i => let x := X c i (pick c i); if f.isFloat = true ∧ isNaN f x = true then x ||| 2 ^ (fracBits f - 1) else x)
            fun c i => pick c i + 128 * (tie c i).toNat)
          (fun c => orFlags f.lanes (c.kr k) fun i => if f.isFloat = true ∧ isSNaN f (X c i (pick c i)) = true then 16 else 0) ∧
        ∀ c i, let p := pick c i
          p < n.toNat ∧
          ((∃ j, j < n.toNat ∧ nan c i j) → nan c i p ∧ (∀ j, j < p → ¬nan c i j) ∧
            (tie c i = true ↔ ∃ j, j < n.toNat ∧ j ≠ p ∧ nan c i j)) ∧
          ((∀ j, j < n.toNat → ¬nan c i j) →
            (tie c i = true ↔ ∃ j, j < n.toNat ∧ j ≠ p ∧ K c i j = K c i p) ∧
            (g.2.2 = 1 → ∀ j, j < n.toNat → K c i j ≤ K c i p ∧ (j < p → K c i j < K c i p)) ∧
            (g.2.2 = 2 → ∀ j, j < n.toNat → K c i p ≤ K c i j ∧ (j < p → K c i p < K c i j)) ∧
            (g.2.2 = 4 → ((List.range n.toNat).filter fun j =>
              decide (K c i j < K c i p ∨ (K c i j = K c i p ∧ j < p))).length = (n.toNat - 1) / 2))) ∧
    (
      let lt := fun x y => if f.isFloat = true then
          isNaN f x = false ∧ isNaN f y = false ∧ fval f x < fval f y else rankOf f x < rankOf f y
      ∃ el : Nat → Nat → Nat → Nat × Nat,
        VectorResult (.wclamp sl f d a b k) sl d 0x72 f.code a.toNat b.toNat k.toNat 0 6
          (witnessViews f k 1 3
            (fun c i => (el (X c i 0) (lane (c.vr b.toNat) f.width i) (lane (c.vr (b.toNat + 1)) f.width i)).1)
            fun c i => (el (X c i 0) (lane (c.vr b.toNat) f.width i) (lane (c.vr (b.toNat + 1)) f.width i)).2)
          (fun c => orFlags f.lanes (c.kr k) fun i => if f.isFloat = true ∧ isSNaN f (X c i 0) = true then 16 else 0) ∧
        ∀ x lo hi, x < 2 ^ f.width → lo < 2 ^ f.width → hi < 2 ^ f.width →
          (f.isFloat = true ∧ isNaN f x = true → el x lo hi = (x ||| 2 ^ (fracBits f - 1), 3)) ∧
          (lt x lo → el x lo hi = (lo, 1)) ∧ (¬lt x lo → lt hi x → el x lo hi = (hi, 2)) ∧
          (¬(f.isFloat = true ∧ isNaN f x = true) → ¬lt x lo → ¬lt hi x → el x lo hi = (x, 0))) ∧
    (f.isInt = true → ∃ (sum : Ctx → Nat → Nat → Int) (byte : Ctx → Nat → Nat),
      VectorResult (.wsat sl f d a n k) sl d 0x74 f.code a.toNat n.toNat k.toNat 0 6
        (witnessViews f k n.toNat 5 (fun c i => lowBits f.width (sum c i n.toNat)) byte) (fun _ => 0) ∧
      ∀ c i, sum c i 0 = 0 ∧ (∀ j, j < n.toNat → sum c i (j + 1) = clampTo f (sum c i j + K c i j)) ∧
        ((∀ j, j < n.toNat → sum c i (j + 1) = sum c i j + K c i j) → byte c i = 0) ∧
        ∀ j, j < n.toNat → sum c i (j + 1) ≠ sum c i j + K c i j → (∀ h, h < j → sum c i (h + 1) = sum c i h + K c i h) →
          byte c i = 2 * j + 1)

/-- R182 to R184, R313: `adjb`: the operand checks, cause 0x02; then the checks of the header against the expectation, cause 0x30
with the header in TRAPADDR; else each active lane's gradient goes, six bundles later, to the output that its witness byte names,
and zero to the others.
The model's readings and choices it rests on: log 155. -/
def Obligations.AdjointBroadcast : Prop :=
  ∀ (sl : VSlot) (d a b : VCode) (xg : XNum) (k : KNum) (s : State),
    let e := (s.me.xr xg).toNat
    let h := (s.me.vr b.toNat).toNat % 2 ^ 64
    let n := e / 2 ^ 20 % 2 ^ 7
    let op := h / 2 ^ 16 % 16
    let operand := 768 < d.toNat + n ∨ (d.toNat ≤ b.toNat ∧ b.toNat < d.toNat + n)
    let fresh := fun f : Fmt => f.code = h / 2 ^ 20 % 16 ∧ h % 2 ^ 16 = 0 ∧ h / 2 ^ 41 % 2 ^ 7 = 0 ∧ 1 ≤ op ∧ op ≤ 5 ∧
      h / 2 ^ 32 % 2 ^ 9 = f.lanes ∧ h / 2 ^ 48 = e % 2 ^ 16 ∧ op = e / 2 ^ 16 % 16 ∧ h / 2 ^ 24 % 2 ^ 8 = n
    (operand → exec (.adjb sl d a b xg k) s = .next (trapped sl.slot 0x02 0 s)) ∧
    (¬operand → (∀ f, ¬fresh f) → exec (.adjb sl d a b xg k) s = .next (trapped sl.slot 0x30 (BitVec.ofNat 64 h) s)) ∧
    ∀ f, ¬operand → fresh f → ∃ t : State, exec (.adjb sl d a b xg k) s = .next t ∧
      VectorWrites s t sl d 6 ((List.range n).map fun j => ⟨f.width, f.lanes, fun c i => (c.kr k).getLsbD i, fun c i =>
        let w := lane (c.vr b.toNat) 8 (8 + i)
        if w ≠ 255 ∧ (((op = 1 ∨ op = 2 ∨ op = 4) ∧ w % 128 = j) ∨ (op = 3 ∧ w = 0) ∨ (op = 5 ∧ w % 2 = 0)) then
          lane (c.vr a.toNat) f.width i else 0⟩) 0

/-! ### Commands to the engines -/

namespace Sys2Proof.Machine

/-- The issuing context as it stands, but for one more entry of its event queue reserved (R274). -/
def oneReserved (c : Ctx) : Ctx := { c with evres := c.evres + 1 }

/-- A record can be reserved in the event queue of a context (R274: 64 entries). -/
def hasRoom (c : Ctx) : Prop := c.evq.length + c.evres < 64

end Sys2Proof.Machine

namespace Sys2Proof.Machine

/-- R318: the entry at position i of a queue is an `mcall` of a context that has not started. -/
def awaits (q : List MEntry) (running : Bool) (key launch i : Nat) : Bool :=
  match q[i]? with
  | some (.call o _ _ _ _ _ _) => decide (o.key = key ∧ o.launch = launch ∧ ¬(i = 0 ∧ running = true))
  | _ => false

/-- The entries at the positions of a queue that a test takes, in their order. -/
def entriesAt (q : List MEntry) (p : Nat → Bool) : List MEntry := ((List.range q.length).filter p).filterMap fun i => q[i]?

/-- R318, R426: the record of STATUS NONE of an `mcall` removed before it starts: its routine index, and the cycle as its START. -/
def noneRecord (now key : Nat) : MEntry → Record
  | .call _ ix _ _ _ _ _ => mkRecord 0 now 0 ix 0 1 1 0 5 key
  | _ => 0

end Sys2Proof.Machine

/-- R147, R148, R149, R154, R160, R314 to R318: the M slot. With room in the engine's queue of four, and for all but `mcfg` and `mhalt`
with an entry of the event queue to reserve, each form answers a next state, in which its entry stands last in the queue, with the
owner, the snapshot of mp0 to mp7, and for a timed `mcall` a start that is the base plus the offset, which becomes the next base; else
the bundle holds. `mhalt` removes its owner's routines that have not started, each posting STATUS NONE, keeps every other entry, and
marks a running one.
The model's readings and choices it rests on: log 26, 27. -/
def Obligations.MatrixCommandsAccepted : Prop :=
  ∀ (idx : BitVec 10) (off : BitVec 16) (w : McfgW) (nat sat : Bool) (s : State),
    let eng := (s.core s.myCore).eng
    let q := eng.queue
    let snap := (List.range 8).map fun i => (s.core s.myCore).mp.get 0 i
    let start := (match s.me.mbase with | some b => b | none => s.me.tstart) + off.toNat
    let res := s.setCtx s.cur (oneReserved s.me)
    let put := fun (u : State) (e : MEntry) => u.setCore s.myCore { s.core s.myCore with eng := { eng with queue := q ++ [e] } }
    let held := State.markHold s s.cur .queue
    (q.length < 4 → hasRoom s.me →
      exec (.mcall idx) s = .next (put res (.call s.owner idx.toNat snap false 0 s.station s.nextId))) ∧
    (q.length < 4 → hasRoom s.me →
      exec (.mcallT idx off) s = .next ((put res (.call s.owner idx.toNat snap true start s.station s.nextId)).setCtx s.cur
        { oneReserved s.me with mbase := some start })) ∧
    (q.length < 4 → hasRoom s.me → exec .mloadCode s = .next (put res (.load s.owner false snap s.station))) ∧
    (q.length < 4 → hasRoom s.me → exec .mloadTable s = .next (put res (.load s.owner true snap s.station))) ∧
    (q.length < 4 → exec (.mcfg w nat sat) s = .next (put s (.cfg (16 * sat.toNat + 4 * nat.toNat + w.code) s.station))) ∧
    (q.length < 4 → ∃ t : State, exec .mhalt s = .next t ∧
      let mine := awaits q eng.routine.isSome s.cur s.me.launch
      let gone := entriesAt q mine
      t.mem = s.mem ∧ t.releases = s.releases ∧ (∀ k, k ≠ s.cur → t.ctx k = s.ctx k) ∧
      t.cores = (s.setCore s.myCore { s.core s.myCore with eng := { eng with
        queue := entriesAt q (fun (i : Nat) => !mine i) ++ [.halt s.owner s.station]
        routine := eng.routine.map fun (r : Routine) =>
          if r.own.key = s.cur ∧ r.own.launch = s.me.launch ∧ r.marked = none then { r with marked := some s.station } else r } }).cores ∧
      (s.me.run = .ready → t.ctx s.cur = { s.me with
        evq := s.me.evq ++ gone.map (noneRecord s.station s.cur), evres := s.me.evres - gone.length })) ∧
    (∀ i ∈ [Instr.mcall idx, .mcallT idx off, .mloadCode, .mloadTable], 4 ≤ q.length ∨ ¬hasRoom s.me → exec i s = .next held) ∧
    (∀ i ∈ [Instr.mcfg w nat sat, .mhalt], 4 ≤ q.length → exec i s = .next held)

/-- First: R67, R68, R77, R162, R333, R335, R340: every D and G command: with sixteen commands of its engine waiting or no entry to reserve
in the queue that its record goes to, the bundle holds; else the command is accepted: it captures the eight staging registers,
COOKIE from the low half of xc, and the next SEQ; it stands last in its context's queue, unstarted; and nothing else changes but the
counters and the reservation, which for `.eq` is made in the context that the captured register 6 names.
Second: R187, R189 to R193, R242, R282: the tack-room commands: an operand that does not stand at a multiple of its registers is cause
0x02; with four commands waiting in the core's tack room or no entry to reserve the bundle holds; else the command stands last in the
room's queue with the operand registers as they stand, and `troll` and `tfork` lock the rows of the STATE stall that the slot is bound
to, until their record is taken. A running command fills no entry of the queue (log 146, DESIGN CHOICE). In a launch with SNAP a context
of a core that is to be pre-empted stops at its `tsnap` (R194).
The model's readings and choices it rests on: log 54, 84, 144. -/
def Obligations.TransferGroupAndTackCommandsAccepted : Prop :=
  (∀ (x : XNum) (t eq norm rel : Bool) (s : State),
     ∀ g ∈ [(Instr.dcopy x t eq, false, 1, 0, t), (.dcopy2 x t eq, false, 2, 0, t), (.dgath x t eq, false, 3, 0, t),
         (.dscat x t eq, false, 4, 0, t), (.dfill x t eq, false, 5, 0, t), (.datom x t eq, false, 6, 0, t),
         (.dchase x t eq, false, 7, 0, t), (.dmig x t eq, false, 8, 0, t), (.adec x t eq, true, 1, 0, t), (.aplan x t eq, true, 2, 0, t),
         (.amerge norm x t eq, true, 3, norm.toNat, t), (.kvinv x t eq, true, 4, 0, t), (.kfork rel x t eq, true, 5, rel.toNat, t),
         (.gsend x t eq, true, 6, 0, t), (.grecv x t eq, true, 7, 0, t), (.gred x t eq, true, 8, 0, t), (.gtt x eq, true, 9, 0, false)],
       let group := g.2.1
       let file := if group = true then s.me.gs else s.me.ds
       let waiting := if group = true then s.me.gq else s.me.dq
       let dest := if eq = true then 4 * (s.cur / 4) + (file.get 0 6).toNat % 4 else s.cur
       (16 ≤ waiting.length ∨ ¬hasRoom (s.ctx dest) → exec g.1 s = .next (State.markHold s s.cur .queue)) ∧
       (waiting.length < 16 → hasRoom (s.ctx dest) → ∃ u : State, ∃ c : Cmd, exec g.1 s = .next u ∧ u.cmd s.nextId = some c ∧
         c.id = s.nextId ∧ c.own = s.owner ∧ c.group = group ∧ c.code = g.2.2.1 ∧ c.low = g.2.2.2.1 ∧ c.timed = g.2.2.2.2 ∧
         c.rkey = dest ∧ c.cookie = (s.me.xr x).toNat % 2 ^ 32 ∧ c.seq = (if group = true then s.me.gseq else s.me.dseq) ∧
         c.accepted = s.station ∧ c.tstart = s.me.tstart ∧ c.gfmt = s.me.gfmt ∧ c.stage = .queued ∧
         (∀ i, i < 8 → c.st[i]? = some (file.get 0 i)) ∧ c.st.length = 8 ∧
         (u.ctx dest).evres = (s.ctx dest).evres + 1 ∧
         (if group = true then u.me.gq = s.me.gq ++ [c.id] ∧ u.me.gseq = (s.me.gseq + 1) % 65536 ∧ u.me.dq = s.me.dq ∧ u.me.dseq = s.me.dseq
           else u.me.dq = s.me.dq ++ [c.id] ∧ u.me.dseq = (s.me.dseq + 1) % 65536 ∧ u.me.gq = s.me.gq ∧ u.me.gseq = s.me.gseq) ∧
         u.mem = s.mem ∧ u.me.x = s.me.x ∧ u.me.v = s.me.v ∧ u.me.pend = s.me.pend ∧ (∀ k, k ≠ s.cur → k ≠ dest → u.ctx k = s.ctx k) ∧
         ∀ id, id ≠ s.nextId → u.cmd id = s.cmd id)) ∧
  (∀ (x : XNum) (s : State),
     ∀ g ∈ [(Instr.tbind x, 1, 4), (.tsnap x, 2, 2), (.troll x, 3, 2), (.tfork x, 4, 4)],
       let room := (s.core s.myCore).tack
       let regs := (List.range g.2.2).map fun i => s.me.xr (x + BitVec.ofNat 6 i)
       let asks := (s.core s.myCore).pre.isSome && decide (s.shed = .running) && (s.launch s.me.launch).any fun l => l.record.snap
       let entry : TCmd := { id := s.nextId, code := g.2.1, own := s.owner, accepted := s.station, regs := regs
                             stops := decide (g.2.1 = 2) && asks && !s.me.snapped }
       let bound := fun (i : Nat) => match room.slots.get none i with
         | some b => if b.dev = s.me.dev then [b.stall] else []
         | none => []
       (x.toNat % g.2.2 ≠ 0 → exec g.1 s = .next (trapped .Y 0x02 0 s)) ∧
       (x.toNat % g.2.2 = 0 → 4 ≤ room.queue.length ∨ ¬hasRoom s.me → exec g.1 s = .next (State.markHold s s.cur .queue)) ∧
       (x.toNat % g.2.2 = 0 → room.queue.length < 4 → hasRoom s.me → ∃ t : State, exec g.1 s = .next t ∧
         (t.core s.myCore).tack.queue = room.queue ++ [entry] ∧
         t.me.evres = s.me.evres + 1 ∧ t.mem = s.mem ∧ t.me.x = s.me.x ∧ t.me.snapped = (s.me.snapped || (decide (g.2.1 = 2) && asks)) ∧
         (g.2.1 < 3 → (t.core s.myCore).tack.locks = room.locks) ∧
         (3 ≤ g.2.1 → ∃ l : TLock, (t.core s.myCore).tack.locks = room.locks ++ [l] ∧ l.cmd = s.nextId ∧ l.own = s.owner ∧
           l.record = none ∧ l.first = bound ((s.me.xr x).toNat % 256) ∧ (∀ i ∈ l.first, i ∈ l.stalls) ∧
           (g.2.1 = 4 → isStallAddr (s.me.xr (x + 1)) = true → addrStall (s.me.xr (x + 1)) ∈ l.stalls))))

/-! ### The system unit: rents, queues, blocks, traps -/

namespace Sys2Proof.Machine

/-- Register xn + i of an operand. -/
def operandReg (s : State) (x : XNum) (i : Nat) : Word := s.me.xr (x + BitVec.ofNat 6 i)

/-- A Y operation that returns values, one bundle later, in the registers from xn + from_, and changes nothing else that is not
said beside it: memory, the other registers, the other contexts and the cores stand. -/
def Returns (s t : State) (x : XNum) (from_ : Nat) (vs : List Nat) : Prop :=
  t.me.pend = s.me.pend ++ (List.range vs.length).map (fun i =>
    mkPend s.me .Y 1 (.x (x.toNat + from_ + i)) (ones 64) (vs.getD i 0)) ∧
  t.mem = s.mem ∧ t.cores = s.cores ∧ t.me.x = s.me.x ∧ t.me.pc = s.me.pc ∧ t.me.evq = s.me.evq ∧
  ∀ k, k ≠ s.cur → t.ctx k = s.ctx k

/-- The stall that an address names among those of the issuing device, and that it is one (R50). -/
def named (s : State) (a : Word) (y : Stall) : Prop :=
  a.getLsbD 63 = true ∧ addrStall a ≠ 0 ∧ s.stall s.me.dev (addrStall a) = y ∧ y.id ≠ 0

/-- CG of a stall (R43): seven eighths, rounded up, of a TOLERANT one. -/
def chargedGranules (len : Nat) (tolerant : Bool) : Nat := if tolerant = true then (7 * len + 7) / 8 else len

end Sys2Proof.Machine

/-- First: R38, R40, R50, R52 to R56, R270, R272, R428: `prepay`, `renew`, `vacate` and `rentq`: the operand and naming faults, the privilege
fault at USER ring, the expiry fault of `prepay`; the new PAID, limited by the parent's; the charge or refund; the status returned; and
`rentq`, which never faults on what it names.
Second: R35, R38, R41, R43, R44, R50, R51, R55, R270, R271, R273, R428: `rent` and `sublet`: the faults in their order; NONE, NOSPACE and
NOFUNDS, which change nothing; and a stall created: at the lowest free id, with its terms, in the lowest granules of its near level
that are free on the core, PAID and the charge; at a far level NOSPACE where the pool has no room, for TIER in loft storage or, as the
model chooses (log 5), with its last pages in HBM, and NOFUNDS where it has; a child takes its parent's place, level, flags and rate.
The model's readings and choices it rests on: log 5, 6, 71, 72. -/
def Obligations.RentalOperations : Prop :=
  (∀ (x : XNum) (s : State),
     let a := operandReg s x 0
     let n := (operandReg s x 1).toNat % 2 ^ 32
     let d := s.dev s.me.dev
     let allow := fun (y : Stall) => d.accts.get 0 y.acct
     let cost := fun (y : Stall) (new : Nat) => (new - y.paid) * y.rate * chargedGranules y.len y.tolerant
     let lim := fun (y : Stall) (new : Nat) => if y.parent = 0 then new else min new (d.stall y.parent).paid
     let broke := fun (y : Stall) (new : Nat) => allow y < 0 ∨ allow y < cost y new ∨ 2 ^ 62 < cost y new
     let denied := fun (y : Stall) => s.me.ring = .user ∧ y.acct ≠ s.me.acct
     let same := fun (t : State) => t.dev s.me.dev = d
     let changed := fun (t : State) (y z : Stall) (c : Int) => t.stall s.me.dev y.id = z ∧
       (∀ i, i ≠ y.id → t.stall s.me.dev i = s.stall s.me.dev i) ∧
       ((t.dev s.me.dev).accts.get 0 y.acct = min (2 ^ 63 - 1) (max (-2 ^ 63) (allow y + c))) ∧
       ∀ e, e ≠ y.acct → (t.dev s.me.dev).accts.get 0 e = d.accts.get 0 e
     (∀ i ∈ [Instr.prepay x, .renew x, .rentq x], x.toNat % 2 ≠ 0 → exec i s = .next (trapped .Y 0x02 0 s)) ∧
     (∀ i ∈ [Instr.prepay x, .renew x, .vacate x], x.toNat % 2 = 0 ∨ i = .vacate x →
       (a.getLsbD 63 = false → exec i s = .next (trapped .Y 0x14 a s)) ∧
       (a.getLsbD 63 = true → addrStall a = 0 ∨ (s.stall s.me.dev (addrStall a)).id = 0 →
         exec i s = .next (trapped .Y 0x13 a s)) ∧
       (∀ y, named s a y → denied y → exec i s = .next (trapped .Y 0x04 0 s))) ∧
     (∀ y, named s a y → ¬denied y → y.id = addrStall a →
       (x.toNat % 2 = 0 →
         (y.st ≠ .active → exec (.prepay x) s = .next (trapped .Y 0x10 a s)) ∧
         (y.st = .active → ∃ t : State, exec (.prepay x) s = .next t ∧
           let new := lim y (y.paid + n)
           if n = 0 then Returns s t x 1 [0] ∧ same t
           else if new ≤ y.paid then Returns s t x 1 [3] ∧ same t
           else if broke y new then Returns s t x 1 [1] ∧ same t
           else Returns s t x 1 [if new < y.paid + n then 3 else 0] ∧ changed t y { y with paid := new } (-(cost y new))) ∧
         ∃ t : State, exec (.renew x) s = .next t ∧
           let new := lim y (s.tick + n)
           let st := if new < s.tick + n then 3 else 0
           if y.parent ≠ 0 ∧ (d.stall y.parent).st ≠ .active then Returns s t x 1 [3] ∧ same t
           else if new ≤ s.tick ∧ y.st ≠ .active then Returns s t x 1 [3] ∧ same t
           else if new ≤ y.paid then Returns s t x 1 [st] ∧ same t
           else if broke y new then Returns s t x 1 [1] ∧ same t
           else Returns s t x 1 [st] ∧ changed t y { y with paid := new, st := .active, vac := false } (-(cost y new))) ∧
       ∃ t : State, exec (.vacate x) s = .next t ∧
         if y.children ≠ 0 then Returns s t x 0 [5] ∧ same t
         else if y.st = .active then Returns s t x 0 [0] ∧ changed t y { y with paid := s.tick, vac := true }
           ((y.paid - s.tick - 1 : Nat) * y.rate * chargedGranules y.len y.tolerant)
         else Returns s t x 0 [0] ∧ t.stall s.me.dev y.id = { y with vac := true } ∧ (t.dev s.me.dev).accts = d.accts) ∧
     (x.toNat % 2 = 0 → ∃ t : State, exec (.rentq x) s = .next t ∧ t.devs = s.devs ∧
       ((a.getLsbD 63 = false → Returns s t x 0 [3 * 2 ^ 30, 0]) ∧
         (a.getLsbD 63 = true → ¬(∃ y, named s a y) → Returns s t x 0 [3 * 2 ^ 30 + addrStall a, 0]) ∧
         ∀ y, named s a y → Returns s t x 0 [(y.liens * 2 ^ 48 + y.acct * 2 ^ 40 + y.children * 2 ^ 32 +
           (match y.st with | .active => 0 | .overstay => 1 | .lapsed => 2) * 2 ^ 30 + y.sync.toNat * 2 ^ 29 + y.shared.toNat * 2 ^ 28 +
           y.tolerant.toNat * 2 ^ 27 + (if y.level = 4 then 2 ^ 26 else 0) + y.level * 2 ^ 23 + y.core * 2 ^ 17 + y.vac.toNat * 2 ^ 16 +
           y.id) % 2 ^ 64, y.paid % 2 ^ 64]))) ∧
  (∀ (x : XNum) (s : State),
     let r := operandReg s x
     let d := s.dev s.me.dev
     let none_ := fun (t : State) (st : Nat) => Returns s t x 0 [0, st] ∧ t.devs = s.devs
     let lowest := fun (id : Nat) => 1 ≤ id ∧ id ≤ 32767 ∧ (d.stall id).id = 0 ∧ ∀ j, 1 ≤ j → j < id → (d.stall j).id ≠ 0
     let created := fun (t : State) (id : Nat) (y : Stall) (acct cost : Nat) (parent : Nat) =>
       t.stall s.me.dev id = y ∧ (∀ i, i ≠ id → i ≠ parent → t.stall s.me.dev i = s.stall s.me.dev i) ∧
       (t.dev s.me.dev).accts.get 0 acct = d.accts.get 0 acct - cost ∧ (∀ e, e ≠ acct → (t.dev s.me.dev).accts.get 0 e = d.accts.get 0 e)
     let bad := fun (acct cost : Nat) => d.accts.get 0 acct < 0 ∨ d.accts.get 0 acct < cost ∨ 2 ^ 62 < cost
     (∀ i ∈ [Instr.rent x, .sublet x], x.toNat % 4 ≠ 0 → exec i s = .next (trapped .Y 0x02 0 s)) ∧
     (x.toNat % 4 = 0 →
       (let w := (r 0).toNat
        let level := w % 8
        let tol := w.testBit 5
        let ty := w / 2 ^ 32 % 16
        let planes := w / 2 ^ 44 % 16
        let mapOk := w / 2 ^ 48 = 0 ∧ w / 2 ^ 36 % 4 = 0 ∧ 1 ≤ ty ∧ ty ≤ 8 ∧ if ty = 8 then 1 ≤ planes ∧ planes ≤ 3 else planes = 0
        let n := (r 2).toNat % 2 ^ 32
        let len := if level = 0 then ((r 1).toNat + 31) / 32 * 32 else (r 1).toNat
        let rate := d.rates.get 0 level
        let cost := n * rate * chargedGranules len tol
        let illegal := 6 ≤ level ∨ (tol = true ∧ ¬mapOk)
        (illegal → exec (.rent x) s = .next (trapped .Y 0x02 0 s)) ∧
        (¬illegal → tol = true → level < 3 → exec (.rent x) s = .next (trapped .Y 0x14 0 s)) ∧
        (¬illegal → ¬(tol = true ∧ level < 3) →
         (n = 0 ∨ (r 1).toNat = 0 → ∃ t : State, exec (.rent x) s = .next t ∧ none_ t 5) ∧
         (n ≠ 0 → (r 1).toNat ≠ 0 →
           ((¬∃ id, lowest id) ∨ (3 ≤ level ∧ 2 ^ 34 < len) ∨
               (level < 3 ∧ (∀ u ∈ nearUsed s, u.hi % 64 = 0) ∧ ∀ g, g + len ≤ nearGranules level →
                 ∃ u ∈ nearUsed s, nearBase s.myCore level + 64 * g < u.hi ∧ u.lo < nearBase s.myCore level + 64 * (g + len)) →
             ∃ t : State, exec (.rent x) s = .next t ∧ none_ t 2) ∧
           (∀ id g, level < 3 → lowest id → (∀ u ∈ nearUsed s, u.hi % 64 = 0) → g + len ≤ nearGranules level →
             (let free := fun g => ∀ u ∈ nearUsed s,
               u.hi ≤ nearBase s.myCore level + 64 * g ∨ nearBase s.myCore level + 64 * (g + len) ≤ u.lo
              free g ∧ ∀ h, h < g → ¬free h) →
             (bad s.me.acct cost → ∃ t : State, exec (.rent x) s = .next t ∧ none_ t 1) ∧
             (¬bad s.me.acct cost → d.accts.get 0 s.me.acct < 2 ^ 63 →
               let y : Stall := { base := g, len := len, paid := s.tick + n, rate := rate, acct := s.me.acct, sync := w.testBit 3,
                                  shared := w.testBit 4, level := level, core := s.myCore, id := id,
                                  phys := nearBase s.myCore level + 64 * g, born := s.nextId }
               ∃ t : State, exec (.rent x) s = .next t ∧ Returns s t x 0 [2 ^ 63 + id * 2 ^ 48, 0] ∧ created t id y s.me.acct cost id)) ∧
           (3 ≤ level →
             let need := if tol = true then len - len / 8 else len
             let loft := s.poolLoft.sum
             let room := if level = 3 then need ≤ s.poolHbm.sum else if level = 5 then need ≤ loft
               else need ≤ loft ∨ (len + 1023) / 1024 - loft / (if tol = true then 896 else 1024) ≤ (s.poolHbm.map (· / 1024)).sum
             (¬room → ∃ t : State, exec (.rent x) s = .next t ∧ none_ t 2) ∧
             (∀ id, lowest id → len ≤ 2 ^ 34 → room → bad s.me.acct cost → ∃ t : State, exec (.rent x) s = .next t ∧ none_ t 1)) ∧
           (∀ id, 3 ≤ level → lowest id → len ≤ 2 ^ 34 → ¬bad s.me.acct cost → d.accts.get 0 s.me.acct < 2 ^ 63 →
             (if tol = true then len - len / 8 else len) ≤ (if level = 3 then s.poolHbm else s.poolLoft).sum →
             ∃ t : State, ∃ y, exec (.rent x) s = .next t ∧ Returns s t x 0 [2 ^ 63 + id * 2 ^ 48, 0] ∧ created t id y s.me.acct cost id ∧
               y.len = len ∧ y.paid = s.tick + n ∧ y.level = level ∧ y.core = 0 ∧ y.st = .active ∧ y.parent = 0 ∧ y.id = id ∧
               y.tolerant = tol ∧ y.fmap = (if tol = true then w / 2 ^ 32 else 0) ∧ t.nextRoot = s.nextRoot + 1)))) ∧
       (let off := (r 1).toNat
        let n := (r 3).toNat % 2 ^ 32
        let acct := (r 3).toNat / 2 ^ 32 % 256
        let denied := s.me.ring = .user ∧ acct ≠ s.me.acct
        ((r 0).getLsbD 63 = false → exec (.sublet x) s = .next (trapped .Y 0x14 (r 0) s)) ∧
        ((r 0).getLsbD 63 = true → ¬(∃ y, named s (r 0) y) → exec (.sublet x) s = .next (trapped .Y 0x13 (r 0) s)) ∧
        ∀ p, named s (r 0) p →
         let len := if p.level = 0 then ((r 2).toNat + 31) / 32 * 32 else (r 2).toNat
         let paid := min (s.tick + n) p.paid
         let cost := (paid - s.tick) * p.rate * chargedGranules len p.tolerant
         let out := (p.level = 0 ∧ off % 32 ≠ 0) ∨ p.len < off + len
         (denied → exec (.sublet x) s = .next (trapped .Y 0x04 0 s)) ∧
         (¬denied → out → exec (.sublet x) s = .next (trapped .Y 0x13 (r 0) s)) ∧
         (¬denied → ¬out → p.st ≠ .active → exec (.sublet x) s = .next (trapped .Y 0x10 (r 0) s)) ∧
         (¬denied → ¬out → p.st = .active →
           (n = 0 ∨ (r 2).toNat = 0 → ∃ t : State, exec (.sublet x) s = .next t ∧ none_ t 5) ∧
           (n ≠ 0 → (r 2).toNat ≠ 0 → (¬∃ id, lowest id) ∨ 255 ≤ p.children → ∃ t : State, exec (.sublet x) s = .next t ∧ none_ t 2) ∧
           (∀ id, n ≠ 0 → (r 2).toNat ≠ 0 → lowest id → p.children < 255 → p.id = addrStall (r 0) →
             (bad acct cost → ∃ t : State, exec (.sublet x) s = .next t ∧ none_ t 1) ∧
             (¬bad acct cost → d.accts.get 0 acct < 2 ^ 63 → ∃ t : State, exec (.sublet x) s = .next t ∧
               Returns s t x 0 [2 ^ 63 + id * 2 ^ 48, if paid < s.tick + n then 3 else 0] ∧
               created t id { p with base := (if p.level < 3 then p.base + off else p.base), len := len, paid := paid, parent := p.id,
                                     liens := 0, acct := acct, children := 0, vac := false, id := id, phys := p.phys + 64 * off,
                                     born := s.nextId, split := [] }
                 acct cost p.id ∧
               t.stall s.me.dev p.id = { p with children := p.children + 1 }))))))

namespace Sys2Proof.Machine

/-- A context whose bundle holds for a reason: nothing else happens in this cycle but the count of held cycles (R17, R138, R408). -/
def holds (why : HoldWhy) (s : State) : State := State.markHold s s.cur why

/-- An access of the issuing context that it issued before this cycle. -/
def earlierOwn (s : State) (a : Access) : Prop := a ∈ s.accesses ∧ a.key = s.cur ∧ a.agent = 0 ∧ a.born < s.station

/-- R276, R358: a buffered store of the issuing context is not committed: it stands in the buffer, or is on its way there. -/
def uncommitted (s : State) : Prop := s.me.sbuf ≠ [] ∨ ∃ a, earlierOwn s a ∧ ∃ cs, a.op = .store cs true

/-- R358: a store of the issuing context performs only after this cycle. -/
def storesLate (s : State) : Prop := ∃ a, earlierOwn s a ∧ s.station < a.due ∧ ∃ cs b, a.op = .store cs b

/-- No access of a context and of the system unit is on its way, and nothing is buffered. -/
def settled (s : State) : Prop :=
  (∀ a ∈ s.accesses, a.agent ≠ 6 ∧ a.key ≠ s.cur) ∧ s.me.sbuf = [] ∧ s.me.sdue = []

/-- No byte among the first n from an address lies in a granule that a read finds poisoned. -/
def sound (s : State) (a : Word) (n : Nat) : Prop := ∀ j, j < n → ¬tainted s a j

/-- The stall of an address as a job-control block needs it (R278, R279). -/
def blockAt (s : State) (a : Word) (y : Stall) : Prop :=
  a.getLsbD 63 = true ∧ addrStall a ≠ 0 ∧ stallAt s a = y ∧ y.id ≠ 0 ∧ addrOffset a + 64 ≤ 64 * y.len ∧ addrOffset a % 64 = 0 ∧
    y.level = 1 ∧ y.sync = true ∧ y.st = .active ∧ s.tick < y.paid

end Sys2Proof.Machine

/-- R17, R193, R274 to R277, R281, R380, R381: `evwait` and `evpop` hold while no record is there; `evpop` takes the oldest record and
returns its four words; a fence of `.acq` never holds, and one of `.rel` or `.full` holds for buffered stores, for accesses that have not
performed, and at `.pkg` and `.sys` for commands without a record; `realign` holds until a boundary later than its first cycle; `wake`
never holds: it spends a token and moves the ring's head up to the tail, or is remembered.
The model's readings and choices it rests on: log 78. -/
def Obligations.QueuesFencesAndWakes : Prop :=
  ∀ (x : XNum) (scope : FenceScope) (s : State),
    (s.me.evq = [] → exec .evwait s = .next (holds .event s)) ∧
    (s.me.evq ≠ [] → exec .evwait s = .next s) ∧
    (x.toNat % 4 ≠ 0 → exec (.evpop x) s = .next (trapped .Y 0x02 0 s)) ∧
    (x.toNat % 4 = 0 → s.me.evq = [] → exec (.evpop x) s = .next (holds .event s)) ∧
    (∀ r rest, x.toNat % 4 = 0 → s.me.evq = r :: rest → ∃ t : State, exec (.evpop x) s = .next t ∧ t.me.evq = rest ∧ t.me.evres = s.me.evres ∧
      t.me.pend = s.me.pend ++ ((List.range 4).map fun i => mkPend s.me .Y 1 (.x (x.toNat + i)) (ones 64) (r / 2 ^ (64 * i) % 2 ^ 64)) ∧
      t.mem = s.mem ∧ t.me.x = s.me.x ∧ (∀ k, k ≠ s.cur → t.ctx k = s.ctx k) ∧
      ((∀ l ∈ (s.core s.myCore).tack.locks, l.own ≠ s.owner ∨ l.record ≠ some r) → t.cores = s.cores)) ∧
    exec (.fence scope .acq) s = .next s ∧
    (∀ kind, kind ≠ .acq →
      let buffered := uncommitted s
      let late := ∃ a, earlierOwn s a ∧ s.station < a.due
      let cmds := (scope = .pkg ∨ scope = .sys) ∧ ∃ id c, (id, some c) ∈ s.cmds ∧ c.own.key = s.cur ∧ c.own.launch = s.me.launch ∧
        c.accepted < s.station ∧ c.stage ≠ .posted
      (buffered → exec (.fence scope kind) s = .next (holds .commit s)) ∧
      (¬buffered → late ∨ cmds → exec (.fence scope kind) s = .next (holds .queue s)) ∧
      (¬buffered → ¬late → ¬cmds → exec (.fence scope kind) s = .next s)) ∧
    (let since := match s.me.hold with | some h => h.since | none => s.station
     (since / 1024 < s.tick → exec .realign s = .next s) ∧ (s.tick ≤ since / 1024 → exec .realign s = .next (holds .realign s))) ∧
    (let d := s.dev s.me.dev
     let tail := (s.me.xr x).toNat % 2 ^ 32
     (d.en = false → exec (.wake x) s = .next s) ∧
     (d.en = true → d.tokens = 0 → exec (.wake x) s = .next (s.setDev s.me.dev { d with wakeTail := tail, wakeAgain := true })) ∧
     (d.en = true → 0 < d.tokens → d.subHead ≤ d.subSize → d.subSize < 4096 → ∃ t : State, exec (.wake x) s = .next t ∧
       (t.dev s.me.dev).tokens = d.tokens - 1 ∧ (t.dev s.me.dev).subHead = tail % (d.subSize + 1) ∧ t.me = s.me ∧
       (d.subHead = tail % (d.subSize + 1) → t = s.setDev s.me.dev { d with tokens := d.tokens - 1 })))

/-- First: R87, R278, R279, R358: the operations on a job-control block: the address checks in their order, then a poisoned granule, cause 0x32
(log 10), then the misuses, cause 0x31; `jinit` arms
the block and reserves an entry; `jadd` raises EXPECTED; `jdone`, which waits for the context's stores, sets its bit and counts, and at
the expected count the block is fired and its record goes to the context whose `jinit` armed it; `jwait` holds while it is armed.
Second: R40, R80, R87, R280, R358, R367, R376, R403: `launch`: the checks of a load of 256 aligned bytes from a NEAR stall of the own core; it
waits for the context's stores; the privilege check of the record's account; NOSPACE at 512 launches; else OK, and a record that the
yardmaster accepts stands as a launch, eligible at once when none of its dependences is open. For a device that is not enabled the
status returned is a free value (a choice of the model, log 79).
The model's readings and choices it rests on: log 10, 75, 76, 77, 78, 79, 81. -/
def Obligations.JobControlAndLaunch : Prop :=
  ((∀ (x : XNum) (s : State) (y : Stall), blockAt s (s.me.xr x) y → sound s (s.me.xr x) 64 →
     let w := jcbWord s (y.phys + addrOffset (s.me.xr x))
     (w / 2 ^ 64 % 4 ≠ 1 ∨ w / 2 ^ 32 % 2 ^ 32 = w % 2 ^ 32 → exec (.jdone x) s = .next (trapped .Y 0x31 (s.me.xr x) s)) ∧
     (w / 2 ^ 64 % 4 = 1 → w / 2 ^ 32 % 2 ^ 32 ≠ w % 2 ^ 32 →
       (uncommitted s → exec (.jdone x) s = .next (holds .commit s)) ∧
       (¬uncommitted s → storesLate s → exec (.jdone x) s = .next (holds .queue s)))) ∧
   ∀ (x : XNum) (s : State), s.cur < 256 →
     let a := s.me.xr x
     let n := (operandReg s x 1).toNat % 2 ^ 32
     let ops := [Instr.jinit x, .jadd x, .jdone x, .jwait x]
     (x.toNat % 2 ≠ 0 → ∀ i ∈ [Instr.jinit x, .jadd x], exec i s = .next (trapped .Y 0x02 0 s)) ∧
     (∀ i ∈ ops, x.toNat % 2 = 0 ∨ i = .jdone x ∨ i = .jwait x →
       (a.getLsbD 63 = false → exec i s = .next (trapped .Y 0x14 a s)) ∧
       (a.getLsbD 63 = true → addrStall a = 0 ∨ (stallAt s a).id = 0 ∨ 64 * (stallAt s a).len < addrOffset a + 64 ∨ addrOffset a % 64 ≠ 0 →
         exec i s = .next (trapped .Y 0x13 a s)) ∧
       (a.getLsbD 63 = true → addrStall a ≠ 0 → (stallAt s a).id ≠ 0 → addrOffset a + 64 ≤ 64 * (stallAt s a).len → addrOffset a % 64 = 0 →
         ((stallAt s a).level ≠ 1 ∨ (stallAt s a).sync = false → exec i s = .next (trapped .Y 0x14 a s)) ∧
         ((stallAt s a).level = 1 → (stallAt s a).sync = true → (stallAt s a).st ≠ .active ∨ (stallAt s a).paid ≤ s.tick →
           exec i s = .next (trapped .Y 0x10 a s)))) ∧
     (∀ i ∈ ops, ∀ y j, x.toNat % 2 = 0 ∨ i = .jdone x ∨ i = .jwait x → blockAt s a y → j < 64 → tainted s a j → sound s a j →
       exec i s = .next (trapped .Y 0x32 (BitVec.ofNat 64 ((a.toNat + j) / 64 * 64)) s)) ∧
     ∀ y, blockAt s a y → sound s a 64 → settled s → s.flips = [] →
       let p := y.phys + addrOffset a
       let w := bytesToNat (s.mem.readN p 64)
       let exp := w % 2 ^ 32
       let done := w / 2 ^ 32 % 2 ^ 32
       let st := w / 2 ^ 64 % 4
       let idle := st = 0 ∨ st = 3
       let misuse := fun (i : Instr) => exec i s = .next (trapped .Y 0x31 a s)
       let keeps := fun (t : State) => t.mem = s.mem ∧ t.me.x = s.me.x ∧ t.me.pend = s.me.pend ∧ t.me.pc = s.me.pc ∧
         ∀ q, q + 64 ≤ p ∨ p + 64 ≤ q → jcbWord t q = jcbWord s q
       (x.toNat % 2 = 0 → st = 1 → misuse (.jinit x)) ∧
       (x.toNat % 2 = 0 → st ≠ 1 → ¬hasRoom s.me → exec (.jinit x) s = .next (holds .queue s)) ∧
       (x.toNat % 2 = 0 → st ≠ 1 → hasRoom s.me → (∀ e ∈ s.armed, e.1 ≠ p) → ∃ t : State, exec (.jinit x) s = .next t ∧ keeps t ∧
         t.me.evres = s.me.evres + 1 ∧
         jcbWord t p = n + (if n = 0 then 2 else 1) * 2 ^ 64 + s.myCore * 2 ^ 74 + s.cur % 4 * 2 ^ 80 ∧
         (n ≠ 0 → t.armed = s.armed ++ [(p, s.owner)] ∧ t.posts = s.posts) ∧
         (n = 0 → t.armed = s.armed ∧ (0, s.owner, mkRecord a s.station 0 0 0 4 1 0 0 s.cur) ∈ t.posts)) ∧
       (x.toNat % 2 = 0 → st ≠ 1 ∨ w.testBit (256 + s.cur) = true ∨ 2 ^ 32 ≤ exp + n → misuse (.jadd x)) ∧
       (x.toNat % 2 = 0 → st = 1 → w.testBit (256 + s.cur) = false → exp + n < 2 ^ 32 → ∃ t : State, exec (.jadd x) s = .next t ∧ keeps t ∧ jcbWord t p = w + n) ∧
       (st ≠ 1 ∨ done = exp → misuse (.jdone x)) ∧
       (st = 1 → done ≠ exp → ∃ t : State, exec (.jdone x) s = .next t ∧ keeps t ∧
         let v := jcbWord t p
         v % 2 ^ 32 = exp ∧ v / 2 ^ 32 % 2 ^ 32 = (done + 1) % 2 ^ 32 ∧ v / 2 ^ 64 % 4 = (if (done + 1) % 2 ^ 32 = exp then 2 else 1) ∧
         (∀ j, 66 ≤ j → v.testBit j = (w.testBit j || decide (j = 256 + s.cur))) ∧
         ((done + 1) % 2 ^ 32 ≠ exp → t.armed = s.armed ∧ t.posts = s.posts ∧ t.launches = s.launches) ∧
         ((done + 1) % 2 ^ 32 = exp → (∀ e ∈ t.armed, e.1 ≠ p) ∧ ∀ o, s.armed.find? (fun e => e.1 == p) = some (p, o) →
           (0, o, mkRecord a s.station 0 exp 0 4 1 0 0 o.key) ∈ t.posts)) ∧
       (idle → misuse (.jwait x)) ∧ (st = 1 → exec (.jwait x) s = .next (holds .job s)) ∧ (st = 2 → exec (.jwait x) s = .next s)) ∧
  (∀ (x : XNum) (s : State),
     let a := s.me.xr x
     let f : AccessForm := ⟨a, 256, 1, false, 256, List.range 256⟩
     let i := Instr.launch x
     (a.getLsbD 63 = false → exec i s = .next (trapped .Y 0x14 a s)) ∧
     (a.getLsbD 63 = true → outside s f → exec i s = .next (trapped .Y 0x13 a s)) ∧
     (a.getLsbD 63 = true → ¬outside s f → ¬reachable s f → exec i s = .next (trapped .Y 0x14 a s)) ∧
     (a.getLsbD 63 = true → ¬outside s f → reachable s f → ¬((stallAt s a).st = .active ∧ s.tick < (stallAt s a).paid) →
       exec i s = .next (trapped .Y 0x10 a s)) ∧
     (∀ j, admitted s f → j < 256 → tainted s a j → sound s a j →
       exec i s = .next (trapped .Y 0x32 (BitVec.ofNat 64 ((a.toNat + j) / 64 * 64)) s)) ∧
     (admitted s f → sound s a 256 →
       (uncommitted s → exec i s = .next (holds .commit s)) ∧
       (¬uncommitted s → storesLate s → exec i s = .next (holds .queue s)) ∧
       (settled s → s.flips = [] →
         let bs := s.mem.readN ((stallAt s a).phys + addrOffset a) 256
         let r := parseRecord bs
         let denied := s.me.ring = .user ∧ r.acct ≠ s.me.acct
         let full := 512 ≤ (deviceLaunches s s.me.dev).length
         (denied → exec i s = .next (trapped .Y 0x04 0 s)) ∧
         (¬denied → (s.dev s.me.dev).en = false → ∃ v t, exec i s = .next t ∧ Returns s t x 0 [v] ∧ t.launches = s.launches) ∧
         (¬denied → (s.dev s.me.dev).en = true → full → ∃ t : State, exec i s = .next t ∧ Returns s t x 0 [2] ∧ t.launches = s.launches) ∧
         (¬denied → (s.dev s.me.dev).en = true → ¬full → recordOk s s.me.dev r = true → ∃ t : State, ∃ l, exec i s = .next t ∧ Returns s t x 0 [0] ∧
           t.launch s.nextId = some l ∧ l.dev = s.me.dev ∧ l.record = r ∧ l.recAddr = a ∧ l.reporter = some s.owner ∧
           ((∀ d ∈ r.deps, d = 0) → l.stage = .eligible) ∧ ∀ id, id ≠ s.nextId → t.launch id = s.launch id))))

/-- R127, R283, R284, R285, R386, R388 to R391, R405: `trap` takes cause 0x41 with its number, at every ring. A trap at USER with a handler:
every pending write has landed; TRAPPC, TRAPMASK, TRAPCAUSE, TRAPADDR and the two transfer words are written, ACT is cleared, the
ring is DRIVER and the pc 0; with no handler the context stops toward HYP; at DRIVER it stops there with code 0x7F. `eret` at USER is
cause 0x04; at DRIVER it restores ACT, the transfers and the pc of TRAPPC; a skip goes on at the next head, or stays at an idle head with
IDLEREM above 1, which it lowers, or takes the back edge of a loop that ends there. TRAP_ENTRY takes of the pending causes the one posted
first, of several of one cycle the one of the least code. `halt` holds while a record of the context is owed or a store of it is
buffered, and then ends the leaf.
The model's readings and choices it rests on: log 18, 21, 33, 86, 140. -/
def Obligations.TrapsAndReturns : Prop :=
  ∀ (n : BitVec 6) (s : State),
    let hasHandler := (s.dev s.me.dev).dhimg ≠ 0 ∧ (s.core s.myCore).hcode ≠ []
    let landed := (s.settle s.cur).me
    let lact := fun c : Ctx => (List.range 4).map fun i => (c.lcnt.get 0 i).getLsbD 63
    let bank := fun (c : Ctx) (t : TrapBank) (code orig : Nat) (mask : Nat) (addr : Word) (async : Bool) =>
      t.pc = BitVec.ofNat 64 (c.pc.toNat / 2 * 2) ∧ t.mask.toNat = mask ∧ t.addr = addr ∧
      t.cause.toNat % 256 = code ∧ t.cause.toNat / 256 % 256 = orig ∧ t.cause.toNat / 2 ^ 16 % 2 = async.toNat ∧
      t.cause.toNat / 2 ^ 24 % 4 = (if c.ring = .user then 0 else 1) ∧
      (∀ i, i < 4 → t.cause.getLsbD (28 + i) = (lact c).getD i false) ∧ t.cause.toNat < 2 ^ 32 ∧
      (∀ d ∈ [(1, t.xa), (2, t.xb)], (∀ f, c.xfers.find? (fun f => f.at_ == c.bundle + d.1) = some f →
          d.2 = BitVec.ofNat 64 (f.target.toNat / 2 * 2 + 1)) ∧
        ((∀ f ∈ c.xfers, f.at_ ≠ c.bundle + d.1) → d.2 = 0))
    let entered := fun (t : State) (code mask : Nat) (addr : Word) (async : Bool) =>
      t.mem = s.mem ∧ t.me.ring = .driver ∧ t.me.run = s.me.run ∧ t.me.pc = 0 ∧ bank landed t.me.trapD code 0 mask addr async ∧
      t.me.trapH = s.me.trapH ∧ (∀ i, i < 4 → (t.me.lcnt.get 0 i).getLsbD 63 = false) ∧ t.me.xfers = [] ∧ t.me.pend = [] ∧
      t.me.x = landed.x ∧ t.me.v = landed.v ∧ t.me.k = landed.k ∧ t.me.flags = landed.flags ∧ t.me.evq = s.me.evq ∧
      t.me.ds = landed.ds ∧ t.me.gs = landed.gs ∧ t.me.async = s.me.async
    let stopped := fun (t : State) (code orig mask : Nat) (addr : Word) (async : Bool) =>
      t.me.run = .stopHyp ∧ t.me.ring = s.me.ring ∧ bank landed t.me.trapH code orig mask addr async ∧ t.me.trapD = landed.trapD
    let noLate := s.flips = [] ∨ ∀ a ∈ s.accesses, a.key ≠ s.cur ∨ a.agent ≠ 0
    s.me.run = .ready →
    (∃ t : State, exec (.trap n) s = .next t ∧
      (s.me.ring = .user → hasHandler → noLate → (∀ p ∈ s.me.pend, ∀ m, p.tgt ≠ .csr m) → entered t 0x41 1 (BitVec.ofNat 64 n.toNat) false) ∧
      (s.me.ring = .user → (s.dev s.me.dev).dhimg = 0 → (∀ p ∈ s.me.pend, ∀ m, p.tgt ≠ .csr m) →
        stopped t 0x41 0 1 (BitVec.ofNat 64 n.toNat) false) ∧
      (s.me.ring = .driver → stopped t 0x7F 0x41 1 (BitVec.ofNat 64 n.toNat) false)) ∧
    (s.me.ring = .user → ∀ i ∈ [Instr.eretRetry, .eretSkip], exec i s = .next (trapped .Y 0x04 0 s)) ∧
    (s.me.ring = .driver →
      (∀ g ∈ [(Instr.eretRetry, 1), (.eretSkip, 0)], ∃ t : State, exec g.1 s = .next t ∧ t.me.ring = .user ∧ t.mem = s.mem ∧ t.me.x = s.me.x ∧
        t.me.trapD = s.me.trapD ∧ (∀ k, k ≠ s.cur → t.ctx k = s.ctx k) ∧
        (∀ i, i < 4 → loopAct t.me i = s.me.trapD.cause.getLsbD (28 + i) ∧ loopCount t.me i = loopCount s.me i) ∧
        (∀ f, f ∈ t.me.xfers ↔ (s.me.trapD.xa.getLsbD 0 = true ∧ f = ⟨s.me.bundle + 1 + g.2, BitVec.ofNat 64 (s.me.trapD.xa.toNat / 2 * 2)⟩) ∨
          (s.me.trapD.xb.getLsbD 0 = true ∧ f = ⟨s.me.bundle + 2 + g.2, BitVec.ofNat 64 (s.me.trapD.xb.toNat / 2 * 2)⟩)) ∧
        let h := BitVec.ofNat 64 (s.me.trapD.pc.toNat / 2 * 2)
        let ends := fun (i : Nat) => i < 4 ∧ s.me.trapD.cause.getLsbD (28 + i) = true ∧ s.me.lend.get 0 i = h
        let user := codeOf (s.core s.myCore) .user
        let stays := (∃ m, headAt user h = .idle m) ∧ 1 < s.me.idleRem
        (g.2 = 1 → t.me.pc = h ∧ t.me.pend = s.me.pend) ∧
        (g.2 = 0 → stays → t.me.pc = h ∧ t.me.idleRem = s.me.idleRem - 1 ∧ t.me.pend = s.me.pend) ∧
        (g.2 = 0 → ¬stays → (∀ i, ¬ends i) → t.me.pc = nextHead user h ∧ t.me.pend = s.me.pend) ∧
        (g.2 = 0 → ¬stays → ∀ i, ends i → (∀ j, j ≠ i → ¬ends j) →
          (0 < loopCount s.me i → t.me.pc = s.me.lbeg.get 0 i) ∧ (loopCount s.me i = 0 → t.me.pc = nextHead user h)))) ∧
    (∀ c, noLate → s.me.trapReq = none → s.me.ring = .user → s.me.hold = none → hasHandler → (∀ p ∈ s.me.pend, ∀ m, p.tgt ≠ .csr m) →
      c ∈ s.me.async → c.cycle < s.station → c.code < 256 →
      (∀ d ∈ s.me.async, d.cycle < s.station ∧ (d = c ∨ c.cycle < d.cycle ∨ (c.cycle = d.cycle ∧ c.code < d.code))) →
      ∃ t : State, exec .trapEntry s = .next t ∧ t.me.async = s.me.async.erase c ∧ t.me.ring = .driver ∧ t.me.pc = 0 ∧
        bank landed t.me.trapD c.code 0 0 c.addr true) ∧
    (let owes := (∃ id c, (id, some c) ∈ s.cmds ∧ c.own.key = s.cur ∧ c.own.launch = s.me.launch ∧ c.accepted < s.station ∧ c.stage ≠ .posted) ∨
        (∃ e ∈ (s.core s.myCore).eng.queue, ∃ a, a < s.station ∧
          ((∃ ix p b m g, e = .call s.owner ix p b m a g) ∨ ∃ tb p, e = .load s.owner tb p a)) ∨
        ∃ c ∈ (s.core s.myCore).tack.running.toList ++ (s.core s.myCore).tack.queue, c.own = s.owner ∧ c.accepted < s.station
     owes ∨ uncommitted s → exec .halt s = .next (holds .event s)) ∧
    (s.me.sbuf = [] → (∀ a ∈ s.accesses, a.key ≠ s.cur) → (∀ e ∈ s.cmds, ∀ c, e.2 = some c → c.own.key ≠ s.cur) →
      (s.core s.myCore).eng.queue = [] → (s.core s.myCore).tack.queue = [] → (s.core s.myCore).tack.running = none →
      ∃ t : State, exec .halt s = .next t ∧ t.me.run = .ended ∧ t.me.pend = [] ∧ t.me.evq = [] ∧ t.me.evres = 0 ∧ t.me.async = [] ∧
        t.me.xfers = [] ∧ t.mem = s.mem ∧ t.me.x = s.me.x ∧
        ∀ l, s.launch s.me.launch = some l → l.id = s.me.launch → ∃ m, t.launch s.me.launch = some m ∧ m.live = l.live - 1 ∧
          (l.live ≤ 1 → m.endAt = some s.station))

/-! ### Micro-ops -/

namespace Sys2Proof.Machine

/-- The array engine of the issuing core. -/
def myEng (s : State) : Engine := (s.core s.myCore).eng

/-- The state with the engine of the issuing core replaced; nothing else changes. -/
def withEng (s : State) (e : Engine) : State := s.setCore s.myCore { s.core s.myCore with eng := e }

/-- The sequencer of the issuing core can issue a micro-op of this routine in this cycle (R150). -/
def sequences (s : State) (r : Routine) : Prop :=
  (myEng s).routine = some r ∧ r.issued < s.station ∧ r.ending = none ∧ r.marked = none ∧ (s.core s.myCore).pre = none ∧
    (s.core s.myCore).halted = none

/-- The sequencer goes on (R319), with the routine otherwise as given, over an engine as given. -/
def goesOn (s : State) (e : Engine) (r : Routine) : State :=
  withEng s { e with routine := some { r with pc := r.pc + 1, issued := s.station } }

/-- The micro-op ends the routine with ENGINE (R150, R319). -/
def endsEngine (s : State) (r : Routine) : State :=
  withEng s { myEng s with routine := some { r with ending := some (.engine r.pc), issued := s.station } }

/-- The predicate of a micro-op, read from the innermost open loop; with none open sp0 is 1 and the others are 0 (R320). -/
def predicateOn (r : Routine) : MPred → Prop
  | .always => True
  | .sp0 => (r.loops.head?.map fun l => l.sp.getD 0 false) ≠ some false
  | .sp1 => (r.loops.head?.map fun l => l.sp.getD 1 false) = some true
  | .sp2 => (r.loops.head?.map fun l => l.sp.getD 2 false) = some true
  | .sp3 => (r.loops.head?.map fun l => l.sp.getD 3 false) = some true

/-- R321: the loop that a step names is open; and the step's value. -/
def stepOpen (r : Routine) (st : Step) : Prop := st.on = true → st.level.toNat < r.loops.length
def stepBy (r : Routine) (st : Step) (p : BitVec 3) : Int :=
  if st.on = false then 0
  else match r.loops.reverse[st.level.toNat]? with
    | some l => (l.run : Int) * (BitVec.ofNat 32 (r.snap.getD p.toNat 0).toNat).toInt
    | none => 0

/-- R321: Near(P, IMM, S). -/
def nearOf (r : Routine) (st : Step) (p : BitVec 3) (imm : Int) (q : BitVec 3) : Word :=
  r.snap.getD p.toNat 0 + BitVec.ofInt 64 (imm + stepBy r st q)

/-- R150: n bytes at an address lie in a stall of the own core and of the level given that the routine locked. -/
def lockedFor (s : State) (r : Routine) (level : Nat) (a : Word) (n : Nat) : Prop :=
  let y := (s.dev r.own.dev).stall (addrStall a)
  a.getLsbD 63 = true ∧ addrStall a ∈ r.liens ∧ y.level = level ∧ y.core = s.myCore ∧ addrOffset a + n ≤ 64 * y.len

/-- The physical address of an address in a locked stall. -/
def lockedPhys (s : State) (r : Routine) (a : Word) : Nat := ((s.dev r.own.dev).stall (addrStall a)).phys + addrOffset a

/-- R321, R326: the accumulator row AccRow(PA, AROW, SA), as an address; and that n rows from it are locked. -/
def accAddr (r : Routine) (pa : BitVec 3) (row : Int) : Word :=
  let p := r.snap.getD pa.toNat 0
  stallAddr (addrStall p) (2048 * ((addrOffset p / 2048 : Nat) + row).toNat)
def accLocked (s : State) (r : Routine) (pa : BitVec 3) (row : Int) (n : Nat) : Prop :=
  addrOffset (r.snap.getD pa.toNat 0) % 2048 = 0 ∧ 0 ≤ (addrOffset (r.snap.getD pa.toNat 0) / 2048 : Nat) + row ∧
    ((addrOffset (r.snap.getD pa.toNat 0) / 2048 : Nat) + row).toNat < 2 ^ 37 ∧ lockedFor s r 0 (accAddr r pa row) (2048 * n)

/-- R150: a drain or `zero` may issue. -/
def drainIdle (e : Engine) : Prop := e.drain = none ∧ e.stream = none ∧ e.adds = []

/-- R36: a routine that has read some bytes: it keeps the address of the first poisoned granule that it ever read. -/
def noted (s : State) (r : Routine) (p n : Nat) : Routine :=
  match firstPoison s p n with
  | none => r
  | some i => { r with bad := some (r.bad.getD (granuleOf (lockedName s r (p + i)))) }

/-- R36: REASON of a record that nothing but a poisoned granule read can spoil. -/
def okOrPoison (bad : Option Word) : Nat := if bad = none then 0 else 6

/-- Every unit is idle and no add is pending (R150). -/
def allIdle (e : Engine) : Prop := drainIdle e ∧ e.loader = none ∧ e.mload = none ∧ e.replay = []

end Sys2Proof.Machine

/-- R143, R150 to R152, R319, R320, R322: the micro-ops that form no address: no micro-op issues without a routine; one whose predicate
is off takes its cycle and does nothing; `loop`, `endl` and `prot` keep the open loops and their stage predicates; `swap` waits for the
loader and the streamer and exchanges the planes; `post` waits for an entry of the event queue; `end` waits until every unit is idle,
and its record has REASON POISON where the routine read a poisoned granule, whose address is ADDR (R36).
That the entry of a routine leaves the queue of four at its end, and not at its start, is log 26 (DEDUCED). The model's readings and
choices it rests on: log 26, 49, 157. -/
def Obligations.SequencerMicroOps : Prop :=
  ∀ (p : MPred) (cp : Bool) (e : BitVec 2) (par : BitVec 3) (cnt code : BitVec 16) (s : State),
    let g := myEng s
    (g.routine = none → ∀ i ∈ [Instr.microEnd p, .microLoop cp e par cnt, .endl, .prot, .swap p, .post p code], exec i s = .next s) ∧
    ∀ r, sequences s r →
      (¬predicateOn r p → ∀ i ∈ [Instr.microEnd p, .swap p, .post p code], exec i s = .next (goesOn s g r)) ∧
      (let c := if cp = true then (r.snap.getD par.toNat 0).toNat % 2 ^ 16 else cnt.toNat
       (c = 0 ∨ 4 ≤ r.loops.length → exec (.microLoop cp e par cnt) s = .next (endsEngine s r)) ∧
       (c ≠ 0 → r.loops.length < 4 → exec (.microLoop cp e par cnt) s = .next (goesOn s g { r with
         loops := ⟨r.pc + 1, c, c + e.toNat, 0, [true, false, false, false]⟩ :: r.loops }))) ∧
      (r.loops = [] → exec .endl s = .next (endsEngine s r) ∧ exec .prot s = .next (endsEngine s r)) ∧
      (∀ l rest, r.loops = l :: rest →
        (l.run + 1 < l.total → 0 < l.body → exec .endl s = .next (withEng s { g with routine := some { r with
          pc := l.body, issued := s.station, loops := { l with run := l.run + 1 } :: rest } })) ∧
        (l.total ≤ l.run + 1 → exec .endl s = .next (goesOn s g { r with loops := rest })) ∧
        exec .prot s = .next (goesOn s g { r with loops := { l with sp := decide (l.run + 1 < l.count) :: l.sp.take 3 } :: rest })) ∧
      (predicateOn r p →
        (g.loader ≠ none ∨ g.stream ≠ none → exec (.swap p) s = .next s) ∧
        (g.loader = none → g.stream = none → exec (.swap p) s = .next (goesOn s { g with
          active := g.shadow, shadow := g.active, actSrc := g.shaSrc, shaSrc := g.actSrc } r)) ∧
        (let o := s.ctx r.own.key
         o.launch = r.own.launch → o.run = .ready →
          (64 ≤ o.evq.length + o.evres → exec (.post p code) s = .next s) ∧
          (o.evq.length + o.evres < 64 → ∃ t : State, exec (.post p code) s = .next t ∧ t.cores = (goesOn s g r).cores ∧ t.mem = s.mem ∧
            (t.ctx r.own.key).evq = o.evq ++ [mkRecord 0 s.station 0 code.toNat 0 1 2 0 0 r.own.key] ∧
            (t.ctx r.own.key).evres = o.evres ∧ ∀ k, k ≠ r.own.key → t.ctx k = s.ctx k) ∧
          (¬allIdle g → exec (.microEnd p) s = .next s) ∧
          (allIdle g → ∃ t : State, exec (.microEnd p) s = .next t ∧ (myEng t).routine = none ∧ (myEng t).queue = g.queue.drop 1 ∧ t.mem = s.mem ∧
            (t.ctx r.own.key).evq = o.evq ++ [mkRecord (r.bad.getD 0) r.start 0 r.idx 0 1 1 (okOrPoison r.bad) 0 r.own.key] ∧
            t.releases = s.releases ++ [(r.own.dev, r.liens)])))

/-- R90, R142, R150, R153, R321, R323 to R325: `ldst`, `wcfg` and `strm`: they wait for their unit; they end the routine where the step
names no open loop, the layer or the window is not there, or a byte, a window's row or an accumulator row lies outside the stalls that
the routine locked; else the loader, the window or the streamer is set from the addresses formed, and the sequencer goes on. A poisoned window block is noted for
the record (R36).
The model's readings and choices it rests on: log 10, 25, 32, 135, 157. -/
def Obligations.LoadAndStreamMicroOps : Prop :=
  ∀ (p : MPred) (st : Step) (layer : BitVec 2) (src q sa sw : BitVec 3) (imm : BitVec 24) (m : BitVec 16) (row : BitVec 10)
    (wofs : BitVec 17) (s : State) (r : Routine), sequences s r → predicateOn r p →
    let g := myEng s
    let tern := decide (g.mfmt % 4 = 0)
    let planes := max 1 (g.mfmt % 4)
    let a := nearOf r st src imm.toInt q
    let x := lockedPhys s r a
    (g.loader ≠ none → exec (.ldst p st layer src q imm) s = .next s) ∧
    (g.loader = none → planes ≤ layer.toNat ∨ ¬stepOpen r st ∨ ¬lockedFor s r 1 a (512 * if tern = true then 103 else 256) →
      exec (.ldst p st layer src q imm) s = .next (endsEngine s r)) ∧
    (g.loader = none → layer.toNat < planes → stepOpen r st → lockedFor s r 1 a (512 * if tern = true then 103 else 256) →
      exec (.ldst p st layer src q imm) s = .next (goesOn s { g with loader := some ⟨layer.toNat, x, tern, 0, none⟩,
                                                                       shaSrc := g.shaSrc.set 0 layer.toNat (2 * x + tern.toNat + 1) } r)) ∧
    (g.stream ≠ none → exec (.wcfg p st src q imm) s = .next s ∧ exec (.strm p st m src row sa sw wofs) s = .next s) ∧
    (∀ (w : Window) (a b c d i : Nat) (p q t u : Int), w.cnt = [a, b, c, d] → w.str = [p, q, t, u] → 0 < a → 0 < b → 0 < c → 0 < d →
      windowOffset w i = ((i % a : Nat) : Int) * p + ((i / a % b : Nat) : Int) * q + ((i / (a * b) % c : Nat) : Int) * t +
        ((i / (a * b * c) % d : Nat) : Int) * u) ∧
    (g.stream = none →
      (let u := s.scan x 64
       let bs := u.mem.readN x 64
       let fld := fun (o n : Nat) => bytesToNat ((bs.drop o).take n)
       let w : Window := { wbase := fld 0 8, len := fld 8 2, cnt := (List.range 4).map fun i => fld (16 + 2 * i) 2,
                           str := (List.range 4).map fun i => (BitVec.ofNat 32 (fld (24 + 4 * i) 4)).toInt }
       let good := stepOpen r st ∧ lockedFor s r 1 a 64 ∧ addrOffset a % 64 = 0 ∧ 1 ≤ w.len ∧ w.len ≤ 512 ∧ (∀ c ∈ w.cnt, c ≠ 0) ∧
         fld 10 6 = 0 ∧ fld 40 24 = 0
       (¬good → exec (.wcfg p st src q imm) s = .next (endsEngine s r)) ∧
       let rows := ∀ i, i < (w.cnt.foldl (fun (a b : Nat) => a * b) 1) →
         lockedFor s r 1 (BitVec.ofNat 64 w.wbase + BitVec.ofInt 64 (windowOffset w i)) w.len
       (good → rows → exec (.wcfg p st src q imm) s = .next (goesOn u { g with window := w } (noted s r x 64))) ∧
       (good → ¬rows → exec (.wcfg p st src q imm) s = .next (endsEngine s r))) ∧
      (let off := fun (i : Nat) => windowOffset g.window i
       let base : Word := BitVec.ofNat 64 g.window.wbase + BitVec.ofInt 64 (wofs.toInt + stepBy r st sw)
       let acc := (row.toNat : Int) + stepBy r st sa
       let good := stepOpen r st ∧ g.window.len ≠ 0 ∧ m ≠ 0 ∧
         (∀ i, i < m.toNat → lockedFor s r 1 (base + BitVec.ofInt 64 (off i)) g.window.len)
       (good → accLocked s r src acc m.toNat → exec (.strm p st m src row sa sw wofs) s = .next (goesOn s { g with
         stream := some ⟨s.station, m.toNat, 0, lockedPhys s r (accAddr r src acc), base, r.own.dev, planes⟩ } r)) ∧
       (¬good ∨ ¬accLocked s r src acc m.toNat → exec (.strm p st m src row sa sw wofs) s = .next (endsEngine s r))))

/-- R150, R155 to R158, R321, R326, R327: `zero` and the drains: they wait for the drain unit, the streamer and the adds; they end the
routine where a step names no open loop, an accumulator row, the correction row or a destination byte lies outside the locked stalls, or
a field is one that R327 makes an ENGINE ending; else the drain unit has the rows, the destination, and the scale registers and the routing register as they stand at the issue, and where
the correction row is poisoned that too (R36).
The model's readings and choices it rests on: log 10, 29, 157. -/
def Obligations.DrainMicroOps : Prop :=
  ∀ (p : MPred) (st : Step) (pa sa pd sd b1 b2 pz : BitVec 3) (row n10 : BitVec 10) (n9 : BitVec 9) (conv rt : BitVec 2) (w16 : Bool)
    (s : State) (r : Routine), sequences s r → predicateOn r p →
    let g := myEng s
    let sc := fun (i : Nat) => (s.core s.myCore).sc.get 0 i
    let k := (row.toNat : Int) + stepBy r st sa
    let acc := lockedPhys s r (accAddr r pa k)
    let a := nearOf r st pd 0 sd
    let dst := some (lockedPhys s r a, a)
    let pzw := (r.snap.getD pz.toNat 0).toNat
    let z := (BitVec.ofNat 16 pzw).toInt
    let cAddr := accAddr r pa (pzw / 2 ^ 16 % 2 ^ 10)
    let cOk := pzw / 2 ^ 26 = 0 ∧ accLocked s r pa (pzw / 2 ^ 16 % 2 ^ 10 : Nat) 1
    let u := s.scan (lockedPhys s r cAddr) 2048
    let crow := (List.range 512).map fun n => (BitVec.ofNat 32 (bytesToNat (u.mem.readN (lockedPhys s r cAddr) 2048) / 2 ^ (32 * n))).toInt
    let rw := (s.core s.myCore).rt.get 0 rt.toNat
    let n := n9.toNat + 1
    let zero := Instr.microZero p st pa row sa n10
    let drn := Instr.drn p st pa row sa pd sd n9 b1 b2
    let drnq := Instr.drnq p st pa row sa pd sd n9 b1 b2 pz w16
    let drnx := Instr.drnx p st pa row sa conv rt n9 b1 b2 pz w16
    let go := fun (d : Drain) => goesOn s { g with drain := some d } r
    let goQ := fun (d : Drain) => goesOn u { g with drain := some d } (noted s r (lockedPhys s r cAddr) 2048)
    let bad := (firstPoison s (lockedPhys s r cAddr) 2048).isSome
    let width := if w16 = true then 1024 else 512
    (¬drainIdle g → ∀ i ∈ [zero, drn, drnq, drnx], exec i s = .next s) ∧
    (drainIdle g → ¬stepOpen r st → ∀ i ∈ [zero, drn, drnq, drnx], exec i s = .next (endsEngine s r)) ∧
    (drainIdle g → stepOpen r st →
      (accLocked s r pa k (n10.toNat + 1) → exec zero s = .next (go { kind := .zero, rows := n10.toNat + 1, acc := acc })) ∧
      (accLocked s r pa k n →
        (lockedFor s r 1 a (2048 * n) →
          exec drn s = .next (go { kind := .f32, rows := n, acc := acc, dst := dst, sc1 := sc b1.toNat, sc2 := sc b2.toNat })) ∧
        (¬lockedFor s r 1 a (2048 * n) → exec drn s = .next (endsEngine s r)) ∧
        (b1.toNat % 2 = 0 → cOk → lockedFor s r 1 a (width * n) →
          let d : Drain := { kind := .quant, rows := n, acc := acc, dst := dst, sc1 := sc b1.toNat, sc2 := sc (b1.toNat + 1),
                             sc3 := sc b2.toNat, crow := crow, z := z, w16 := w16, bad := bad }
          exec drnq s = .next (goQ d)) ∧
        (¬lockedFor s r 1 a (width * n) ∨ ¬cOk ∨ b1.toNat % 2 = 1 → exec drnq s = .next (endsEngine s r)) ∧
        (conv = 3 ∨ (conv = 2 ∧ (¬cOk ∨ b1.toNat % 2 = 1)) → exec drnx s = .next (endsEngine s r)) ∧
        (rw.toNat / 8 % 2 ^ 29 ≠ 0 → exec drnx s = .next (endsEngine s r)) ∧
        (rw.toNat / 8 % 2 ^ 29 = 0 →
          (conv = 0 → exec drnx s = .next (go { kind := .raw, rows := n, acc := acc, rt := rw })) ∧
          (conv = 1 → exec drnx s = .next (go { kind := .f32, rows := n, acc := acc, rt := rw, sc1 := sc b1.toNat, sc2 := sc b2.toNat })) ∧
          (conv = 2 → b1.toNat % 2 = 0 → cOk → exec drnx s = .next (goQ
            { kind := .quant, rows := n, acc := acc, rt := rw, sc1 := sc b1.toNat, sc2 := sc (b1.toNat + 1), sc3 := sc b2.toNat,
              crow := crow, z := z, w16 := w16, bad := bad }))))) ∧
    (drainIdle g → ¬accLocked s r pa k (n10.toNat + 1) → exec zero s = .next (endsEngine s r)) ∧
    (drainIdle g → ¬accLocked s r pa k n → ∀ i ∈ [drn, drnq, drnx], exec i s = .next (endsEngine s r))

/-! ### Engine steps -/

namespace Sys2Proof.Machine

/-- The context of an owner runs on its core, so that records and causes reach it there. -/
def onCore (s : State) (o : Owner) : Prop := (s.ctx o.key).launch = o.launch ∧ (s.ctx o.key).run = .ready

/-- R274: a record was posted into a reservation of the owner's event queue. -/
def Posted (s t : State) (o : Owner) (r : Record) : Prop :=
  (t.ctx o.key).evq = (s.ctx o.key).evq ++ [r] ∧ (t.ctx o.key).evres = (s.ctx o.key).evres - 1

/-- R388: an asynchronous cause waits at the owner's context. -/
def Waits (s t : State) (o : Owner) (code : Nat) (a : Word) : Prop :=
  (t.ctx o.key).async = (s.ctx o.key).async ++ [{ cycle := s.station, code := code, addr := a }]

/-- R426: a record of the array engine with its CMD, COUNT, START, ADDR, REASON and STATUS. -/
def arrayRecord (o : Owner) (cmd count start : Nat) (a : Word) (reason status : Nat) : Record :=
  mkRecord a start 0 count 0 1 cmd reason status o.key

/-- A stall address that a snapshot names. -/
def names (snap : List Word) (v : Word) : Prop := v ∈ snap ∧ v.getLsbD 63 = true ∧ addrStall v ≠ 0

/-- R26, R148: the reason for which an address fails as a stall of the own core at the levels given; none where it is good. -/
def nearFault (s : State) (dev : Nat) (levels : List Nat) (v : Word) : Option Nat :=
  let y := (s.view dev).stall (addrStall v)
  if v.getLsbD 63 = false then some 5
  else if y.id = 0 then some 1
  else if y.level ∉ levels ∨ y.core ≠ s.myCore then some 5
  else if y.st = .active ∧ s.tick < y.paid then none
  else some 2

/-- The i-th column of an accumulator row in memory (R140). -/
def column (m : Memory) (row j : Nat) : Int := (BitVec.ofNat 32 (bytesToNat (m.readN (row + 4 * j) 4))).toInt

/-- The issuing core goes on: it stops for no pre-emption and its partition is not halted (R386, R392). -/
def coreGoes (s : State) : Prop := (s.core s.myCore).pre = none ∧ (s.core s.myCore).halted = none

end Sys2Proof.Machine

/-- R112, R144, R146, R148 to R150, R154, R158, R317, R318: the steps of the array engine: an add reaches its accumulator row; a
routine starts, fails its start, misses its start cycle, ends for ENGINE or TIMING, or is halted; an `mcfg` or `mload` takes its drain
slot; an `mload` completes. Each posts the record of the rules to the context that issued it; one that ended well and had read a
poisoned granule has REASON POISON and its address, and rows that a poisoned source went into are marked (R36).
The model's readings and choices it rests on: log 10, 11, 26, 27, 28, 49, 50, 113, 136, 143, 157. -/
def Obligations.EngineEvents : Prop :=
  ∀ (s : State),
    let g := myEng s
    let n := s.myCore
    -- an add whose cycle has come
    (∀ a rest, g.adds = a :: rest → a.cycle = s.station → (∀ b ∈ rest, s.station < b.cycle) → a.vals.length = 512 →
      ∃ t : State, exec .accumulatorAdd s = .next t ∧ (myEng t).adds = rest ∧
        (∀ r, g.routine = some r → (myEng t).routine = some (noted s r a.row 2048)) ∧
        let u := s.scan a.row 2048
        (∀ k, k ∈ t.poison ↔ k ∈ u.poison ∨ (a.bad = true ∧ a.row / 64 ≤ k ∧ 64 * k < a.row + 2048)) ∧
        (∀ q, q < a.row ∨ a.row + 2048 ≤ q → t.mem.read q = u.mem.read q) ∧
        let clips := fun (j : Nat) => g.mfmt / 16 % 2 = 1 ∧
          (column u.mem a.row j + a.vals.getD j 0 < -2147483648 ∨ 2147483647 < column u.mem a.row j + a.vals.getD j 0)
        (∀ j, j < 512 →
          (g.mfmt / 16 % 2 = 1 → column t.mem a.row j =
            max (-2147483648) (min 2147483647 (column u.mem a.row j + a.vals.getD j 0))) ∧
          (g.mfmt / 16 % 2 = 0 → (column t.mem a.row j - (column u.mem a.row j + a.vals.getD j 0)) % 2 ^ 32 = 0)) ∧
        (∀ r, g.routine = some r → onCore s r.own →
          ((∃ j, j < 512 ∧ clips j) → (t.ctx r.own.key).mstat = Nat.lor (s.ctx r.own.key).mstat 2) ∧
          (¬(∃ j, j < 512 ∧ clips j) → (t.ctx r.own.key).mstat = (s.ctx r.own.key).mstat))) ∧
    -- a routine at the head starts, or fails its checks
    (∀ own idx snap timed at_ accepted mark rest, g.queue = .call own idx snap timed at_ accepted mark :: rest →
      callReady s n own snap accepted mark = true → (timed = true → at_ = s.station) → onCore s own →
      (s.ctx own.key).async.length < 16 →
      let w := g.table.get 0 idx
      ((∀ v, names snap v → nearFault s own.dev [0, 1] v = none ∧ ((s.view own.dev).stall (addrStall v)).id = addrStall v) →
        (w / 2 ^ 10 % 2 ^ 6 = 32 → ∃ t : State, ∃ ids, exec .routineStart s = .next t ∧ (∀ i, i ∈ ids ↔ ∃ v, names snap v ∧ addrStall v = i) ∧
          (myEng t).routine = some { own := own, idx := idx, snap := snap, start := s.station, pc := w % 2 ^ 10, liens := ids,
                                     issued := s.station } ∧
          t.devs = (s.placeLiens own.dev ids).devs ∧ (myEng t).queue = g.queue ∧ t.mem = s.mem ∧ t.ctxs = s.ctxs) ∧
        (w / 2 ^ 10 % 2 ^ 6 ≠ 32 → ∃ t : State, exec .routineStart s = .next t ∧ (myEng t).queue = rest ∧ (myEng t).routine = none ∧
          Posted s t own (arrayRecord own 1 idx s.station (BitVec.ofNat 64 idx) 9 0) ∧ Waits s t own 0x21 (BitVec.ofNat 64 idx) ∧
          t.mem = s.mem ∧ t.devs = s.devs)) ∧
      (∀ pre v post reason, snap = pre ++ v :: post → names snap v → nearFault s own.dev [0, 1] v = some reason →
        (∀ u, names pre u → nearFault s own.dev [0, 1] u = none) →
        ∃ t : State, exec .routineStart s = .next t ∧ (myEng t).queue = rest ∧ (myEng t).routine = none ∧
          Posted s t own (arrayRecord own 1 idx s.station v reason 0) ∧ t.mem = s.mem ∧ t.devs = s.devs)) ∧
    -- a timed `mcall` that has missed its start cycle
    (∀ pre own idx snap at_ accepted mark rest, g.queue = pre ++ .call own idx snap true at_ accepted mark :: rest →
      (∀ o i p b c d, MEntry.call o i p true b c d ∉ pre) → coreGoes s → onCore s own → (s.ctx own.key).async.length < 16 →
      accepted < s.station →
      (pre = [] → g.routine = none ∧ g.mload = none ∧ at_ ≤ s.station ∧ (at_ = s.station → callReady s n own snap accepted mark = false)) →
      (pre ≠ [] → at_ ≤ accepted ∨ at_ = s.station) →
      ∃ t : State, exec .routineTimingFailure s = .next t ∧ (myEng t).queue = pre ++ rest ∧
        Posted s t own (arrayRecord own 1 idx at_ 0 7 0) ∧ Waits s t own 0x20 0 ∧ t.mem = s.mem) ∧
    -- a routine ends
    (∀ r, g.routine = some r → onCore s r.own → (s.ctx r.own.key).async.length < 16 →
      (∀ a, r.ending = some (.engine a) → allIdle g →
        ∃ t : State, exec .routineEngineEnding s = .next t ∧ (myEng t).routine = none ∧ (myEng t).queue = g.queue.drop 1 ∧ t.mem = s.mem ∧
          t.releases = s.releases ++ [(r.own.dev, r.liens)] ∧
          Posted s t r.own (arrayRecord r.own 1 r.idx r.start (BitVec.ofNat 64 a) 9 0) ∧ Waits s t r.own 0x21 (BitVec.ofNat 64 a)) ∧
      (r.ending = some .timing → allIdle g →
        ∃ t : State, exec .routineEngineEnding s = .next t ∧ (myEng t).routine = none ∧ (myEng t).queue = g.queue.drop 1 ∧ t.mem = s.mem ∧
          t.releases = s.releases ++ [(r.own.dev, r.liens)] ∧
          Posted s t r.own (arrayRecord r.own 1 r.idx r.start 0 7 0) ∧ Waits s t r.own 0x20 0) ∧
      (r.ending ≠ none → ¬allIdle g → exec .routineEngineEnding s = .next s) ∧
      (∀ m, r.marked = some m → m < s.station → drainIdle g →
        ∃ t : State, exec .routineHalted s = .next t ∧ (myEng t).routine = none ∧ (myEng t).loader = none ∧ t.mem = s.mem ∧
          (∀ e, e ∈ (myEng t).queue ↔ e ∈ g.queue.drop 1 ∧
            ∀ o a, e = .halt o a → ¬(o.key = r.own.key ∧ o.launch = r.own.launch)) ∧
          t.releases = s.releases ++ [(r.own.dev, r.liens)] ∧ Posted s t r.own (arrayRecord r.own 1 r.idx r.start (r.bad.getD 0) (okOrPoison r.bad) 5))) ∧
    (∀ o a rest, g.routine = none → g.queue = .halt o a :: rest → a < s.station → (∀ p b, MEntry.halt p b ∉ rest) →
      ∃ t : State, exec .routineHalted s = .next t ∧ (myEng t).queue = rest ∧ t.mem = s.mem ∧ t.ctxs = s.ctxs) ∧
    -- the drain slot
    (g.routine = none → allIdle g → coreGoes s →
      (∀ m a rest, g.queue = .cfg m a :: rest → a < s.station → ∃ t : State, exec .drainSlot s = .next t ∧
        myEng t = { g with queue := rest, mfmt := m, finished := s.station } ∧ t.mem = s.mem ∧ t.ctxs = s.ctxs) ∧
      (∀ own table snap a rest, g.queue = .load own table snap a :: rest → a < s.station → onCore s own →
        let v := snap.getD 0 0
        let p := (snap.getD 1 0).toNat
        let first := p % 2 ^ 10
        let count := p / 2 ^ 16 % 2 ^ 11
        let bytes := if table = true then 2 else 8
        let y := (s.view own.dev).stall (addrStall v)
        let bad := count = 0 ∨ (if table = true then 64 else 1024) < first + count ∨ p / 2 ^ 10 % 2 ^ 6 ≠ 0 ∨ p / 2 ^ 27 ≠ 0
        let fails := fun (reason : Nat) (addr : Word) => ∃ t : State, exec .drainSlot s = .next t ∧ (myEng t).queue = rest ∧ (myEng t).mload = none ∧
          Posted s t own (arrayRecord own 3 0 s.station addr reason 0) ∧ t.mem = s.mem ∧ t.devs = s.devs
        (bad → fails 8 0) ∧
        (¬bad → ∀ reason, nearFault s own.dev [1] v = some reason → fails reason v) ∧
        (¬bad → nearFault s own.dev [1] v = none → 64 * y.len < addrOffset v + count * bytes → fails 1 v) ∧
        (¬bad → nearFault s own.dev [1] v = none → addrOffset v + count * bytes ≤ 64 * y.len → lienRoom (s.dev own.dev) [y.id] = false →
          exec .drainSlot s = .next s) ∧
        (¬bad → nearFault s own.dev [1] v = none → addrOffset v + count * bytes ≤ 64 * y.len → lienRoom (s.dev own.dev) [y.id] = true →
          ∃ t : State, exec .drainSlot s = .next t ∧ (myEng t).mload = some ⟨own, table, y.phys + addrOffset v, first, count, 0, s.station, y.id, none⟩ ∧
            (myEng t).queue = g.queue ∧ t.devs = (s.placeLiens own.dev [y.id]).devs ∧ t.mem = s.mem ∧ t.ctxs = s.ctxs))) ∧
    -- an `mload` whose last entry is written
    (∀ l, g.mload = some l → l.count ≤ l.done → onCore s l.own →
      ∃ t : State, exec .mloadComplete s = .next t ∧ (myEng t).mload = none ∧ (myEng t).queue = g.queue.drop 1 ∧
        t.releases = s.releases ++ [(l.own.dev, [l.lien])] ∧ Posted s t l.own (arrayRecord l.own 3 l.count l.start (l.bad.getD 0) (okOrPoison l.bad) 0) ∧
        t.mem = s.mem)

/-! ### Steps of D and G commands -/

namespace Sys2Proof.Machine

/-- The command named stands in the state. -/
def isCmd (s : State) (id : Nat) (c : Cmd) : Prop := s.cmd id = some c ∧ c.id = id

/-- R386, R397: commands of the core start: its partition is not halted, and the engines are not stopped in a shed, as they are from the third
step of shed entry on. -/
def commandsGo (s : State) (c : Cmd) : Prop := (s.core (keyCore c.own.key)).halted = none ∧ (s.shed = .running ∨ s.shed = .entering)

/-- R69: the command stands at the head of its queue on its core, which no other has left in this cycle, and was accepted before this
cycle. -/
def atHead (s : State) (c : Cmd) : Prop :=
  onCore s c.own ∧ (if c.group = true then (s.ctx c.own.key).gq else (s.ctx c.own.key).dq).head? = some c.id ∧ c.accepted < s.station ∧
    (if c.group = true then (s.ctx c.own.key).gleft else (s.ctx c.own.key).dleft) ≠ s.station + 1

/-- R71, R216: the start cycle that a command states. -/
def statedStart (c : Cmd) : Nat :=
  if c.group = true ∧ c.code = 9 then (c.st.getD 1 0).toNat % 2 ^ 54 * 1024 else c.tstart + (c.st.getD 7 0).toNat % 2 ^ 32

/-- R76, R348: the record of a command, for the context that its staging register 6 or its own syllable names (R77). -/
def recordOf (c : Cmd) (start count : Nat) (a : Word) (reason status : Nat) : Owner × Record :=
  ({ key := c.rkey, launch := c.own.launch, dev := c.own.dev },
    mkRecord a start c.cookie count c.seq (if c.group = true then 2 else 0) c.code reason status c.own.key)

/-- R77: one record more is handed in for this cycle, and none is lost. -/
def HandedIn (s t : State) (e : Owner × Record) : Prop :=
  ∃ l r k, s.posts = l ++ r ∧ t.posts = l ++ (k, e) :: r

/-- R26, R71, R75: the command ends without a start: it is gone from its queue, and its record is handed in. -/
def EndsUnstarted (s t : State) (c : Cmd) (start : Nat) (a : Word) (reason status : Nat) : Prop :=
  t.cmd c.id = none ∧ (t.ctx c.own.key).dq = (s.ctx c.own.key).dq.filter (· ≠ c.id) ∧
    (t.ctx c.own.key).gq = (s.ctx c.own.key).gq.filter (· ≠ c.id) ∧ HandedIn s t (recordOf c start 0 a reason status) ∧
    t.mem = s.mem ∧ t.devs = s.devs ∧ t.xfers = s.xfers

/-- R76: the command ends after its start: its record is handed in, its liens are released, its requests are gone. -/
def EndsStarted (s t : State) (c : Cmd) (count : Nat) (a : Word) (reason status : Nat) : Prop :=
  (t.cmd c.id).map (·.stage) = some .posted ∧ HandedIn s t (recordOf c c.start count a reason status) ∧
    (c.own.dev, c.liens) ∈ t.releases ∧ ∀ x ∈ t.xfers, x.cmd ≠ c.id

/-- R76: what of that holds also where something else ends in the same step. -/
def EndsAtLeast (t : State) (c : Cmd) (count : Nat) (a : Word) (reason status : Nat) : Prop :=
  (t.cmd c.id).map (·.stage) = some .posted ∧ (∃ k, (k, recordOf c c.start count a reason status) ∈ t.posts) ∧
    (c.own.dev, c.liens) ∈ t.releases ∧ ∀ x ∈ t.xfers, x.cmd ≠ c.id

/-- Nothing comes for a receive: no message is under way to it, and no bytes are on their way to its destination. -/
def nothingComes (s : State) (recv : Nat) : Prop := (∀ x ∈ s.xfers, x.job ≠ recv) ∧ ∀ m ∈ s.msgs, m.recv ≠ some recv

/-- R24, R26, R32: the translation of a page: one that the command holds, or else one of the die's cache. -/
def translationOf (s : State) (c : Cmd) (page : Nat) : Option TEntry :=
  match c.got.find? fun e => e.dev == c.own.dev && e.page == page with
  | some e => some e
  | none => cached s (keyCore c.own.key / 16) c.own.dev page

/-- R24, R26: a step of translation finds its page, with the permissions it needs. -/
def pageFound (s : State) (c : Cmd) : TStep → Prop
  | .stop _ _ => False
  | .page k _ p => ∃ e, translationOf s c k = some e ∧ Nat.land p e.perm = p

/-- The requests of a state with one of them in its new form. -/
def withRequest (s : State) (x : Xfer) : List Xfer := s.xfers.map fun y => if y.id = x.id then x else y

/-- The requests of a state with those of a list in a new form: the last of a number stands for it. -/
def withEach (s : State) (l : List Xfer) (f : Xfer → Xfer) : List Xfer :=
  s.xfers.map fun z => match l.reverse.find? fun y => y.id == z.id with | some y => f y | none => z

/-- A request writes a byte of memory. -/
def writesByte (x : Xfer) (q : Nat) : Prop := ∃ d, x.dst = some d ∧ d.phys ≤ q ∧ q < d.phys + x.bytes

/-- R336: the copy that a request belongs to reads this byte too. -/
def readToo (s : State) (x : Xfer) (q : Nat) : Prop := ∃ e, s.cmd x.cmd = some e ∧ ∃ r ∈ overlapRuns s e, r.lo ≤ q ∧ q < r.hi

/-- R28, R29, R406: the packet that a request begins can perform: no earlier one of the core waits for its block, and its device's share of
the stack, where it is used up, does not let others go first. -/
def packetGoes (s : State) (x : Xfer) (p : Nat) : Prop :=
  x.tag = true ∧ x.part.1 = 0 ∧ blockBusy s x p = false ∧ shareWaits s x.own.dev p = false

/-- R28, R29, R34, R36, R69, R82, R87, R336, R338, R339: the steps of a request of a transfer: a tag for its packet, of which a core has
2,048; the packet that reads, writes or updates the bytes of memory, what it reads scanned for soft errors; the reply that frees its tag or
ends the command; and the engine's own port for a near side. -/
def RequestSteps (id : Nat) (s : State) (c : Cmd) (x : Xfer) : Prop :=
  let mates := packetOf s x
  (∀ p, x.src = some (.far p) → x.st = .toRead → packetGoes s x p →
    let u := s.scan p x.packet.2
    let read := fun (y : Xfer) =>
      { y with data := match y.src with | some l => u.mem.readN l.phys y.bytes | none => []
               poison := (firstPoison u p x.packet.2).isSome, st := XSt.readDone, born := s.station }
    ((∀ y ∈ mates, y.atom = none ∧ y.ref = none ∧ y.src ≠ none) →
      ∃ t : State, exec (.packetPerform x.id) s = .next t ∧ t.xfers = withEach s mates read ∧ t.mem = u.mem) ∧
    (∀ op wide a b, mates = [x] → x.ref = none → x.atom = some (op, wide, a, b) → x.bytes = (if wide = true then 8 else 4) →
      ∃ t : State, exec (.packetPerform x.id) s = .next t ∧ t.xfers = withEach s mates read ∧
        bytesToNat (t.mem.readN p x.bytes) = (atomNew op (8 * x.bytes) (bytesToNat (u.mem.readN p x.bytes)) a b).1 % 2 ^ (8 * x.bytes) ∧
        ∀ q, q < p ∨ p + x.bytes ≤ q → t.mem.read q = u.mem.read q)) ∧
  (∀ p, x.dst = some (.far p) → x.st = .haveData → packetGoes s x p → (∀ y ∈ mates, y.data.length = y.bytes ∧ y.dst ≠ none) →
    ∃ t : State, exec (.packetPerform x.id) s = .next t ∧
      t.xfers = withEach s mates (fun y => { y with st := .written, born := s.station }) ∧
      (∀ q, (∀ y ∈ mates, ¬writesByte y q) → t.mem.read q = s.mem.read q) ∧
      ∀ y ∈ mates, ∀ d, y.dst = some d → ∀ i, i < y.bytes →
        ((∀ z ∈ mates, z ≠ y → ¬writesByte z (d.phys + i)) → ¬readToo s y (d.phys + i) → t.mem.read (d.phys + i) = y.data.getD i 0) ∧
        (y.poison = true → (d.phys + i) / 64 ∈ t.poison)) ∧
  (wantsTag s x = true →
    (tagsUsed s x.core < 2048 → (s.issueTag x.id).xfers = s.xfers.map fun y =>
      if (packetMates s x).any (fun z => z.id == y.id) = true then { y with tag := true, issued := s.nextId } else y) ∧
    (2048 ≤ tagsUsed s x.core → s.issueTag x.id = s)) ∧
  (x.born < s.station → x.st = .readDone → x.tag = true → x.packet.1 = 0 → (mates.map (·.id)).Nodup →
    (∀ y ∈ mates, y.st = .readDone ∧ y.atom = none ∧ y.dst ≠ none) →
    exec (.packetReply x.id) s = .next { s with
      xfers := withEach s mates (fun y => { y with tag := false, born := s.station, st := .haveData }) }) ∧
  (x.born < s.station → x.st = .written → x.wpacket.1 = 0 → c.code ≠ 7 →
    let group := if x.tag = true then mates else [x]
    (group.map (·.id)).Nodup → (∀ y ∈ group, y.st = .written ∧ y.agent = 2 ∧ y.ref = none ∧ y.atom = none) →
    (∀ y ∈ s.xfers, y.job = id → (∀ z ∈ group, z.id ≠ y.id) → y.st = .done) →
    let n := fun (lo w : Nat) => (c.st.getD 2 0).toNat / 2 ^ lo % 2 ^ w
    ∃ t : State, ∃ (count : Nat) (a : Word) (reason : Nat), exec (.packetReply x.id) s = .next t ∧ EndsStarted s t c count a reason 0 ∧ t.mem = s.mem ∧
      (c.code = 1 ∨ c.code = 5 → count = n 0 25) ∧ (c.code = 2 → count = n 0 25 * n 32 25) ∧
      (c.code = 3 ∨ c.code = 4 → count = n 0 13 * n 32 25) ∧ (c.code = 6 → count = 0) ∧
      (c.bad = none → reason = 0 ∧ a = 0) ∧ (∀ b, c.bad = some b → reason = 6 ∧ a = b.2)) ∧
  (∀ p, x.src = some (.near p) → x.st = .toRead → x.dst ≠ none → blockOpen s x = true →
    let u := s.scan p x.bytes
    ∃ t : State, ∃ d : Xfer, exec (.enginePortAccess x.id) s = .next t ∧
    t.xfers = withRequest s d ∧ d.data = u.mem.readN p x.bytes ∧ d.st = .haveData ∧ d.id = x.id ∧ t.mem = u.mem ∧
    (firstPoison u p x.bytes ≠ none → d.poison = true)) ∧
  (∀ p, x.dst = some (.near p) → x.st = .haveData → x.born < s.station → writeBusy s x p = false → overlapBusy s x = false →
    blockOpen s x = true → x.data.length = x.bytes →
    ∃ t : State, ∃ (d : Xfer) (a : Access), exec (.enginePortAccess x.id) s = .next t ∧ t.xfers = withRequest s d ∧ d.st = .written ∧ d.id = x.id ∧ t.mem = s.mem ∧
      t.accesses = s.accesses ++ [a] ∧ a.agent = x.agent ∧ a.due = s.station ∧ a.key = x.own.key ∧
      ∃ cells marks, a.op = .engine cells marks ∧ cells.map (·.1) = (List.range x.bytes).map (p + ·) ∧
        ∀ i, i < x.bytes → ¬readToo s x (p + i) → (p + i, x.data.getD i 0) ∈ cells)

end Sys2Proof.Machine

/-- R24 to R26, R32, R69, R71, R75, R76, R216, R333, R347: a D or G command from its queue to its start: a parameter fault in the cycle
in which it would start, a missed start cycle and a zero count end it with their records; translation goes from step to step by
ascending address of each operand, and ends it, waits for a walk, or holds every page; a walk answers the commands that wait for it;
an engine fault ends a running command and raises cause 0x21, and nothing else happens where no receive of it has a message under way. The
stalls that a command names are kept from the beginning of its translation on.
The model's readings and choices it rests on: log 36, 37, 38, 41, 43, 55, 67, 125, 127, 128, 131. -/
def Obligations.CommandsReachTheirStart : Prop :=
  ∀ (id : Nat) (c : Cmd) (s : State), isCmd s id c → onCore s c.own → (s.ctx c.own.key).async.length < 16 → commandsGo s c →
    let start := if c.timed = true then statedStart c else s.station
    let cause := fun (t : State) => Waits s t c.own 0x20 (c.st.getD 0 0)
    let die := keyCore c.own.key / 16
    -- R75
    (c.stage = .queued → cmdBad s c = true → c.accepted < s.station → badReady s c = true → (c.timed = true → statedStart c = s.station) →
      ∃ t : State, exec (.badparamRecord id) s = .next t ∧ EndsUnstarted s t c start 0 8 0) ∧
    -- R71, R216
    (c.stage = .queued ∨ c.stage = .translated → c.timed = true → ¬(c.group = true ∧ c.code = 9) →
      (statedStart c ≤ c.accepted ∧ c.accepted < s.station) ∨ (c.accepted < statedStart c ∧ statedStart c < s.station ∧ atHead s c) ∨
        (c.accepted < statedStart c ∧ statedStart c = s.station ∧
          if cmdBad s c = true then badReady s c = false else cmdZero c = false ∧ cmdReady s c = false) →
      ∃ t : State, exec (.timedStartFailure id) s = .next t ∧ EndsUnstarted s t c (statedStart c) 0 7 0 ∧ cause t) ∧
    (c.stage = .queued ∨ c.stage = .translated → c.group = true → c.code = 9 → c.accepted < s.station → statedStart c ≤ s.station →
      ∃ t : State, exec (.timedStartFailure id) s = .next t ∧ EndsUnstarted s t c (statedStart c) 0 7 0 ∧ cause t) ∧
    -- R26
    (c.stage = .queued → atHead s c → c.waits = [] → cmdBad s c = false → cmdZero c = false → tableReady s c = true →
      tableYields s c = false → (c.timed = true → c.accepted < c.startAt ∧ s.station ≤ c.startAt) →
      let u := s.listPackets c
      let w := withSteps u c
      let steps := w.tsteps.getD []
      ((∀ st ∈ steps, pageFound s c st) → ¬(c.group = true ∧ c.code = 1) → c.resolved = [] →
        ∃ t : State, ∃ d : Cmd, exec (.commandTranslation id) s = .next t ∧ t.cmd id = some d ∧ d.stage = .translated ∧ d.st = c.st ∧ d.idxs = w.idxs ∧
          (c.tsteps = none → d.held = (opndStalls (cmdOpnds w)).map fun a => (addrStall a, (s.stall c.own.dev (addrStall a)).born)) ∧
          d.writes = ((cmdOpnds w).filter (·.wr)).flatMap (opndRange s c.own.dev) ∧
          d.reads = ((cmdOpnds w).filter (·.rd)).flatMap (opndRange s c.own.dev) ∧
          (∀ k a p, TStep.page k a p ∈ steps → ∃ e, translationOf s c k = some e ∧ e ∈ d.got) ∧
          t.ctxs = s.ctxs ∧ t.mem = u.mem ∧ t.posts = s.posts) ∧
      (∀ pre st post, steps = pre ++ st :: post → (∀ v ∈ pre, pageFound s c v) →
        (∀ reason a, st = .stop reason a → ∃ t : State, exec (.commandTranslation id) s = .next t ∧ EndsUnstarted u t c start a reason 0) ∧
        (∀ k a p, st = .page k a p →
          (∀ e, translationOf s c k = some e → Nat.land p e.perm ≠ p →
            ∃ t : State, exec (.commandTranslation id) s = .next t ∧ EndsUnstarted u t c start a 4 0) ∧
          (translationOf s c k = none → ∃ t : State, ∃ d : Cmd, exec (.commandTranslation id) s = .next t ∧ t.cmd id = some d ∧
            d.stage = .queued ∧ d.tsteps = some (st :: post) ∧ (∀ e ∈ c.got, e ∈ d.got) ∧ t.ctxs = s.ctxs ∧ t.mem = u.mem ∧
            ((∃ v : Walk, v ∈ t.walks ∧ v.die = die ∧ v.dev = c.own.dev ∧ v.page = k ∧ d.waits = [v.id]) ∨
              (d.waits = [] ∧ t.walks = s.walks ∧ 32 ≤ (s.walks.filter fun (v : Walk) => v.die == die && v.active).length ∧
                4096 ≤ (s.walks.filter fun (v : Walk) => v.die == die && !v.active).length)))))) ∧
    -- R24, R25
    (∀ v, s.walks.find? (fun u => u.id == v.id && u.active) = some v → c.waits = [v.id] → pageMoving s v.dev v.page = false →
      (∀ j d, s.cmd j = some d → d.id = j ∧ (j ≠ id → v.id ∉ d.waits)) → c.stage = .queued → c.tsteps ≠ none → ¬(c.group = true ∧ c.code = 1) →
      (walkPage s v.dev v.page = none → ∀ a p rest, c.tsteps = some (.page v.page a p :: rest) →
        ∃ t : State, exec (.walkComplete v.id) s = .next t ∧ t.tcache = s.tcache ∧ EndsUnstarted s t c start a 3 0) ∧
      (∀ e, walkPage s v.dev v.page = some e → ∃ t : State, exec (.walkComplete v.id) s = .next t ∧ e ∈ t.tcache.get [] v.die ∧
        t.mem = s.mem ∧
        (¬atHead s c → t.cmd id = some { c with waits := [] }) ∧
        (atHead s c → cmdBad s c = false → cmdZero c = false → tableReady s c = true →
          tableYields s c = false → (c.timed = true → c.accepted < c.startAt ∧ s.station ≤ c.startAt) → v.die = die → v.dev = c.own.dev →
          (∀ g ∈ s.tcache.get [] die, g.dev ≠ v.dev) → (∀ g ∈ c.got, g.page ≠ v.page) → ∀ a p, c.tsteps = some [.page v.page a p] →
          (Nat.land p e.perm = p → ∃ d, t.cmd id = some d ∧ d.stage = .translated ∧ d.st = c.st) ∧
          (Nat.land p e.perm ≠ p → EndsUnstarted s t c start a 4 0)))) ∧
    (∀ (e : TEntry) (page k : Nat), (∀ g ∈ s.tcache.get [] die, g.dev ≠ e.dev) → page < 2 ^ 60 → k < 512 → (page + k) / 512 = page / 512 →
      e.page = page / 512 * 512 → e.big = true →
      cached (s.cacheEntry die e) die e.dev (page + k) = some { e with page := page + k, target := e.target + (page % 512 + k) * 65536 }) ∧
    -- R76
    (c.stage = .running → ¬(c.group = true ∧ c.code = 9) →
      ∃ t : State, ∃ count, exec (.engineInternalError id) s = .next t ∧ count < 2 ^ 32 ∧ EndsAtLeast t c count 0 9 0 ∧ Waits s t c.own 0x21 0 ∧
        (∀ x ∈ t.sends, x.cmd ≠ id) ∧ (∀ x ∈ t.recvs, x.cmd ≠ id) ∧
        ((∀ r ∈ s.recvs, r.cmd = id → nothingComes s r.id) → EndsStarted s t c count 0 9 0 ∧ t.mem = s.mem))

/-- R28, R29, R36, R69, R74, R82, R336, R338, R339: a D command's start and the steps of its requests: at the start its liens are placed and
its bytes become requests in order, and those of one 128-byte block share a packet and its tag; a packet reads, writes or updates the bytes of
memory; a reply frees the tag; a request at an
engine port reads its granule or hands in its write; the last reply ends the command with the count of the bytes
it moved. A byte that a copy also reads is left open (R336).
The model's readings and choices it rests on: log 10, 30, 35, 46, 47, 53, 114, 129, 147, 148. -/
def Obligations.TransfersMoveTheirBytes : Prop :=
  ∀ (id : Nat) (c : Cmd) (s : State), isCmd s id c → c.group = false →
    -- the start
    (onCore s c.own → commandsGo s c → c.accepted < s.station → cmdBad s c = false → (if c.timed = true then statedStart c = s.station else atHead s c) →
      (c.stage = .queued → cmdZero c = true → ∃ t : State, exec (.transferStart id) s = .next t ∧
        EndsUnstarted s t c (if c.timed = true then statedStart c else s.station) 0 0 5) ∧
      (c.stage = .translated → cmdZero c = false → cmdReady s c = true →
        (∀ reason a, stampFail s c = some (reason, a) → ∃ t : State, exec (.transferStart id) s = .next t ∧
          EndsUnstarted s t c (if c.timed = true then statedStart c else s.station) a reason 0) ∧
        (stampFail s c = none → ∃ t : State, ∃ (d : Cmd) (new : List Xfer), exec (.transferStart id) s = .next t ∧ t.cmd id = some d ∧ d.stage = .running ∧
          d.start = s.station ∧ d.st = c.st ∧ d.liens = cmdLiens c ∧ t.devs = (s.placeLiens c.own.dev (cmdLiens c)).devs ∧
          t.mem = s.mem ∧ t.posts = s.posts ∧ (t.ctx c.own.key).dq = (s.ctx c.own.key).dq.filter (· ≠ id) ∧
          t.xfers = s.xfers ++ new ∧ (∀ x ∈ new, x.cmd = id ∧ x.job = id ∧ x.own = c.own ∧ x.agent = 2 ∧ x.core = keyCore c.own.key ∧ x.tag = false) ∧
          (c.code = 6 → new.length = 1) ∧ (c.code = 8 → new = []) ∧
          (c.code = 1 ∨ c.code = 5 → (new.map (·.bytes)).sum = (c.st.getD 2 0).toNat % 2 ^ 25 ∧
            ∀ (l : List Xfer) (x : Xfer) (r : List Xfer), new = l ++ x :: r → x.dstAddr = c.st.getD 0 0 + BitVec.ofNat 64 (l.map (·.bytes)).sum ∧ 0 < x.bytes ∧
              (c.code = 1 → x.srcAddr = c.st.getD 1 0 + BitVec.ofNat 64 (l.map (·.bytes)).sum ∧ x.st = .toRead) ∧
              (c.code = 5 → x.st = .haveData ∧ ∀ i, i < x.bytes → x.data.getD i 0 =
                ((c.st.getD 1 0) >>> (8 * (((l.map (·.bytes)).sum + i) % 8))).setWidth 8))))) ∧
    -- its requests
    (∀ x : Xfer, s.xfers.find? (fun y => y.id == x.id) = some x → x.cmd = id → x.job = id → c.stage = .running → RequestSteps id s c x)
/-! ### Steps of group commands and of the tack room -/

namespace Sys2Proof.Machine

/-- R26, R76: a group command is at work: it started now, and only its own step follows. -/
def AtWork (s t : State) (c d : Cmd) : Prop :=
  t.cmd c.id = some d ∧ d.stage = .running ∧ d.start = s.station ∧ d.st = c.st ∧ d.liens = cmdLiens c ∧
    t.devs = (s.placeLiens c.own.dev (cmdLiens c)).devs ∧ (t.ctx c.own.key).gq = (s.ctx c.own.key).gq.filter (· ≠ c.id) ∧ t.posts = s.posts

/-- Bits lo to lo + n - 1 of word i of a command. -/
def cmdBits (c : Cmd) (i lo n : Nat) : Nat := (c.st.getD i 0).toNat / 2 ^ lo % 2 ^ n

/-- The group command starts, with nothing of memory changed but what a scan of bytes read has left; and what else is said of it. -/
def GroupStartsOn (id : Nat) (s u : State) (c : Cmd) (p : State → Cmd → Prop) : Prop :=
  ∃ t : State, ∃ d : Cmd, exec (.groupCommandStart id) s = .next t ∧ AtWork s t c d ∧ t.mem = u.mem ∧ p t d
/-- The same of one that reads nothing at its start and makes no request. -/
def GroupStarts (id : Nat) (s : State) (c : Cmd) (p : State → Cmd → Prop) : Prop :=
  GroupStartsOn id s s c fun t d => t.xfers = s.xfers ∧ p t d

/-- R28, R82: beside the requests given, a state has those of a job that read runs of bytes, each named by its operand, its address and its
length: in order, byte by byte, where they stand, imported bytes through the pages given. -/
def ReadsFor (s t : State) (job cmd : Nat) (own : Owner) (pages entries : List Nat) (old : List Xfer) (l : List (Nat × Word × Nat)) : Prop :=
  ∃ new : List Xfer, t.xfers = old ++ new ∧
    (∀ x ∈ new, x.job = job ∧ x.cmd = cmd ∧ x.own = own ∧ x.agent = 3 ∧ x.st = .toRead ∧ x.dst = none ∧ x.tag = false ∧ 0 < x.bytes ∧
      x.src = some (placeOf s own.dev pages entries x.srcAddr)) ∧
    new.flatMap (fun x => (List.range x.bytes).map fun i => (x.opnd, x.srcAddr + BitVec.ofNat 64 i)) =
      l.flatMap fun r => (List.range r.2.2).map fun i => (r.1, r.2.1 + BitVec.ofNat 64 i)
/-- The same of a group command. -/
def ReadsRuns (s t : State) (c : Cmd) (old : List Xfer) (l : List (Nat × Word × Nat)) : Prop :=
  ReadsFor s t c.id c.id c.own c.pages c.entries old l

/-- R28, R82: beside the requests given, a state has those of a group command that write bytes from an address on, in order, where they
stand. -/
def WritesBytes (s t : State) (c : Cmd) (old : List Xfer) (a : Word) (bs : List Byte) : Prop :=
  ∃ new : List Xfer, t.xfers = old ++ new ∧
    (∀ x ∈ new, x.job = c.id ∧ x.cmd = c.id ∧ x.own = c.own ∧ x.agent = 3 ∧ x.st = .haveData ∧ x.tag = false ∧ 0 < x.bytes ∧
      x.dst = some (placeOf s c.own.dev c.pages c.entries x.dstAddr)) ∧
    new.flatMap (fun x => (List.range x.bytes).map fun i => (x.dstAddr + BitVec.ofNat 64 i, x.data.getD i 0)) =
      (List.range bs.length).map fun i => (a + BitVec.ofNat 64 i, bs.getD i 0)

/-- Every request of a command is done; and the bytes that they have read. -/
def allDone (s : State) (id : Nat) : Prop := ∀ x ∈ s.xfers, x.job = id → x.st = .done
def readBytes (s : State) (id : Nat) : List Byte := (s.xfers.filter fun x => x.job == id).flatMap (·.data)

/-- The group command ends before it has begun, with its record; what it has read has been scanned. -/
def GroupRefusedOn (id : Nat) (s u : State) (c : Cmd) (a : Word) (reason status : Nat) : Prop :=
  ∃ t : State, exec (.groupCommandStart id) s = .next t ∧ EndsUnstarted u t c (if c.timed = true then statedStart c else s.station) a reason status
/-- The same of one that has read nothing. -/
def GroupRefused (id : Nat) (s : State) (c : Cmd) (a : Word) (reason status : Nat) : Prop := GroupRefusedOn id s s c a reason status

/-- R196, R200: the header of a message sent now in a class, with the coding that CODERATE gives the class. -/
def SentHeader (s : State) (cls : Nat) (h : FragHdr) : Prop :=
  let w := (s.coderate.get 0 cls).toNat
  h.mid = s.mid ∧ h.src = s.pkgid ∧ h.cls = cls ∧ h.k = w % 32 ∧ h.m = w / 256 % 16 ∧ h.path = w / 65536 % 32 ∧ h.att = 0 ∧
    h.rt = w / 16777216 % 2

/-- R344: a `kvinv` drops the pages it names from the caches of its device, where no `adec` has resolved one of them. -/
def KvinvStarts (id : Nat) (s : State) (c : Cmd) : Prop :=
  (∀ j d, s.cmd j = some d → resolvedNamed c d = false) → GroupStarts id s c fun t _ => ∀ (die : Nat) (e : Nat × Word × Word),
    let a := (c.st.getD 0 0).toNat
    let named := e.1 = c.own.dev ∧ a ≤ e.2.1.toNat ∧ e.2.1.toNat < a + 8 * cmdBits c 1 0 17
    (named → e ∉ t.bcache.get [] die) ∧ (¬named → e ∈ s.bcache.get [] die → e ∈ t.bcache.get [] die)

/-- R202, R346: a `gsend` becomes the next message of the package. -/
def GsendStarts (id : Nat) (s : State) (c : Cmd) : Prop :=
  GroupStarts id s c fun t _ => ∃ x : Send, t.sends = s.sends ++ [x] ∧ x.cmd = id ∧ x.mid = s.mid ∧ SentHeader s (cmdBits c 1 0 3) x.hdr ∧
    x.hdr.dst = cmdBits c 1 48 16 ∧ x.hdr.tag = cmdBits c 1 32 16 ∧ x.hdr.len = cmdBits c 2 0 25 ∧ x.hdr.kind = 0 ∧
    x.left = List.range (x.hdr.k + x.hdr.m) ∧ x.src = some (c.st.getD 0 0) ∧ t.mid = (s.mid + 1) % 2 ^ 32

/-- R203, R346: a `grecv` waits for a message, where none is held. -/
def GrecvStarts (id : Nat) (s : State) (c : Cmd) : Prop :=
  GroupStarts id s c fun t _ => ∃ r : Recv, t.recvs = s.recvs ++ [r] ∧ r.cmd = id ∧ r.src = cmdBits c 1 48 16 ∧ r.tag = cmdBits c 1 32 16 ∧
    r.cap = cmdBits c 2 0 25 ∧ r.kind = 0 ∧ r.addr = c.st.getD 0 0 ∧ r.wait = cmdBits c 3 0 16 ∧ r.from_ = s.tick ∧ r.msg = none ∧
    r.dst = placeOf s c.own.dev c.pages c.entries (c.st.getD 0 0)

/-- R212, R214, R346: a `gred` sends its contribution to the switch of the group and waits for the result, under the next number of
the group. -/
def GredStarts (id : Nat) (s : State) (c : Cmd) : Prop :=
  GroupStarts id s c fun t _ =>
    let g := cmdBits c 3 32 16
    let n := s.gredCount.get 0 (c.own.dev * 65536 + g)
    t.gredCount.get 0 (c.own.dev * 65536 + g) = (n + 1) % 2 ^ 32 ∧
    ∃ (x : Send) (r : Recv), t.sends = s.sends ++ [x] ∧ t.recvs = s.recvs ++ [r] ∧ x.cmd = id ∧ r.cmd = id ∧ SentHeader s (cmdBits c 3 8 3) x.hdr ∧
      x.hdr.kind = 1 ∧ x.hdr.tag = g ∧ x.hdr.gseq = n ∧ x.hdr.dhash = c.dhash ∧ x.hdr.len = c.redBytes ∧ x.src = some (c.st.getD 0 0) ∧
      r.kind = 2 ∧ r.tag = g ∧ r.inst = n ∧ r.cap = c.redBytes ∧ r.addr = c.st.getD 1 0 ∧
      ∀ sw ms, groupOf s c.own.dev g = some (sw, ms) → x.hdr.dst = sw ∧ r.src = sw

/-- R215, R216, R347: a `gtt` reads its table, or ends with the record that says what is wrong with it. -/
def GttStarts (id : Nat) (s : State) (c : Cmd) : Prop :=
  let a0 := c.st.getD 0 0
  let y := (s.view c.own.dev).stall (addrStall a0)
  let p := y.phys + addrOffset a0
  let u := s.scan p 64
  let n := bytesToNat (u.mem.readN p 2)
  let v := u.scan p (64 + 32 * n)
  (y.sync = false → GroupRefused id s c a0 5 0) ∧
  (y.sync = true → 1 ≤ n → n ≤ 1024 → 64 * y.len < addrOffset a0 + 64 + 32 * n → GroupRefusedOn id s u c (stallAddr y.id (64 * y.len)) 1 0) ∧
  (y.sync = true → (n = 0 ∨ 1024 < n) → GroupRefusedOn id s v c 0 8 0) ∧
  (y.sync = true → addrOffset a0 + 64 + 32 * n ≤ 64 * y.len → ttOk (v.mem.readN p (64 + 32 * n)) = true →
    GroupStartsOn id s v c fun t _ => t.xfers = s.xfers ∧ ∃ T : Timetable, (t.core (keyCore c.own.key)).gtt = some T ∧ T.cmd = id ∧ T.own = c.own ∧ T.stall = y.id ∧
      T.entries.length = n ∧ T.length = bytesToNat (v.mem.readN (p + 2) 2) + 1 ∧ T.period = bytesToNat (v.mem.readN (p + 4) 2) ∧
      T.count = bytesToNat (v.mem.readN (p + 6) 2) ∧ T.first = cmdBits c 2 0 16 ∧ T.tick = cmdBits c 1 0 54 ∧ T.inst = 0 ∧ T.running = false)

/-- R173, R172, R343, R345: what an `aplan` and an `amerge` read, by operand, address and length. -/
def sourcesOf (c : Cmd) : List (Nat × Word × Nat) :=
  if c.code = 2 then [(0, c.st.getD 0 0, 4 * cmdBits c 2 0 13)]
  else (List.range (cmdBits c 3 0 7)).map fun k =>
    (0, c.st.getD 0 0 + BitVec.ofNat 64 (k * cmdBits c 2 0 32), (cmdBits c 3 8 4 + 1) * (64 + 4 * (64 * 2 ^ (c.gfmt / 256 % 4))))

/-- R166 to R168, R341: the steps of an `adec` on a page: its header is read; it is checked, and ends the command, or the query rows and the
keys and values of the tokens taken are read, if there are any; what was read is merged. -/
def DecodesPage (id : Nat) (s : State) (c : Cmd) : Prop :=
  let a := c.resolved.getD c.next 0
  let bs := readBytes s id
  let j := cmdBits c 4 0 32 / 64 + c.next
  let toks := pageTokens c j bs
  let row := c.headDim * fmtBytes c.kFmt
  let rest := s.xfers.filter fun x => x.job != id
  let goes := fun (p : State → Cmd → Prop) => ∃ t : State, ∃ d : Cmd, exec (.decodePage id) s = .next t ∧ t.cmd id = some d ∧
    d.when_ = s.station ∧ d.stage = .running ∧ t.mem = s.mem ∧ t.posts = s.posts ∧ p t d
  let next := fun (t : State) (d : Cmd) => d.step = 0 ∧ d.next = c.next + 1 ∧ t.xfers = rest
  (c.step = 0 → (s.core (keyCore c.own.key)).pre = none → (s.core (keyCore c.own.key)).halted = none → (s.shed = .running ∨ s.shed = .entering) →
    mergeRunning s (keyCore c.own.key) = false → c.next < c.resolved.length →
    goes fun t d => d.step = 2 ∧ d.next = c.next ∧ ReadsRuns s t c s.xfers [(1, a, 64)]) ∧
  (c.step = 2 → allDone s id → headerOk c j c.resolved[c.next + 1]? bs = false →
    ∃ t : State, ∃ count, exec (.decodePage id) s = .next t ∧ EndsStarted s t c count a 9 0 ∧ Waits s t c.own 0x21 a ∧ t.mem = s.mem) ∧
  (c.step = 2 → allDone s id → headerOk c j c.resolved[c.next + 1]? bs = true →
    (toks = [] → goes fun t d => next t d ∧ d.runs = c.runs) ∧
    (toks ≠ [] → goes fun t d => d.step = 3 ∧ d.next = c.next ∧ ReadsRuns s t c s.xfers
      ((0, c.st.getD 0 0, c.rowsQ * c.headDim * fmtBytes c.qFmt) ::
        ((toks ++ toks.map (64 + ·)).map fun i => (1, a + BitVec.ofNat 64 (64 + i * row), row))))) ∧
  (c.step = 3 → allDone s id → goes fun t d => next t d ∧ d.runs = runsAfter c (bs.take 64) (bs.drop 64) ∧
    d.nanRows = (c.nanRows || s.xfers.any fun x => x.job == id && (x.poison && !(x.opnd == 1 && decide ((x.srcAddr - a).toNat < 64)))))

/-- R82, R169: the result of a group command goes to its address by requests of its own, which take the place of those that it has read
by. -/
def HandsIn (id : Nat) (s : State) (c : Cmd) (a : Word) (bs : List Byte) (count status : Nat) : Prop :=
  ∃ t : State, ∃ d : Cmd, exec (.groupCommandComplete id) s = .next t ∧ t.cmd id = some d ∧ d.step = 1 ∧ d.count = count ∧ d.status = status ∧
    t.mem = s.mem ∧ t.accesses = s.accesses ∧ t.posts = s.posts ∧ WritesBytes s t c (s.xfers.filter fun x => x.job != id) a bs

/-- R176: the 8 bytes of a page header that hold REF, before and after the atomic of a `kfork`; the command keeps REF and its STATUS. -/
def RefMoved (u t : State) (id p now : Nat) (rel : Bool) : Prop :=
  let w := bytesToNat (u.mem.readN (p + 40) 8)
  let v := bytesToNat (t.mem.readN (p + 40) 8)
  let after := refAfter rel (w / 2 ^ 36 % 2 ^ 12)
  v / 2 ^ 36 % 2 ^ 12 = after.1 % 2 ^ 12 ∧ v / 2 ^ 48 = w / 2 ^ 48 ∧ v % 2 ^ 36 = w % 2 ^ 36 ∧
    (∀ q, q < p + 40 ∨ p + 48 ≤ q → t.mem.read q = u.mem.read q) ∧
    ∃ d, t.cmd id = some d ∧ d.count = after.1 ∧ d.status = after.2 ∧ d.step = 2 ∧ d.when_ = now

/-- R168, R169, R172 to R174, R341 to R343, R345: what each kind of command hands in; and the atomic of a `kfork`, at its near bank or by its
packet. -/
def GroupResult (id : Nat) (s : State) (c : Cmd) : Prop :=
  (c.code = 1 → c.step = 0 → (s.core (keyCore c.own.key)).pre = none → (s.core (keyCore c.own.key)).halted = none →
    (s.shed = .running ∨ s.shed = .entering) → mergeRunning s (keyCore c.own.key) = false → c.next = c.resolved.length →
    HandsIn id s c (c.st.getD 3 0) (partialBytes c) ((c.runs.map (·.n)).sum) (if cmdBits c 4 32 32 ≤ cmdBits c 4 0 32 then 5 else 0)) ∧
  (c.code = 2 → c.step = 2 → allDone s id →
    let segs := planOf (planLengths c (readBytes s id)) (cmdBits c 2 16 7)
    (segs ≠ [] → HandsIn id s c (c.st.getD 1 0) (planBytes segs) segs.length 0) ∧
    (segs = [] → HandsIn id s c (c.st.getD 1 0) [] 0 5)) ∧
  (c.code = 3 → c.step = 2 → allDone s id → HandsIn id s c (c.st.getD 1 0) (mergeBytes c (readBytes s id)) (cmdBits c 3 0 7) 0) ∧
  (c.code = 5 → ∀ (x : Xfer) (rel : Bool) (p : Nat), s.xfers.find? (fun y => y.id == x.id) = some x → x.job = id → x.cmd = id → x.ref = some rel →
    x.atom = none → x.bytes = 64 → x.dst = none → x.st = .toRead →
    let u := s.scan p 64
    (x.src = some (.near p) → blockOpen s x = true → ∃ t : State, ∃ a : Access, exec (.enginePortAccess x.id) s = .next t ∧ t.mem = u.mem ∧
      t.accesses = s.accesses ++ [a] ∧ a.agent = x.agent ∧ a.due = s.station ∧ a.op = .ref p rel id) ∧
    (x.src = some (.far p) → packetOf s x = [x] → x.packet = (0, 64) → packetGoes s x p → ∃ t : State, exec (.packetPerform x.id) s = .next t ∧
      RefMoved u t id p s.station rel))

end Sys2Proof.Machine

/-- R166 to R169, R172 to R174, R196, R197, R202, R203, R212, R214 to R216, R340 to R347: a group command's start, by its kind, with the
requests by which it reads; a page of an `adec` is read, checked and merged, or ends it with ENGINE and cause 0x21; the result goes out by
requests that write it; the record follows once they are done.
Choices in single clauses: a gred's header has the group index for its tag (log 58), a gtt of a clock that is not synchronised ends
with WRONGLEVEL (log 67), ADDR of a range that runs past its stall is the first byte outside (log 36). The model's readings and
choices it rests on: log 10, 36, 44, 45, 48, 58, 67, 129, 145, 148, 150, 151, 156. -/
def Obligations.GroupCommandsRun : Prop :=
  ∀ (id : Nat) (c : Cmd) (s : State), isCmd s id c → c.group = true → onCore s c.own → (s.ctx c.own.key).async.length < 16 →
    (commandsGo s c → c.accepted < s.station → cmdBad s c = false → gttLate s c = false → (if c.timed = true then c.startAt = s.station else atHead s c) →
      (c.stage = .queued → cmdZero c = true → GroupRefused id s c 0 0 5) ∧
      (c.stage = .translated → cmdZero c = false → cmdReady s c = true →
        (∀ reason a, (if c.code = 4 then kvinvFail s c else stampFail s c) = some (reason, a) → GroupRefused id s c a reason 0) ∧
        (c.code = 4 → kvinvFail s c = none → KvinvStarts id s c) ∧
        (stampFail s c = none →
          (c.code = 1 → GroupStarts id s c fun _ d => d.runs = List.replicate (cmdBits c 5 48 4 + 1)
            { m := 0xFF800000, l := 0, o := List.replicate (64 * 2 ^ (c.gfmt / 256 % 4)) 0, n := 0 }) ∧
          (c.code = 2 ∨ c.code = 3 → GroupStartsOn id s s c fun t d => d.step = 2 ∧ ReadsRuns s t c s.xfers (sourcesOf c)) ∧
          (c.code = 5 → GroupStartsOn id s s c fun t _ => ∃ x : Xfer, t.xfers = s.xfers ++ [x] ∧ x.job = id ∧ x.cmd = id ∧ x.bytes = 64 ∧
            x.src = some (placeOf s c.own.dev c.pages c.entries (c.st.getD 0 0)) ∧ x.ref = some (decide (c.low = 1)) ∧ x.st = .toRead) ∧
          (c.code = 6 → GsendStarts id s c) ∧
          (c.code = 7 → (∀ m ∈ s.msgs, m.recv ≠ none) → GrecvStarts id s c) ∧
          (c.code = 8 → (∀ m ∈ s.msgs, m.recv ≠ none) → GredStarts id s c) ∧
          (c.code = 9 → GttStarts id s c)))) ∧
    -- a page of an `adec`
    (c.code = 1 → c.stage = .running → c.when_ < s.station → DecodesPage id s c) ∧
    -- the result, and the record
    (c.stage = .running → c.when_ < s.station → GroupResult id s c) ∧
    (c.stage = .running → c.start < s.station →
      (c.code ∈ [1, 2, 3] ∧ c.step = 1 ∧ c.when_ < s.station ∧ allDone s id) ∨
        (c.code = 5 ∧ c.step = 2 ∧ c.when_ < s.station ∧ allDone s id) ∨
        (c.code = 4 ∧ c.waits = []) →
      ∃ t : State, ∃ (count : Nat) (a : Word) (reason : Nat), exec (.groupCommandComplete id) s = .next t ∧ EndsStarted s t c count a reason c.status ∧ t.mem = s.mem ∧
        count = (if c.code = 4 then cmdBits c 1 0 17 else c.count) ∧
        (c.bad = none → reason = 0 ∧ a = 0) ∧ (∀ b, c.bad = some b → reason = 6 ∧ a = b.2))

/-- R36, R187 to R192: a tack-room command starts when the one before has ended, with its liens and the change of the ring's directory, or
fails with its record; a `tsnap` copies its image in blocks of 4 KiB, ascending; the last step completes with the binding, the entry
written or the state handed back, and its record, of REASON POISON where a granule of what it copied is poisoned.
The model's readings and choices it rests on: log 10, 83, 85, 129, 137, 146, 149. -/
def Obligations.TackCommandsRun : Prop :=
  ∀ (c : TCmd) (s : State), onCore s c.own →
    let n := s.myCore
    let tk := fun (s : State) => (s.core n).tack
    let fld := fun (i lo w : Nat) => (c.regs.getD i 0).toNat / 2 ^ lo % 2 ^ w
    let slot := fld 0 0 8
    let posts := fun (t : State) (r : Record) => ∃ ws, (t.ctx c.own.key).evq = (s.ctx c.own.key).evq ++ ws ++ [r]
    (tackReady s n = some c →
      (∀ reason a, tackStalls s n { c with start := s.station } = .error (reason, a) → ∃ t : State, exec .tackCommandStart s = .next t ∧
        (tk t).queue = (tk s).queue.drop 1 ∧ (tk t).running = none ∧ t.mem = s.mem ∧
        Posted s t c.own (mkRecord a s.station 0 0 0 3 c.code reason 0 c.own.key)) ∧
      (∀ ids, tackStalls s n { c with start := s.station } = .ok ids →
        let u := s.tackRead n c
        ∃ t : State, ∃ d : TCmd, exec .tackCommandStart s = .next t ∧
        (tk t).queue = (tk s).queue.drop 1 ∧ (tk t).running = some d ∧ d.start = s.station ∧ d.liens = ids ∧ d.code = c.code ∧ d.own = c.own ∧
        t.devs = (s.placeLiens c.own.dev ids).devs ∧
        (c.code = 1 → t.mem = s.mem ∧ t.ctxs = s.ctxs) ∧
        (∀ b, slotOf s n c.own.dev slot = some b →
          (c.code = 2 → ∃ e, e < 8 ∧ d.entry = some e ∧ d.count = slotBytes s b ∧ d.addr = c.regs.getD 1 0 ∧
            t.mem.read ((s.stall b.dev (addrStall (estateAddr b e))).phys + addrOffset (estateAddr b e)) = 1) ∧
          (c.code = 3 → ∀ e, chooseEntry u b (c.regs.getD 1 0).toNat = some e → d.entry = some e ∧ d.count = slotBytes s b ∧
            d.addr = BitVec.ofNat 64 (dirEntry u b e).key ∧
            d.image = u.mem.readN (physOf s b.dev (dataAddr s b e)) (slotBytes s b)) ∧
          (c.code = 3 → chooseEntry u b (c.regs.getD 1 0).toNat = none → d.entry = c.entry ∧ d.status = 5 ∧ t.mem = u.mem)) ∧
        (c.code = 2 ∨ c.code = 3 → slotOf s n c.own.dev slot = none → d.entry = c.entry ∧ d.status = 5 ∧ t.mem = s.mem) ∧
        (c.code = 4 → t.mem = u.mem))) ∧
    ((tk s).running = some c → c.start < s.station →
      (∀ b e, c.code = 2 → slotOf s n c.own.dev slot = some b → c.entry = some e → c.done + 4096 < c.image.length →
        ∃ t : State, exec .tackCommandComplete s = .next t ∧ (tk t).running = some { c with done := c.done + 4096 } ∧ t.releases = s.releases ∧
          ∀ i, i < 4096 → t.mem.read (physOf s c.own.dev (dataAddr s b e + BitVec.ofNat 64 c.done) + i) = c.image.getD (c.done + i) 0) ∧
      ((c.code = 2 → c.image.length ≤ c.done + 4096) →
      ∃ t : State, exec .tackCommandComplete s = .next t ∧ (tk t).running = none ∧ (c.own.dev, c.liens) ∈ t.releases ∧
        (c.bad = none → posts t (mkRecord c.addr c.start 0 c.count 0 3 c.code 0 c.status c.own.key)) ∧
        (∀ a, c.bad = some a → posts t (mkRecord a c.start 0 c.count 0 3 c.code 6 c.status c.own.key)) ∧
        (c.code = 1 → c.regs.getD 1 0 = 0 → (tk t).slots.get none slot = none ∧ t.mem = s.mem) ∧
        (c.code = 4 ∨ c.code = 1 ∧ c.regs.getD 1 0 ≠ 0 → (tk t).slots.get none slot = some
          { dev := c.own.dev, stall := addrStall (c.regs.getD 1 0), ring := c.regs.getD 2 0, seqid := fld 3 0 32, layer := fld 3 32 16 }) ∧
        (c.code = 2 → ∀ b e, slotOf s n c.own.dev slot = some b → c.entry = some e → b.seqid < 2 ^ 32 → b.layer < 2 ^ 16 →
          let p := physOf s c.own.dev (entryAddr b e)
          bytesToNat (t.mem.readN p 8) = fld 1 0 64 ∧ bytesToNat (t.mem.readN (p + 8) 4) = b.seqid ∧
            bytesToNat (t.mem.readN (p + 12) 2) = b.layer ∧
            t.mem.read (p + 14) = 2 ∧ bytesToNat (t.mem.readN (p + 16) 8) = s.station % 2 ^ 64 ∧ t.accesses = s.accesses) ∧
        (c.code = 3 → t.mem = s.mem ∧ (∀ b e, slotOf s n c.own.dev slot = some b → c.entry = some e →
          let p := physOf s c.own.dev (stallAddr b.stall 0)
          ∃ x : Access, t.accesses = s.accesses ++ [x] ∧ x.agent = 4 ∧ x.due = s.station ∧ x.op = .engine
            ((List.range c.image.length).map fun i => (p + i, c.image.getD i 0)) (c.imgBad.map fun (g : Nat) => p / 64 + g)) ∧
          (c.entry = none → t.accesses = s.accesses))))

/-! ### Tick boundaries, stalls and pages -/

namespace Sys2Proof.Machine

/-- A tick boundary (R3). -/
def boundary (s : State) : Prop := s.station % 1024 = 0

/-- The stall has gone: its entry of the table is free (R45, R61). -/
def Reclaimed (t : State) (dev id : Nat) : Prop := t.stall dev id = {}

/-- The stall has a new state and nothing else of it changed. -/
def StallIs (s t : State) (dev id : Nat) (st : StallSt) : Prop := t.stall dev id = { s.stall dev id with st := st }

/-- R404, R410: one record to the hypervisor ring: its 32 bytes stand in the slot, TAIL moves on and the vector is raised; or, with no
ring or no room, LOST counts. -/
def HypPosts (s t : State) (r : Nat) : Prop :=
  (∀ p, ringSlot s hypDev s.hypq = some p → bytesToNat (t.mem.readN p 32) = r % 2 ^ 256 ∧
    (∀ q, q < p ∨ p + 32 ≤ q → t.mem.read q = s.mem.read q) ∧ t.hypq = { s.hypq with tail := (s.hypq.tail + 1) % 256 } ∧
    t.msix = s.msix ++ [0]) ∧
  (ringSlot s hypDev s.hypq = none → t.mem = s.mem ∧ t.hypq = { s.hypq with lost := min (s.hypq.lost + 1) 65535 } ∧ t.msix = s.msix)

/-- R31: a page that the migration engine of a die may move into HBM, or out of it. -/
def mayPromote (s : State) (die : Nat) (p : TierPage) : Prop :=
  p ∈ s.tier ∧ p.die = die ∧ pageFree s p = true ∧ p.hbm = false ∧ (s.migctl.get {} die).promote ≤ p.heat
def mayDemote (s : State) (die : Nat) (p : TierPage) : Prop :=
  p ∈ s.tier ∧ p.die = die ∧ pageFree s p = true ∧ p.hbm = true ∧ p.heat ≤ (s.migctl.get {} die).demote

/-- R31: ties among pages go to the lowest device, stall and page. -/
def beforeByName (p q : TierPage) : Prop :=
  p.dev < q.dev ∨ (p.dev = q.dev ∧ (p.id < q.id ∨ (p.id = q.id ∧ p.page < q.page)))

end Sys2Proof.Machine

/-- R30, R31, R37, R48, R54, R59, R61 to R64, R85, R277, R405, R406: the steps at a tick boundary: contexts go on and their buffered stores
fall due and commit; a stall leaves ACTIVE, pays for overstaying, lapses or is reclaimed; reclaimed storage is zeroed and comes back to
its pool; a `realign` ends; page heats are halved, and a page is chosen for HBM, where a free place of its die is taken, and moved; the
mitigation of a tracked row is counted and charged to the device that the tracker holds, with a record to the hypervisor ring (R404).
Choices in single clauses: the free TIER page of a move is 1,024 granules of the die's HBM pool, the switch leaves the pools as they
are, and a reclaimed TIER stall gives the places of its pages back in a second entry (log 5). The model's readings and choices it
rests on: log 5, 90, 91, 95, 117, 122, 124, 126. -/
def Obligations.BoundarySteps : Prop :=
  ∀ (dev id : Nat) (s : State),
    let x := s.stall dev id
    let keeps := fun (t : State) => t.mem = s.mem
    let childless := ∀ e ∈ (s.dev dev).stalls, e.2.parent ≠ id
    let hbmOf := fun (t : State) => t.poolHbm.getD s.cur 0
    -- R85, R405, R406
    (boundary s → ∃ t : State, exec .tickBoundary s = .next t ∧ keeps t ∧ t.bwUsed = [] ∧ t.devs = s.devs ∧ t.cores = s.cores ∧
      let late := fun (k : Nat) (a : Access) => a ∈ s.accesses ∧ a.key = k ∧ a.agent = 0 ∧ a.born < s.station ∧
        match a.op with | .store _ buffered => buffered = true | _ => False
      (∀ a, a ∈ t.accesses ↔ a ∈ s.accesses ∧ ¬late a.key a) ∧
      ∀ k, (∃ due, t.ctx k = { s.ctx k with run := if (s.ctx k).run = .resuming then .ready else (s.ctx k).run, sdue := due, sbuf := [] }) ∧
        (s.ctx k ≠ {} → ∀ b, b ∈ (t.ctx k).sdue ↔ b ∈ (s.ctx k).sdue ∨ b ∈ (s.ctx k).sbuf ∨ ∃ a ∈ s.accesses, late k a ∧ a.op = .store b.2 true ∧ a.id = b.1) ∧
        ((∀ a ∈ s.accesses, ¬late k a) → (t.ctx k).sdue = (s.ctx k).sdue ++ (s.ctx k).sbuf)) ∧
    (boundary s → (s.ctx s.cur).sdue ≠ [] → ∃ t : State, exec .sharedStoreCommit s = .next t ∧ t.ctx s.cur = { s.ctx s.cur with sdue := [] } ∧
      let cells := (s.ctx s.cur).sdue.flatMap (·.2)
      (∀ q, (∀ c ∈ cells, c.1 ≠ q) → t.mem.read q = s.mem.read q) ∧
      (∀ l c r, cells = l ++ c :: r → (∀ e ∈ r, e.1 ≠ c.1) → t.mem.read c.1 = c.2)) ∧
    -- R277
    (∀ h, boundary s → (s.ctx s.cur).hold = some h → h.why = .realign → h.since / 1024 < s.tick →
      exec .realignRelease s = .next (s.setCtx s.cur { s.ctx s.cur with hold := some { h with freed := true } })) ∧
    -- R48, R59
    (boundary s → x.id ≠ 0 → x.st = .active →
      x.paid ≤ s.tick ∨ (x.parent ≠ 0 ∧ ((s.stall dev x.parent).st ≠ .active ∨ (s.stall dev x.parent).id = 0)) →
      ∃ t : State, exec (.stallLapse dev id) s = .next t ∧
        (0 < x.liens → StallIs s t dev id .overstay) ∧
        (x.liens = 0 → x.vac = false → StallIs s t dev id .lapsed) ∧
        (x.liens = 0 → x.vac = true → Reclaimed t dev id) ∧
        (x.sync = false → childless → keeps t ∧ t.accesses = s.accesses ∧ t.ctxs = s.ctxs)) ∧
    (boundary s → x.id ≠ 0 → x.st = .overstay →
      (0 < x.liens → x.paid ≤ s.tick → ∃ t : State, exec (.overstayCharge dev id) s = .next t ∧ t.stall dev id = { x with paid := s.tick + 1 } ∧
        (t.dev dev).accts.get 0 x.acct = max (-(2 ^ 63)) (min (2 ^ 63 - 1) ((s.dev dev).accts.get 0 x.acct - 2 * x.rate * x.cg)) ∧ keeps t) ∧
      (x.liens = 0 → ∃ t : State, exec (.overstayCharge dev id) s = .next t ∧ (x.vac = false ∨ childless → keeps t) ∧
        (x.vac = false → StallIs s t dev id .lapsed) ∧ (x.vac = true → Reclaimed t dev id))) ∧
    -- R48, R54, R61, R63, R64
    (boundary s → x.id = id → id ≠ 0 → x.st = .lapsed → (x.vac = true ∧ x.liens = 0) ∨ x.paid + (s.dev dev).grace ≤ s.tick →
      ∃ t : State, exec (.stallReclaim dev id) s = .next t ∧ Reclaimed t dev id ∧ (childless → keeps t) ∧
        (x.parent = 0 → childless →
          (∀ k, k ≠ id → t.stall dev k = s.stall dev k) ∧
          (∃ r : Scrub, t.scrubs = s.scrubs ++ [r] ∧ r.due = s.station + 8 ∧ r.phys = x.phys ∧ r.len = 64 * x.len) ∧
          (∃ p q : Returning, t.returning = s.returning ++ [p, q] ∧ p.due = s.tick + 4 ∧ q.due = s.tick + 4 ∧ p.level = x.level ∧ q.level = 3 ∧
            p.need = x.split) ∧
          (∀ p ∈ t.tier, ¬(p.dev = dev ∧ p.id = id)))) ∧
    (∀ r, s.scrubs.find? (fun q => q.id == r.id) = some r → r.due ≤ s.station → ∃ t : State, exec (.reclaimScrub r.id) s = .next t ∧
      (∀ q, r.phys ≤ q → q < r.phys + r.len → t.mem.read q = 0) ∧
      (∀ q, q < r.phys ∨ r.phys + r.len ≤ q → t.mem.read q = s.mem.read q) ∧
      (∀ g, g ∈ t.poison ↔ g ∈ s.poison ∧ (64 * g + 64 ≤ r.phys ∨ r.phys + r.len ≤ 64 * g)) ∧
      t.scrubs = s.scrubs.filter fun q => q.id ≠ r.id) ∧
    (∀ r, s.returning.find? (fun q => q.id == r.id) = some r → boundary s → r.due ≤ s.tick → ∃ t : State, exec (.storageReturn r.id) s = .next t ∧
      t.returning = s.returning.filter (fun q => q.id ≠ r.id) ∧ keeps t ∧
      t.poolHbm = (if r.level = 3 then List.zipWith (· + ·) s.poolHbm r.need else s.poolHbm) ∧
      t.poolLoft = (if 4 ≤ r.level then List.zipWith (· + ·) s.poolLoft r.need else s.poolLoft)) ∧
    -- R30, R31
    (boundary s → (s.migctl.get {} s.cur).epoch ≠ 0 → s.tick % (s.migctl.get {} s.cur).epoch = 0 →
      exec .heatHalving s = .next { s with tier := s.tier.map fun p => if p.die = s.cur then { p with heat := p.heat / 2 } else p }) ∧
    (∀ p, boundary s → (s.migctl.get {} s.cur).en = true → (s.migctl.get {} s.cur).pause = false → s.moves.get none s.cur = none →
      mayPromote s s.cur p → (∀ q, mayPromote s s.cur q → q ≠ p → q.heat < p.heat ∨ (q.heat = p.heat ∧ beforeByName p q)) →
      (1024 ≤ hbmOf s → s.poolHbm.length = 4 → ∃ t : State, exec .migrationChoice s = .next t ∧ keeps t ∧ t.tier = s.tier ∧
        hbmOf t = hbmOf s - 1024 ∧ (∀ die, die ≠ s.cur → t.poolHbm.getD die 0 = s.poolHbm.getD die 0) ∧
        t.moves.get none s.cur = some { cand := (p.dev, p.id, p.page), swap := none }) ∧
      (∀ d, hbmOf s < 1024 → mayDemote s s.cur d →
        (∀ q, mayDemote s s.cur q → q ≠ d → d.heat < q.heat ∨ (q.heat = d.heat ∧ beforeByName d q)) →
        ∃ t : State, exec .migrationChoice s = .next t ∧ keeps t ∧ t.tier = s.tier ∧ t.poolHbm = s.poolHbm ∧
          t.moves.get none s.cur = some { cand := (p.dev, p.id, p.page), swap := some (d.dev, d.id, d.page) }) ∧
      (hbmOf s < 1024 → (∀ q, ¬mayDemote s s.cur q) → exec .migrationChoice s = .next s)) ∧
    (∀ v, s.moves.get none s.cur = some v → ∃ t : State, ∃ own : Bool, exec .migrationSwitch s = .next t ∧ keeps t ∧
      t.moves.get none s.cur = none ∧ (own = true ↔ ∀ n, v.swap = some n → ∃ p ∈ s.tier, (p.dev, p.id, p.page) = n ∧ p.loft = true) ∧
      t.tier = (s.tier.map fun (p : TierPage) => if (p.dev, p.id, p.page) = v.cand then { p with hbm := true, loft := own }
        else if v.swap = some (p.dev, p.id, p.page) then { p with hbm := false, loft := true } else p) ∧
      t.poolHbm = s.poolHbm ∧ t.poolLoft = s.poolLoft) ∧
    -- R37, R406
    (∀ (stack : BitVec 8) (row : BitVec 40), let place := stack.toNat * 2 ^ 40 + row.toNat
      (s.rows.get 0 place = 0 → exec (.rowMitigation stack row) s = .next s) ∧
      (s.rows.get 0 place = dev + 1 → ∃ t : State, exec (.rowMitigation stack row) s = .next t ∧
        (t.dev dev).mitcnt = min ((s.dev dev).mitcnt + 1) (2 ^ 32 - 1) ∧ t.rows.get 0 place = 0 ∧
        let key := dev * 256 + stack.toNat
        t.bwUsed.get 0 key = s.bwUsed.get 0 key + 280 ∧ t.tier = s.tier ∧
        HypPosts s t (mkRecord (BitVec.ofNat 64 place) s.station dev 0 0 8 2 0 0 0)))

/-! ### The fabric -/

namespace Sys2Proof.Machine

/-- R206 to R208, R427: this is a boundary, n ticks or more after tick b. -/
def boundaryAfter (s : State) (b n : Nat) : Prop := s.station % 1024 = 0 ∧ (b + n) * 1024 ≤ s.station

/-- R220, R397: the fabric runs: it stops at the third step of shed entry, and goes on after the exit. -/
def fabricRuns (s : State) : Prop := s.shed = .running ∨ s.shed = .entering

/-- R196, R197, R201, R202: fragment f of a send leaves, of a message of which the bytes d are there. -/
def FragmentLeaves (s t : State) (x : Send) (f : Nat) (rest : List Nat) (d : List Byte) (kept : List Xfer) : Prop :=
  ∃ pay : List Byte, t.mem = s.mem ∧ t.xfers = kept ∧ pay.length = x.fragBytes ∧
    (let path := (x.mid % x.hdr.path + f) % x.hdr.path
     t.outbox = s.outbox ++ [.frag path (fragBytes { x.hdr with fidx := f, path := path } pay)]) ∧
    (f < x.hdr.k → ∀ i, i < x.fragBytes →
      pay.getD i 0 = if f * x.fragBytes + i < x.hdr.len then d.getD (f * x.fragBytes + i) 0 else 0) ∧
    (x.hdr.k ≤ f → pay = parityFrag d x.fragBytes x.hdr.k (f - x.hdr.k)) ∧
    t.sends = s.sends.map fun y => if y.id = x.id then { x with data := d, whole := decide (d.length = x.hdr.len), left := rest,
                                                                 lastTick := s.tick } else y

/-- R28, R197, R202, R211, R220: the next fragment of a send: where its bytes are there, or have been read, it leaves; where they are not,
they are read; and it waits for what is read, and while the fabric is stopped. -/
def FragmentGoes (s : State) (x : Send) (f : Nat) (rest : List Nat) : Prop :=
  let goes := fun (d : List Byte) (kept : List Xfer) => ∃ t : State, exec (.fragmentSend x.id) s = .next t ∧ FragmentLeaves s t x f rest d kept
  let held := match s.cmd x.cmd with | some c => (c.pages, c.entries) | none => ([], [])
  let reads := ∃ y ∈ s.xfers, y.job = x.id
  let short := x.data.length < x.need f
  (¬short → fabricRuns s ∨ reads → x.data.length ≤ x.hdr.len → goes x.data s.xfers) ∧
  (∀ a, short → x.src = some a → ¬reads → fabricRuns s → ∃ t : State, exec (.fragmentSend x.id) s = .next t ∧ t.sends = s.sends ∧ t.mem = s.mem ∧
    t.outbox = s.outbox ∧ ReadsFor s t x.id x.cmd x.own held.1 held.2 s.xfers
      [(0, a + BitVec.ofNat 64 x.data.length, x.need f - x.data.length)]) ∧
  (let d := x.data ++ readBytes s x.id
   short → x.src ≠ none → reads → allDone s x.id → d.length ≤ x.hdr.len → goes d (s.xfers.filter fun y => y.job != x.id)) ∧
  ((¬fabricRuns s ∧ ¬reads) ∨ (short ∧ (x.src = none ∨ ¬allDone s x.id)) → exec (.fragmentSend x.id) s = .next s)

/-- R36, R76: a started command ends with no reason of its own: REASON POISON and its address where a granule read was poisoned. -/
def EndsMarked (s t : State) (c : Cmd) (count status : Nat) : Prop :=
  (c.bad = none → EndsStarted s t c count 0 0 status) ∧ ∀ b, c.bad = some b → EndsStarted s t c count b.2 6 status

/-- The same where something else may end in the same step. -/
def EndsMarkedAtLeast (t : State) (c : Cmd) (count status : Nat) : Prop :=
  (c.bad = none → EndsAtLeast t c count 0 0 status) ∧ ∀ b, c.bad = some b → EndsAtLeast t c count b.2 6 status

/-- Nothing comes for any receive of a command. -/
def noneComes (s : State) (c : Cmd) : Prop := ∀ r ∈ s.recvs, r.cmd = c.id → nothingComes s r.id

/-- The one command that a send or receive belongs to runs. -/
def serves (s : State) (cmd : Nat) (c : Cmd) : Prop := isCmd s cmd c ∧ onCore s c.own ∧ (s.ctx c.own.key).async.length < 16

/-- R199, R203 to R205: a fragment arrives: counted as bad or as late, the first of a message that is held in the yard or landed at the
receive it matches. -/
def FragmentArrives (s : State) (dev port : Nat) (hd pay : List Byte) : Prop :=
  let h := parseHdr hd
  let size := fragSize h.len h.k
  (fragGood hd pay = false → ∃ t : State, exec (.fragmentArrival dev port hd pay) s = .next t ∧
    t.fabBad = min (s.fabBad + 1) (2 ^ 16 - 1) ∧ t.msgs = s.msgs ∧ t.mem = s.mem) ∧
  (fragGood hd pay = true → fragFits h pay = true → (h.src, h.mid) ∈ s.retired → h.kind ≠ 1 →
    ∃ t : State, exec (.fragmentArrival dev port hd pay) s = .next t ∧ t.fabLate = min (s.fabLate + 1) (2 ^ 32 - 1) ∧ t.msgs = s.msgs ∧
      t.mem = s.mem) ∧
  (fragGood hd pay = true → fragFits h pay = true → (h.src, h.mid) ∉ s.retired → h.kind = 0 → tableFor s dev h = none →
    (∀ m ∈ s.msgs, m.id < s.nextId ∧ ¬(m.dev = dev ∧ m.hdr.kind = 0 ∧ m.hdr.src = h.src ∧ m.hdr.mid = h.mid)) →
    (s.recvs = [] → yardUsed s (port / 4) + pay.length ≤ 2 ^ 23 →
      ∃ t : State, ∃ m : Msg, exec (.fragmentArrival dev port hd pay) s = .next t ∧ t.msgs = s.msgs ++ [m] ∧ m.dev = dev ∧ m.hdr = h ∧
        m.first = s.tick ∧ m.frags = [(h.fidx, pay)] ∧ m.recv = none ∧ t.mem = s.mem ∧
        (1 < h.k → m.full = none ∧ t.outbox = s.outbox ∧ t.retired = s.retired) ∧
        (h.k = 1 → m.full = some s.station ∧ t.outbox = s.outbox ++ [.notice .held h.src h.mid] ∧ (h.src, h.mid) ∈ t.retired)) ∧
    (∀ r : Recv, s.recvs = [r] → r.id ≠ 0 → r.own.dev = dev → r.kind = 0 → r.msg = none → r.src = h.src ∨ r.src = 0xFFFF → r.tag = h.tag →
      r.cmd ≠ 0 → h.len ≤ r.cap → 1 < h.k → h.fidx < h.k → h.fidx * size ≤ h.len →
      ∃ t : State, ∃ (m : Msg) (new : List Xfer), exec (.fragmentArrival dev port hd pay) s = .next t ∧ t.msgs = s.msgs ++ [m] ∧ m.recv = some r.id ∧
        m.frags = [(h.fidx, pay)] ∧ t.mem = s.mem ∧ t.xfers = s.xfers ++ new ∧
        (∀ x ∈ new, x.job = r.id ∧ x.own = r.own ∧ x.agent = 5 ∧ x.st = .haveData ∧ x.tag = false ∧ 0 < x.bytes ∧
          x.dst = some (r.dst.plus (x.dstAddr - r.addr).toNat)) ∧
        new.flatMap (fun x => (List.range x.bytes).map fun i => (x.dstAddr + BitVec.ofNat 64 i, x.data.getD i 0)) =
          (List.range (min size (h.len - h.fidx * size))).map fun i => (r.addr + BitVec.ofNat 64 (h.fidx * size + i), pay.getD i 0)))

end Sys2Proof.Machine

/-- R196 to R198, R201, R202, R206 to R208, R211 to R214, R346, R427: the sender's side of a message: the bytes of a fragment are read, and it leaves with its
header and its data or parity; a delivery notice, a loss notice, a held notice, a resend, and the deadlines of `gsend` and `gred` end the send
or keep it, with the records and causes of the rules.
The model's readings and choices it rests on: log 10, 57, 58, 60, 64, 66, 132, 142. -/
def Obligations.MessagesAreSent : Prop :=
  ∀ (x : Send) (s : State),
    let found := s.sends.find? (fun y => y.id == x.id) = some x
    let known := s.sends.find? (fun y => y.mid == x.mid) = some x
    let heard := known ∧ fabricRuns s
    (found → ∀ f rest, x.left = f :: rest → FragmentGoes s x f rest) ∧
    (∀ mid missing, ¬fabricRuns s → ∀ i ∈ [Instr.deliveryNotice mid, .finalLossNotice mid, .heldNotice mid, .resendNotice mid missing],
      exec i s = .next s) ∧
    (∀ c, heard → x.quiet = false → serves s x.cmd c → x.hdr.kind = 0 → ∃ t : State, exec (.deliveryNotice x.mid) s = .next t ∧
      EndsMarked s t c x.hdr.len 0 ∧ (∀ y ∈ t.sends, y.id ≠ x.id) ∧ t.mem = s.mem) ∧
    (∀ c, heard → x.quiet = false → serves s x.cmd c → ∃ t : State, ∃ count, exec (.finalLossNotice x.mid) s = .next t ∧
      EndsMarkedAtLeast t c count 6 ∧ (∀ y ∈ t.sends, y.id ≠ x.id) ∧ (∀ r ∈ t.recvs, r.cmd ≠ c.id) ∧
      (c.code = 8 → Waits s t c.own 0x22 (c.st.getD 1 0)) ∧
      (noneComes s c → EndsMarked s t c count 6 ∧ t.mem = s.mem ∧ (c.code ≠ 8 → t.ctxs = s.ctxs))) ∧
    (heard → exec (.heldNotice x.mid) s = .next { s with
      sends := s.sends.map fun y => if y.id = x.id then { x with held := some s.tick } else y }) ∧
    (∀ missing, heard → x.hdr.rt = 1 → x.hdr.att = 0 → missing ≤ x.hdr.k → ∃ t : State, exec (.resendNotice x.mid missing) s = .next t ∧
      t.mid = (s.mid + 1) % 2 ^ 32 ∧ t.mem = s.mem ∧ t.sends = s.sends.map fun y => if y.id = x.id then { x with
        mid := s.mid, hdr := { x.hdr with mid := s.mid, att := 1 }, held := none, left := List.range (x.hdr.k + x.hdr.m) } else y) ∧
    (∀ (mid missing : Nat) (g : SwitchResult), fabricRuns s → (∀ y ∈ s.sends, y.mid ≠ mid) → s.results.find? (fun y => y.hdr.mid == mid) = some g →
      missing ≤ g.hdr.k → ∃ t : State, exec (.resendNotice mid missing) s = .next t ∧ t.mem = s.mem ∧ t.sends = s.sends ∧
        t.results = s.results.filter (fun y => decide (y ≠ g)) ∧ ∃ sent : List OutMsg, t.outbox = s.outbox ++ sent ∧ sent.length = g.hdr.k + g.hdr.m) ∧
    (let late := (x.held = none ∧ x.left = [] ∧ boundaryAfter s x.lastTick (4 * s.losstmo)) ∨
       ∃ h, x.held = some h ∧ boundaryAfter s h (4 * s.losstmo)
     (∀ c, found → x.quiet = false → serves s x.cmd c → x.hdr.kind = 0 → late → c.code ≠ 8 → noneComes s c →
       ∃ t : State, ∃ count, exec (.gsendDeadline x.id) s = .next t ∧ EndsMarked s t c count 6 ∧ t.mem = s.mem ∧
         t.outbox = s.outbox ++ [.notice .abandon x.hdr.dst x.mid] ∧ ∀ y ∈ t.sends, y.id ≠ x.id) ∧
     (∀ c, s.sends.find? (fun y => y.cmd == x.cmd && y.hdr.kind == 1) = some x → x.quiet = false → serves s x.cmd c → c.code = 8 → late →
       ∃ t : State, ∃ count, exec (.gredDeadline x.cmd) s = .next t ∧ EndsMarkedAtLeast t c count 6 ∧
         Waits s t c.own 0x22 (c.st.getD 1 0) ∧ (∀ r ∈ t.recvs, r.cmd ≠ c.id) ∧ (noneComes s c → EndsMarked s t c count 6 ∧ t.mem = s.mem))) ∧
    (∀ dev group gseq c, fabricRuns s → orderedGred s dev group gseq = some c → isCmd s c.id c → onCore s c.own →
      (s.ctx c.own.key).async.length < 16 →
      ∃ t : State, ∃ count, exec (.collectiveOrderNotice dev ⟨group, gseq⟩) s = .next t ∧ EndsMarkedAtLeast t c count 5 ∧
        Waits s t c.own 0x23 (c.st.getD 1 0) ∧ (∀ y ∈ t.sends, y.cmd ≠ c.id) ∧ (∀ r ∈ t.recvs, r.cmd ≠ c.id) ∧
        (noneComes s c → EndsMarked s t c count 5 ∧ t.mem = s.mem))

/-- R196, R199, R203 to R208, R213, R346, R427: the receiver's side: a fragment that fails its checks or comes late is counted; the first
of a message is held in the yard, or goes by requests to where the receive that it matches puts it; the last makes a message held; the end
of the decode lands what is missing, posts the record and sends the notice; a message lost, discarded or abandoned, a receive that waits no longer, and a reduction
that times out end as the rules say.
The model's readings and choices it rests on: log 57, 59, 61, 63, 65, 69, 142, 148. -/
def Obligations.MessagesAreReceived : Prop :=
  ∀ (s : State),
    let gone := fun (t : State) (m : Msg) => ∀ y ∈ t.msgs, y.id ≠ m.id
    let isMsg := fun (m : Msg) => s.msgs.find? (fun y => y.id == m.id) = some m
    (∀ (dev port : Nat) (hd pay : List Byte), fabricRuns s → FragmentArrives s dev port hd pay) ∧
    -- the end of a decode
    (∀ (m : Msg) (r : Recv) (c : Cmd) (d : Nat), isMsg m → s.recvs.find? (fun y => some y.id == m.recv) = some r → serves s r.cmd c → m.doneAt = some d → d ≤ s.station →
      (∀ y ∈ s.xfers, y.cmd ≠ c.id) →
      ∃ t : State, exec (.receiveDecodeEnd m.id) s = .next t ∧ gone t m ∧ (∀ y ∈ t.recvs, y.id ≠ r.id) ∧
        EndsMarked s t c (if c.code = 8 then (c.st.getD 2 0).toNat % 2 ^ 23 else m.hdr.len) 0 ∧
        (m.hdr.kind = 0 → t.outbox = s.outbox ++ [.notice .delivery m.hdr.src m.hdr.mid]) ∧
        ((∀ y ∈ s.xfers, y.job ≠ r.id) → (∀ j, j < m.hdr.k → (fragOf m.frags j).isSome = true) → t.mem = s.mem) ∧
        (let size := fragSize m.hdr.len m.hdr.k
          let put := fun (j i : Nat) => j < m.hdr.k ∧ fragOf m.frags j = none ∧ i < size ∧ j * size + i < m.hdr.len
          ∀ p, r.dst = .far p → s.xfers = [] → m.hdr.len ≤ 2 ^ 24 →
          (∀ j, j < m.hdr.k → fragOf m.frags j = none → (rebuild m.frags m.hdr.k size j).length = size) →
          (∀ j i, put j i → t.mem.read (p + j * size + i) = (rebuild m.frags m.hdr.k size j).getD i 0) ∧
          (∀ q, (∀ j i, put j i → q ≠ p + j * size + i) → t.mem.read q = s.mem.read q))) ∧
    -- R206
    (∀ m : Msg, isMsg m → m.full = none → boundaryAfter s m.first s.losstmo → m.recv ≠ some 0 →
      (m.hdr.rt = 1 → m.hdr.att = 0 → m.recv = none → ∃ t : State, exec (.messageLost m.id) s = .next t ∧ gone t m ∧
        (m.hdr.src, m.hdr.mid) ∈ t.retired ∧ t.outbox = s.outbox ++ [.notice .resend m.hdr.src m.hdr.mid]) ∧
      (∀ (r : Recv) (c : Cmd), m.hdr.rt = 0 ∨ m.hdr.att = 1 → m.hdr.kind ≠ 1 → s.recvs.find? (fun y => some y.id == m.recv) = some r → serves s r.cmd c →
        r.own = c.own → (∀ y ∈ s.xfers, y.cmd ≠ c.id) → ∃ t : State, exec (.messageLost m.id) s = .next t ∧ gone t m ∧ (∀ y ∈ t.recvs, y.id ≠ r.id) ∧
          EndsMarked s t c 0 6 ∧ Waits s t c.own 0x22 r.addr ∧ t.outbox = s.outbox ++ [.notice .finalLoss m.hdr.src m.hdr.mid])) ∧
    -- R208
    (∀ (m : Msg) (a : Nat), isMsg m → m.recv = none → m.hdr.kind ≠ 1 → m.full = some a → boundaryAfter s (a / 1024) (2 * s.losstmo) →
      ∃ t : State, exec (.heldMessageDiscard m.id) s = .next t ∧ gone t m ∧ t.fabYard = min (s.fabYard + 1) (2 ^ 16 - 1) ∧ t.mem = s.mem ∧
        t.outbox = s.outbox ++ [.notice .finalLoss m.hdr.src m.hdr.mid]) ∧
    (∀ m : Msg, fabricRuns s → s.msgs.find? (fun y => y.hdr.src == m.hdr.src && y.hdr.mid == m.hdr.mid && y.hdr.kind == 0 && (y.full.isNone || y.recv.isNone)) =
        some m → ∃ t : State, exec (.abandonNotice m.hdr.src m.hdr.mid) s = .next t ∧ gone t m ∧ (m.hdr.src, m.hdr.mid) ∈ t.retired) ∧
    (∀ src mid, fabricRuns s → (∀ m ∈ s.msgs, ¬(m.hdr.src = src ∧ m.hdr.mid = mid)) → ∃ t : State, exec (.abandonNotice src mid) s = .next t ∧
      (src, mid) ∈ t.retired ∧ t.msgs = s.msgs ∧ t.recvs = s.recvs ∧ t.mem = s.mem) ∧
    (∀ src mid dev group gseq port hd pay, ¬fabricRuns s →
      ∀ i ∈ [Instr.abandonNotice src mid, .collectiveOrderNotice dev ⟨group, gseq⟩, .fragmentArrival dev port hd pay], exec i s = .next s) ∧
    -- R346
    (∀ (r : Recv) (c : Cmd), s.recvs.find? (fun y => y.id == r.id) = some r → serves s r.cmd c → r.wait ≠ 0 → r.msg = none → boundaryAfter s r.from_ r.wait →
      (∀ y ∈ s.xfers, y.cmd ≠ c.id) →
      ∃ t : State, exec (.grecvWaitExpiry r.id) s = .next t ∧ EndsMarked s t c 0 5 ∧ (∀ y ∈ t.recvs, y.id ≠ r.id) ∧
        ((∀ y ∈ s.xfers, y.job ≠ r.id) → t.mem = s.mem)) ∧
    -- R427
    (∀ r : Reduction, s.reductions.find? (fun y => y.id == r.id) = some r → r.st = .collecting → boundaryAfter s r.first s.losstmo →
      (∃ d ∈ ((groupOf s r.dev r.group).getD (0, [])).2, d ∉ r.came) →
      ∃ t : State, exec (.reductionTimeout r.id) s = .next t ∧ t.mem = s.mem ∧ (∀ y ∈ t.reductions, y.id = r.id → y.st = .lost) ∧
        (∀ d ∈ ((groupOf s r.dev r.group).getD (0, [])).2, ∃ mid, .notice .finalLoss d mid ∈ t.outbox) ∧
        ∀ m ∈ t.msgs, ¬(m.hdr.kind = 1 ∧ m.dev = r.dev ∧ m.hdr.tag = r.group ∧ m.hdr.gseq = r.gseq))

/-- R215 to R219: the timetable of a core: an instance starts at its start value; a send entry sends at its stamp, and one whose local
address fails raises cause 0x20; a receive entry still open at its deadline raises it too; an instance ends at its length, and the
last one ends the `gtt` with the count of the instances that ran.
The model's readings and choices it rests on: log 67, 68, 70, 130. -/
def Obligations.TimetablesRun : Prop :=
  ∀ (n entry : Nat) (T : Timetable) (s : State), (s.core n).gtt = some T →
    let begun := (T.tick + (T.inst - 1) * T.period) * 1024
    (n = s.myCore → coreGoes s → T.running = false → T.inst < T.count → s.station = (T.tick + T.inst * T.period) * 1024 →
      exec .timetableInstanceStart s = .next (s.setCore n { s.core n with
        gtt := some { T with running := true, inst := T.inst + 1, ran := T.ran + 1 } })) ∧
    (∀ e, T.entries[entry]? = some e → T.running = true → onCore s T.own → (s.ctx T.own.key).async.length < 16 →
      let y := (s.view T.own.dev).stall (addrStall e.addr)
      let good := e.addr.getLsbD 63 = true ∧ y.id ≠ 0 ∧ addrOffset e.addr + e.len ≤ 64 * y.len ∧ y.level < 3 ∧ y.core / 4 = n / 4 ∧
        y.st = .active ∧ s.tick < y.paid ∧ lienRoom (s.dev T.own.dev) [y.id] = true
      (e.kind = 1 → s.station = begun + e.stamp → good →
        ∃ t : State, ∃ x : Send, exec (.timetableSendEntry n entry) s = .next t ∧ t.sends = s.sends ++ [x] ∧ x.quiet = true ∧ x.src = some e.addr ∧
          x.liens = [y.id] ∧ x.hdr.dst = e.peer ∧ x.hdr.tag = e.tag ∧ x.hdr.len = e.len ∧ x.hdr.cls = e.cls ∧ x.hdr.rt = 0 ∧ x.hdr.kind = 0 ∧
          x.hdr.inst = (T.first + T.inst - 1) % 65536 ∧ x.hdr.mid = s.mid ∧ t.mid = (s.mid + 1) % 2 ^ 32 ∧
          t.devs = (s.placeLiens T.own.dev [y.id]).devs ∧ t.mem = s.mem ∧ t.ctxs = s.ctxs) ∧
      (e.kind = 1 → s.station = begun + e.stamp → ¬good →
        ∃ t : State, exec (.timetableSendEntry n entry) s = .next t ∧ t.sends = s.sends ∧ Waits s t T.own 0x20 e.addr ∧ t.mem = s.mem) ∧
      (e.kind = 2 → s.station = begun + e.consume → (∃ r, (entry, r) ∈ T.recvs) →
        ∃ t : State, exec (.timetableConsumeDeadline n entry) s = .next t ∧ Waits s t T.own 0x20 e.addr ∧ t.mem = s.mem ∧ t.recvs = s.recvs)) ∧
    (n = s.myCore → T.running = true → s.station = begun + T.length →
      (T.inst < T.count → ∃ t : State, exec .timetableInstanceEnd s = .next t ∧
        (t.core n).gtt = some { T with running := false, recvs := [] } ∧ (∀ r ∈ t.recvs, ∀ e ∈ T.recvs, e.2 ≠ r.id) ∧
        ((∀ e ∈ T.recvs, nothingComes s e.2) → t.mem = s.mem ∧ t.ctxs = s.ctxs)) ∧
      (∀ c, T.count ≤ T.inst → isCmd s T.cmd c → ∃ t : State, exec .timetableInstanceEnd s = .next t ∧ (t.core n).gtt = none ∧
        EndsAtLeast t c T.ran 0 0 0 ∧ (∀ r ∈ t.recvs, ∀ e ∈ T.recvs, e.2 ≠ r.id) ∧
        ((∀ e ∈ T.recvs, nothingComes s e.2) → EndsStarted s t c T.ran 0 0 0 ∧ t.mem = s.mem)))

/-! ### The yardmaster -/

namespace Sys2Proof.Machine

/-- The launch named stands in the state, and every launch under its own number. -/
def isLaunch (s : State) (l : Launch) : Prop := s.launch l.id = some l ∧ ∀ j d, s.launch j = some d → d.id = j

/-- The record that a queue takes as a new launch, with nothing to wait for (R367, R376). -/
def admits (s : State) (dev : Nat) (r : LaunchRec) : Prop :=
  (deviceLaunches s dev).length < 512 ∧ recordOk s dev r = true ∧ ∀ d ∈ r.deps, d = 0

/-- The record that the queue of an enabled device takes from a wake or from another package (R375, R403). -/
def accepts (s : State) (dev : Nat) (r : LaunchRec) : Prop := (s.dev dev).en = true ∧ admits s dev r

/-- The cores but for the time of R393, which a boundary may clear. -/
def coresStay (s t : State) : Prop := ∀ n, ∃ h, t.core n = { s.core n with haltedAt := h }

/-- No error waits to be found and no far request is outstanding: what is loaded are the bytes of memory. -/
def settledFar (s : State) : Prop := s.flips = [] ∧ s.xfers = []

/-- R394: no slot of the overflow holds a state of the launch. -/
def noSlot (s : State) (l : Launch) : Prop := ∀ e ∈ s.slotHolds, e.2 ≠ l.id

/-- R376, R377: a record stands in the queue as a new, eligible launch. -/
def Enqueued (s t : State) (dev : Nat) (r : LaunchRec) (a : Word) (gang : Nat) : Prop :=
  ∃ l, t.launch s.nextId = some l ∧ l.id = s.nextId ∧ l.dev = dev ∧ l.record = r ∧ l.recAddr = a ∧ l.stage = .eligible ∧
    l.waves = waveCount s dev r ∧ (r.fabric = false ∨ gang ≠ 0 → l.gang = gang) ∧ ∀ id, id ≠ s.nextId → t.launch id = s.launch id

end Sys2Proof.Machine

/-- R194, R219, R365, R370 to R379, R392 to R395: the yardmaster: at a boundary the budgets of the reservations are settled and the ready
device of the earliest deadline holds the paddock, and its head is placed on free cores; a wave's leaves start; a wave and a launch
end; a core is released; a pre-empted core is saved and restored. The launches over several packages are copied, reported and discarded.
The model's readings and choices it rests on: log 98, 99, 100, 110, 137, 138, 142, 152, 153, 159, 160. -/
def Obligations.LaunchesAreScheduled : Prop :=
  ∀ (s : State),
    -- R378, R379
    (boundary s → (s.shed = .running → s.launches = []) → FMap.wf {} s.devs = true →
      ∃ t : State, exec .yardmasterBoundary s = .next t ∧ t.mem = s.mem ∧ coresStay s t ∧ t.launches = s.launches ∧
        (s.shed = .running → ∀ p, p < 16 → t.holders.get none p = none) ∧ (s.shed ≠ .running → t.holders = s.holders) ∧
        ∀ p dev, p < 16 → (s.dev dev).resv.get {} p ≠ {} →
          let r := (s.dev dev).resv.get {} p
          let left := if s.holders.get none p = some dev ∧ r.budget ≠ 0 then r.left - 1 else r.left
          (∀ b n, r.pending = some (b, n) → b ≠ 0 → (t.dev dev).resv.get {} p = { budget := b, period := n, left := b, deadline := s.tick + n }) ∧
          (∀ n, r.pending = some (0, n) → (t.dev dev).resv.get {} p = { period := n }) ∧
          (r.pending = none → r.budget ≠ 0 → r.deadline ≤ s.tick →
            (t.dev dev).resv.get {} p = { r with left := r.budget, deadline := s.tick + r.period }) ∧
          (r.pending = none → s.tick < r.deadline → (t.dev dev).resv.get {} p = { r with left := left })) ∧
    (∀ l y hd, boundary s → s.shed = .running → FMap.wf {} s.devs = true → s.launches = [(l.id, some l)] → l.stage = .eligible → l.endAt = none →
      l.record.paddock < 16 → l.record.fabric = false → l.gang = 0 → l.record.entries = [] → l.dev < 64 → (s.dev l.dev).en = true →
      0 < (((s.dev l.dev).resv.get {} l.record.paddock).settle s.tick (decide (s.holders.get none l.record.paddock = some l.dev))).left →
      needsMove s l.dev l.record.paddock = false → s.pwrAvg ≤ s.pwrCap → kernelImage s l = some (y, hd) → settledFar s →
      (∀ x ∈ s.overflow, x.transit = false) →
      let p := l.record.paddock
      (placeWave s l.dev l.record (freeFor s l.dev p) = none →
        ∃ t : State, exec .yardmasterBoundary s = .next t ∧ t.holders.get none p = some l.dev ∧ t.launches = s.launches ∧ coresStay s t ∧
          t.mem = s.mem) ∧
      (∀ units, placeWave s l.dev l.record (freeFor s l.dev p) = some units →
        ∃ t : State, ∃ k, exec .yardmasterBoundary s = .next t ∧ t.holders.get none p = some l.dev ∧ t.mem = s.mem ∧ t.launch l.id = some k ∧
          k.stage = .loading ∧ k.wave = 0 ∧ k.units = units ∧ k.placed = s.tick ∧
          ∀ u ∈ units, (t.core u.1).owner = l.id ∧ (t.core u.1).code = s.mem.readN (y.phys + hd.code) hd.codeLen ∧
            (t.core u.1).eng.routine = none ∧ (t.core u.1).eng.queue = [])) ∧
    -- R373, R375
    (∀ l, isLaunch s l → l.id = s.cur → boundary s → s.shed = .running → (l.leaves.map Prod.fst).Nodup →
      (l.stage = .loading ∧ l.placed < s.tick ∧ l.gang = 0) ∨ (l.stage = .gang ∧ ∃ g, l.gangTick = some g ∧ g ≤ s.tick) →
      ∃ t : State, exec .gangTick s = .next t ∧ t.mem = s.mem ∧ coresStay s t ∧ (t.launch l.id).map (·.stage) = some .running ∧
        (t.launch l.id).map (·.live) = some l.leaves.length ∧
        ∀ e ∈ l.leaves,
          let c := t.ctx e.1
          c.run = .ready ∧ c.ring = .user ∧ c.launch = l.id ∧ c.dev = l.dev ∧ c.acct = l.record.acct ∧ c.elastic = l.record.mode ∧ c.pc = 0 ∧
            c.pend = [] ∧ c.evq = [] ∧ c.v = [] ∧ c.k = [] ∧ c.flags = 0 ∧
            (∀ i, i < 8 → c.x.get 0 (1 + i) = BitVec.ofNat 64 (e.2.getD i 0) ∧ c.x.get 0 (16 + i) = l.record.args.getD i 0) ∧
            (∀ i id, i < 5 → l.far.find? (fun f => f.1 == i) = some (i, id) → id < 2 ^ 15 → c.x.get 0 (24 + i) = stallAddr id 0)) ∧
    (∀ l, isLaunch s l → l.id = s.cur → boundary s → s.shed = .running → l.stage = .loading → l.placed < s.tick → l.gang ≠ 0 →
      l.gang / 2 ^ 32 ≠ s.pkgid → ∃ t : State, exec .gangTick s = .next t ∧ t.launch l.id = some { l with stage := .gang } ∧
        t.outbox = s.outbox ++ [.report (l.gang / 2 ^ 32) l.gang 0] ∧ t.ctxs = s.ctxs ∧ t.mem = s.mem) ∧
    (∀ l tick, gangLaunch s l.gang = some l → fabricRuns s →
      (tick ≠ 0 → exec (.gangTickNotice l.gang tick) s = .next (s.setLaunch { l with gangTick := some tick })) ∧
      (tick = 0 → exec (.gangTickNotice l.gang tick) s = .next (s.setLaunch { l with ahead := true }))) ∧
    (∀ dev dom bs gang member cause tick, ¬fabricRuns s →
      ∀ i ∈ [Instr.launchCopy dev dom bs gang, .memberReport gang member cause, .gangTickNotice gang tick, .launchDiscard gang], exec i s = .next s) ∧
    (∀ l member, homeLaunch s l.gang = some l → isLaunch s l → fabricRuns s →
      let members := ((groupOf s l.dev l.record.group).getD (0, [])).2
      ((∃ m ∈ members, m ≠ member ∧ m ∉ l.came) → ∃ t : State, ∃ k : Launch, exec (.memberReport l.gang member 0) s = .next t ∧ t.launch l.id = some k ∧
        (∀ m, m ∈ k.came ↔ m ∈ l.came ∨ m = member) ∧ k.gangTick = l.gangTick ∧ t.outbox = s.outbox) ∧
      ((∀ m ∈ members, m = member ∨ m ∈ l.came) → ∃ t : State, ∃ k : Launch, exec (.memberReport l.gang member 0) s = .next t ∧ t.launch l.id = some k ∧
        k.gangTick = some ((s.station + 1023) / 1024 + 16) ∧
        ∀ m ∈ members, m ≠ s.pkgid → .gangTick m l.gang ((s.station + 1023) / 1024 + 16) ∈ t.outbox) ∧
      ((∃ m ∈ members, m ≠ member ∧ m ∉ l.gone) → ∃ t : State, ∃ k : Launch, exec (.memberReport l.gang member 1) s = .next t ∧ t.launch l.id = some k ∧
        (∀ m, m ∈ k.gone ↔ m ∈ l.gone ∨ m = member)) ∧
      ((∀ m ∈ members, m = member ∨ m ∈ l.gone) → ∃ t : State, ∃ k : Launch, exec (.memberReport l.gang member 1) s = .next t ∧ t.launch l.id = some k ∧
        (l.stage = .ended → k.endAt = some s.station ∧ t.outbox = s.outbox) ∧
        (l.stage ≠ .ended → l.wave + 1 < l.waves → k.ahead = true ∧ k.gone = [] ∧ ∀ m ∈ members, m ≠ s.pkgid → .gangTick m l.gang 0 ∈ t.outbox)) ∧
      (∃ t : State, exec (.memberReport l.gang member 2) s = .next t ∧ t.launch l.id = none ∧
        ∀ m ∈ members, m ≠ s.pkgid → .discard m l.gang ∈ t.outbox)) ∧
    (∀ dev dom gang bs, gang ≠ 0 → fabricRuns s →
      ((s.dev dev).fabdom = dom → accepts s dev (parseRecord bs) →
        ∃ t : State, exec (.launchCopy dev dom bs gang) s = .next t ∧ Enqueued s t dev (parseRecord bs) 0 gang ∧ t.mem = s.mem) ∧
      ((s.dev dev).fabdom ≠ dom ∨ (s.dev dev).en = false ∨ recordOk s dev (parseRecord bs) = false →
        exec (.launchCopy dev dom bs gang) s = .next { s with outbox := s.outbox ++ [.report (gang / 2 ^ 32) gang 2] })) ∧
    (∀ l, gangLaunch s l.gang = some l → isLaunch s l → fabricRuns s → ∃ t : State, exec (.launchDiscard l.gang) s = .next t ∧
      t.launch l.id = none ∧ (noSlot s l → t.mem = s.mem) ∧
      ∀ key, (s.ctx key).launch = l.id → (s.ctx key).run = .ready → (t.ctx key).run = .ended) ∧
    -- R371, R372, R374
    (∀ l e, isLaunch s l → l.id = s.cur → l.endAt = some e → e < s.station →
      (l.waves ≤ l.wave + 1 → ∃ t : State, exec .waveEnd s = .next t ∧ t.launch l.id = some { l with near := [] } ∧ t.mem = s.mem) ∧
      (l.wave + 1 < l.waves → l.stage = .running → ∃ t : State, exec .waveEnd s = .next t ∧ t.mem = s.mem ∧
        let ended := { l with near := [], endAt := none, stage := .between }
        let moves := digitMoves (s.vacateNear l) l
        (l.record.fabric = false → moves = false) ∧
        (moves = false → t.launch l.id = some ended ∧ t.outbox = s.outbox) ∧
        (moves = true → l.gang / 2 ^ 32 ≠ s.pkgid → l.leaves ≠ [] → t.launch l.id = some ended ∧ t.outbox = s.outbox ++ [.report (l.gang / 2 ^ 32) l.gang 1])) ∧
      (l.near = [] → l.waves ≤ l.wave + 1 → l.stage ≠ .ended → noSlot s l →
        (l.gang = 0 → l.record.donej = 0 → ∃ t : State, exec .launchEnd s = .next t ∧ t.launch l.id = none ∧ t.mem = s.mem ∧ t.accesses = s.accesses) ∧
        (∀ y, l.gang = 0 → l.record.donej ≠ 0 → l.far = [] → jcbStall s l.dev l.record.donej = .ok y →
          let w := jcbWord s (y.phys + addrOffset l.record.donej)
          jcbState w = 1 → jcbDone w + 1 < jcbExpected w → ∃ t : State, ∃ x : Access, exec .launchEnd s = .next t ∧ t.launch l.id = none ∧ t.mem = s.mem ∧
            t.accesses = s.accesses ++ [x] ∧ x.agent = 6 ∧ x.due = s.station) ∧
        (l.gang ≠ 0 → isHome s l = true → (∃ m ∈ gangMembers s l, m ≠ s.pkgid ∧ m ∉ l.gone) →
          ∃ t : State, ∃ k, exec .launchEnd s = .next t ∧ t.launch l.id = some k ∧ k.stage = .ended ∧ k.far = [] ∧ s.pkgid ∈ k.gone ∧ t.mem = s.mem) ∧
        (l.gang ≠ 0 → isHome s l = true → (∀ m ∈ gangMembers s l, m = s.pkgid ∨ m ∈ l.gone) → l.record.donej = 0 →
          ∃ t : State, exec .launchEnd s = .next t ∧ t.launch l.id = none ∧ t.mem = s.mem ∧ t.accesses = s.accesses) ∧
        (l.gang ≠ 0 → isHome s l = false → l.leaves ≠ [] → ∃ t : State, exec .launchEnd s = .next t ∧ t.launch l.id = none ∧ t.mem = s.mem ∧
          t.outbox = s.outbox ++ [.report (l.gang / 2 ^ 32) l.gang 1]))) ∧
    -- R370
    (let k := s.core s.myCore
     boundary s → k.owner ≠ 0 → coreQuiet s s.myCore = true →
      (∀ l, s.launch k.owner = some l → l.id = k.owner ∧ (l.stage = .ended ∨ (l.waves ≤ l.wave + 1 ∧ l.stage = .running ∧
        (l.endAt.isSome = true ∨ ∃ e ∈ l.leaves, keyCore e.1 = s.myCore) ∧
        ∀ i, i < 4 → (s.ctx (4 * s.myCore + i)).launch = l.id → (s.ctx (4 * s.myCore + i)).alive = false))) →
      ∃ t : State, exec .coreRelease s = .next t ∧ (t.core s.myCore).owner = 0 ∧ (t.core s.myCore).code = [] ∧ (t.core s.myCore).eng = {} ∧
        (t.core s.myCore).tack.slots = k.tack.slots ∧ (t.core s.myCore).leanTo = k.leanTo ∧ t.mem = s.mem ∧
        (∀ l, s.launch k.owner = some l → t.launch l.id = some { l with units := l.units.filter fun u => u.1 != s.myCore }) ∧
        ∀ i, i < 4 → t.ctx (4 * s.myCore + i) = { sbuf := (s.ctx (4 * s.myCore + i)).sbuf, sdue := (s.ctx (4 * s.myCore + i)).sdue }) ∧
    -- R194, R392 to R395
    (∀ l b, let n := s.myCore
      (s.core n).pre = some b → s.launch (s.core n).owner = some l → boundary s → l.record.snap = true → b + l.record.waitlim ≤ s.tick →
      ∃ t : State, exec .snapshotWaitExpiry s = .next t ∧ t.mem = s.mem ∧ ∀ i, i < 4 → (s.ctx (4 * n + i)).launch = (s.core n).owner →
        (s.ctx (4 * n + i)).run = .ready → t.ctx (4 * n + i) = { s.ctx (4 * n + i) with snapped := true }) ∧
    (preHalts s s.myCore = true → ∃ t : State, ∃ x, exec .preemptionHalt s = .next t ∧ (t.core s.myCore).leanTo = some x ∧
      x.launch = (s.core s.myCore).owner ∧ x.mp = (s.core s.myCore).landStg.mp ∧ x.rt = (s.core s.myCore).landStg.rt ∧ x.sc = (s.core s.myCore).sc ∧
      ((s.core s.myCore).eng.routine = none → x.acc = []) ∧
      (∀ r, (s.core s.myCore).eng.routine = some r → ∀ i ∈ r.liens, let y := s.stall r.own.dev i
        y.level = 0 → y.core = s.myCore → ∃ g, (y.phys, s.mem.readN y.phys (64 * y.len), g) ∈ x.acc) ∧
      x.gtt = (s.core s.myCore).gtt ∧ x.tackQ = (s.core s.myCore).tack.queue ∧ (t.core s.myCore).owner = 0 ∧
      (overflowOk s = false ∨ (s.core s.myCore).leanTo = none → t.mem = s.mem) ∧
      (∀ i, i < 4 → let c := s.ctx (4 * s.myCore + i)
        x.ctxs.get {} (4 * s.myCore + i) = { c with run := if c.run = .ready then .saved else c.run, hold := none } ∧
        t.ctx (4 * s.myCore + i) = {}) ∧
      (∀ o, (s.core s.myCore).leanTo = some o → (∃ b, { o with transit := b } ∈ t.overflow) ∧
        (overflowOk s = true → s.holders.get none (s.paddocks.get 0 s.myCore) ≠ some o.dev → s.mem.wf = true →
          let p := (s.stall hypDev (addrStall s.ltovf)).at s.ltovf + (o.core * 64 + o.dev) * 2 ^ 22
          ∀ a, a < p ∨ p + 2 ^ 22 ≤ a → t.mem.read a = s.mem.read a))) ∧
    (∀ l u x, isLaunch s l → l.id = s.cur → resumable s l = true → l.units = [u] → savedOf s u.1 l.id = some x →
      (x.ctxs.map Prod.fst).Nodup → settledFar s → overflowOk s = false ∨ s.overflow = [] →
      ∃ t : State, exec .launchResume s = .next t ∧ (t.launch l.id).map (·.stage) = some l.back ∧ (t.core u.1).owner = l.id ∧ (t.core u.1).mp = x.mp ∧
        (t.core u.1).rt = x.rt ∧ (t.core u.1).sc = x.sc ∧ (t.core u.1).tack.queue = x.tackQ ∧
        (x.acc = [] → t.mem = s.mem) ∧
        (∀ p bs g, x.acc = [(p, bs, g)] → t.mem.readN p bs.length = bs ∧ ∀ q, q < p ∨ p + bs.length ≤ q → t.mem.read q = s.mem.read q) ∧
        ∀ e ∈ x.ctxs, (t.ctx e.1).pc = e.2.pc ∧ (t.ctx e.1).x = e.2.x ∧ (t.ctx e.1).v = e.2.v ∧ (t.ctx e.1).k = e.2.k ∧
          (t.ctx e.1).pend = e.2.pend ∧ (t.ctx e.1).evq = e.2.evq ∧ (e.2.run = .saved → (t.ctx e.1).run = .ready))

/-- R280, R367, R380 to R383: wakes and the time-triggered table: a wake is served where a token is there and kept where none is; the
bucket is refilled at a boundary; a slot of the table enqueues its record, lets its turn pass, or counts as an overrun; a deferred
slot enqueues its record when the launch before has ended.
The model's readings and choices it rests on: log 80, 109, 160. -/
def Obligations.WakesAndTimedSlots : Prop :=
  ∀ (dev i : Nat) (s : State),
    let d := s.dev dev
    (∀ tail, (d.en = false → exec (.hostWake dev tail) s = .next s) ∧
      (d.en = true → d.tokens = 0 →
        exec (.hostWake dev tail) s = .next (s.setDev dev { d with wakeTail := tail % 2 ^ 32, wakeAgain := true })) ∧
      (d.en = true → 0 < d.tokens → d.subSize < 4096 → d.subHead ≤ d.subSize →
        ∃ t : State, exec (.hostWake dev tail) s = .next t ∧ (t.dev dev).tokens = d.tokens - 1 ∧
          (t.dev dev).subHead = tail % 2 ^ 32 % (d.subSize + 1) ∧
          (∀ bs, ringRecord s dev d.subHead = (d.subring + BitVec.ofNat 64 (256 * d.subHead), bs) → accepts s dev (parseRecord bs) →
            (d.subHead + 1) % (d.subSize + 1) = tail % 2 ^ 32 % (d.subSize + 1) → d.subHead ≠ tail % 2 ^ 32 % (d.subSize + 1) →
            Enqueued s t dev (parseRecord bs) (d.subring + BitVec.ofNat 64 (256 * d.subHead)) 0))) ∧
    (let m := s.dev s.cur
     let full := min m.burst (m.tokens + m.rate)
     (m.wakeAgain = false → exec .wakeRefill s = .next (s.setDev s.cur { m with tokens := full })) ∧
     (m.wakeAgain = true → m.en = true → 0 < full → m.subSize < 4096 → m.subHead ≤ m.subSize →
      ∃ t : State, exec .wakeRefill s = .next t ∧ (t.dev s.cur).tokens = full - 1 ∧ (t.dev s.cur).wakeAgain = false ∧
        (t.dev s.cur).subHead = m.wakeTail % (m.subSize + 1))) ∧
    (∀ p bs, slotEntry s i = some (p, bs) → boundary s →
      let key := bytesToNat ((bs.drop 8).take 12)
      let had := s.ttSlots.get {} i
      let e := if had.key = key then had else { had with done := 0, missed := 0, key := key }
      let reached := slotsReached bs (boundaryTime s)
      let en := (bs.getD 22 0).toNat % 2 = 1
      let wait := (bs.getD 22 0).toNat / 2 % 2 = 1
      let a : Word := BitVec.ofNat 64 (bytesToNat (bs.take 8))
      let who := bytesToNat ((bs.drop 20).take 2)
      let r := parseRecord (recordAt s who a)
      let busy := e.launch ≠ 0 ∧ (s.launch e.launch).any (fun l => !isOver s l) = true
      (∃ t : State, exec (.timeTriggeredSlot i) s = .next t ∧ (t.ttSlots.get {} i).done = reached ∧ (t.ttSlots.get {} i).key = key ∧
        (¬en ∨ reached ≤ e.done ∨ busy → t.launches = s.launches) ∧
        (¬en → t.mem = s.mem ∧ t.hypq = s.hypq) ∧
        (en → reached = e.done + 1 → ¬busy → e.missed = 0 → e.deferred = false → admits s who r →
          Enqueued s t who r a 0 ∧ (t.ttSlots.get {} i).launch = s.nextId ∧ t.mem = s.mem) ∧
        (en → ¬wait → e.done < reached → busy → e.missed = 0 → e.deferred = false → s.hypq.addr = 0 → reached - e.done < 2 ^ 16 →
          bytesToNat (t.mem.readN (p + 24) 4) = min (bytesToNat (s.mem.readN (p + 24) 4) + (reached - e.done)) (2 ^ 32 - 1) ∧
          t.hypq.lost = min (s.hypq.lost + (reached - e.done)) (2 ^ 16 - 1)) ∧
        (en → wait → reached = e.done + 1 → busy → e.missed = 0 → e.deferred = false →
          (t.ttSlots.get {} i).deferred = true ∧ t.mem = s.mem)) ∧
      (en → had.key = key → reached ≤ e.done → e.deferred = true → ¬busy → admits s who r →
        ∃ t : State, exec (.deferredSlotEnqueue i) s = .next t ∧ Enqueued s t who r a 0 ∧ (t.ttSlots.get {} i).deferred = false ∧
          (t.ttSlots.get {} i).launch = s.nextId ∧ t.mem = s.mem))

/-! ### Writes and events from outside the bundles -/

namespace Sys2Proof.Machine

/-- R404, R410: one record to a device's driver ring. -/
def DrvPosts (s t : State) (dev r : Nat) : Prop :=
  let g := (s.dev dev).drvq
  (∀ p, ringSlot s dev g = some p → bytesToNat (t.mem.readN p 32) = r % 2 ^ 256 ∧
    (∀ q, q < p ∨ p + 32 ≤ q → t.mem.read q = s.mem.read q) ∧ (t.dev dev).drvq = { g with tail := (g.tail + 1) % 256 } ∧
    t.msix = s.msix ++ [dev + 1]) ∧
  (ringSlot s dev g = none → t.mem = s.mem ∧ (t.dev dev).drvq = { g with lost := min (g.lost + 1) 65535 } ∧ t.msix = s.msix)

/-- R27: the translations that go, those named, and those that stay. -/
def Invalidated (s t : State) (named : TEntry → Prop) : Prop :=
  ∀ die e, (named e → e ∉ t.tcache.get [] die) ∧ (¬named e → e ∈ s.tcache.get [] die → e ∈ t.tcache.get [] die)

/-- R378: the terms of a reservation: a write not yet in effect counts. -/
def resvTerms (r : Resv) : Rat × Rat := match r.pending with | some p => (p.1, p.2) | none => (r.budget, r.period)

/-- R405: the context of a key is stopped toward HYP on its core, and its device is selected. -/
def stoppedHere (s : State) (key : Nat) : Prop := (s.ctx key).run = .stopHyp ∧ (s.ctx key).dev = s.vdsel

end Sys2Proof.Machine

/-- R27, R38, R200, R209, R378, R391, R400 to R405, R408 to R410, R416: the writes that reach registers from outside the bundles: TOPUP, PTINV
and its record, RESV with its admission test, VDCTL, DTBASE, CTXCTL, CODERATE, LOSSTMO, PWRCAP, the registers of the window under
their access codes, what a read of the window or of a BAR returns, also after a boot that failed (R411), what the hypervisor ring reads of
a stall table and of its other stalls (R45), and records to the event rings. The number of MIGCTL (R33) is the model's free value: log 103.
The model's readings and choices it rests on: log 73, 74, 101, 102, 103, 104, 105, 118, 161. -/
def Obligations.OutsideWritesReachRegisters : Prop :=
  ∀ (dev : Nat) (value : Word) (s : State),
    let v := value.toNat
    let d := s.dev dev
    let f := fun (lo n : Nat) => v / 2 ^ lo % 2 ^ n
    -- R38
    (∀ acct, (value.getLsbD 63 = true → exec (.topupWrite dev acct value) s = .next s) ∧
      (value.getLsbD 63 = false → ∃ t : State, exec (.topupWrite dev acct value) s = .next t ∧ t.mem = s.mem ∧ t.ctxs = s.ctxs ∧
        (t.dev dev).accts.get 0 acct = max (-(2 ^ 63)) (min (2 ^ 63 - 1) (d.accts.get 0 acct + v)) ∧
        ∀ b, b ≠ acct → (t.dev dev).accts.get 0 b = d.accts.get 0 b)) ∧
    -- R27
    (∃ t : State, ∃ held, exec (.ptinvPage dev value) s = .next t ∧ t.mem = s.mem ∧ (t.dev dev).ptinv = d.ptinv ++ [(value, held)] ∧
      Invalidated s t fun e => e.dev = dev ∧ e.page < 2 ^ 60 ∧ (e.page = f 16 47 ∨ (e.big = true ∧ e.page / 512 = f 16 47 / 512))) ∧
    (∃ t : State, ∃ held, exec (.ptinvAll dev) s = .next t ∧ t.mem = s.mem ∧ (t.dev dev).ptinv = d.ptinv ++ [(1, held)] ∧
      Invalidated s t fun e => e.dev = dev ∧ e.page < 2 ^ 60) ∧
    (∀ rest, (s.dev s.cur).ptinv = (value, []) :: rest → ∃ t : State, exec .ptinvComplete s = .next t ∧ (t.dev s.cur).ptinv = rest ∧
      HypPosts s t (mkRecord value s.station s.cur 0 0 8 1 0 0 0)) ∧
    -- R378
    ((∀ e ∈ s.devs, (resvTerms (e.2.resv.get {} (f 60 4))).2 ≠ 0 ∨ (resvTerms (e.2.resv.get {} (f 60 4))).1 = 0) →
      ∃ t : State, exec (.resvWrite dev value) s = .next t ∧ t.mem = s.mem ∧
        let others := (s.devs.filter fun e => e.1 ≠ dev).map fun e => resvTerms (e.2.resv.get {} (f 60 4))
        let admitted := f 0 16 = 0 ∨
          (f 16 16 ≠ 0 ∧ f 0 16 ≤ f 16 16 ∧ (others.map fun r => r.1 / r.2).sum + (f 0 16 : Rat) / (f 16 16 : Rat) ≤ 1)
        (admitted → ((t.dev dev).resv.get {} (f 60 4)).pending = some (f 0 16, f 16 16) ∧ (t.dev dev).resvPad = f 60 4 ∧
          (t.dev dev).refused = d.refused) ∧
        (¬admitted → t.dev dev = { d with refused := true })) ∧
    -- R403, R408
    (∃ t : State, exec (.vdctlWrite dev value) s = .next t ∧ t.mem = s.mem ∧ (t.dev dev).en = value.getLsbD 0 ∧ (t.dev dev).grace = f 8 8 ∧
      (t.dev dev).fabdom = f 32 16 ∧ (t.dev dev).stalls = d.stalls ∧
      (t.dev dev).runtime = if value.getLsbD 0 = true ∧ d.en = false then 0 else d.runtime) ∧
    (∃ t : State, exec (.dtbaseWrite dev value) s = .next t ∧ (t.dev dev).dtbase = (if d.en = true then d.dtbase else value) ∧ t.mem = s.mem) ∧
    -- R391, R405
    (∀ key skip, key < 256 →
      (stoppedOwner s key = none → exec (.ctxctlResumeUser key skip) s = .next { s with ctxsel := key } ∧
        exec (.ctxctlResumeDriver key skip) s = .next { s with ctxsel := key } ∧ exec (.ctxctlEndLeaf key) s = .next { s with ctxsel := key }) ∧
      (stoppedHere s key →
        let c := s.ctx key
        let back := fun (t : State) (r : CRing) => t.mem = s.mem ∧ t.ctxsel = key ∧ (t.ctx key).run = .resuming ∧ (t.ctx key).ring = r ∧
          (t.ctx key).x = c.x ∧ (t.ctx key).launch = c.launch ∧
          (∀ i, i < 4 → ((t.ctx key).lcnt.get 0 i).getLsbD 63 = c.trapH.cause.getLsbD (28 + i)) ∧
          (skip = false → (t.ctx key).pc = BitVec.ofNat 64 (c.trapH.pc.toNat / 2 * 2))
        (∃ t : State, exec (.ctxctlResumeUser key skip) s = .next t ∧ back t .user) ∧
        ((s.dev c.dev).dhimg ≠ 0 → ∃ t : State, exec (.ctxctlResumeDriver key skip) s = .next t ∧ back t .driver) ∧
        ((s.dev c.dev).dhimg = 0 → exec (.ctxctlResumeDriver key skip) s = .next { s with ctxsel := key }) ∧
        (∃ t : State, exec (.ctxctlEndLeaf key) s = .next t ∧ (t.ctx key).run = .ended ∧ (t.ctx key).evq = [] ∧ t.mem = s.mem ∧
          ∀ l, s.launch c.launch = some l → l.id = c.launch → (t.launch c.launch).map (·.live) = some (l.live - 1)))) ∧
    -- R200, R209, R416
    (∀ reg, reg < 8 →
      let good := 1 ≤ f 0 5 ∧ f 0 5 ≤ 16 ∧ f 8 4 ≤ 8 ∧ f 0 5 + f 8 4 ≤ 24 ∧ 1 ≤ f 16 5 ∧ f 16 5 ≤ 16
      ∃ t : State, exec (.coderateWrite reg value) s = .next t ∧ t.mem = s.mem ∧ (¬good → t.coderate.get 0 reg = s.coderate.get 0 reg) ∧
        (good → (t.coderate.get 0 reg).toNat = f 0 5 + f 8 4 * 2 ^ 8 + f 16 5 * 2 ^ 16 + f 24 1 * 2 ^ 24) ∧
        ∀ r, r < 8 → r ≠ reg → t.coderate.get 0 r = s.coderate.get 0 r) ∧
    (exec (.losstmoWrite value) s = .next (if f 0 8 = 0 then s else { s with losstmo := f 0 8 })) ∧
    (exec (.pwrcapWrite value) s = .next (if 300 ≤ f 0 16 ∧ f 0 16 ≤ 1800 then { s with pwrCap := f 0 16 } else s)) ∧
    -- R401 to R403
    (let w := s.vdsel
     let dv := s.dev w
     let put := fun (n : BitVec 12) (x : Device) => exec (.registerWrite ⟨0, n⟩ value) s = .next (s.setDev w x)
     exec (.registerWrite ⟨0, 0x800⟩ value) s = .next { s with vdsel := f 0 6 } ∧
     put 0x801 { dv with ptbase := value } ∧ put 0x804 { dv with topacct := f 0 8 } ∧ put 0x80A { dv with hbmshare := f 0 16 } ∧
     put 0x80B { dv with mitcnt := f 0 32 } ∧ put 0x811 { dv with refused := dv.refused && !value.getLsbD 0 } ∧
     put 0x812 { dv with burst := f 16 16, rate := f 0 16 } ∧ put 0x814 { dv with drvq := { dv.drvq with addr := value } } ∧
     put 0x815 { dv with drvq := { dv.drvq with head := f 0 8, lost := f 32 16 } } ∧ put 0x816 { dv with subring := value } ∧
     put 0x817 { dv with subSize := f 0 12 } ∧ put 0x826 { dv with grpbase := value } ∧
     (∀ n : BitVec 12, n ∈ [0x80C#12, 0x80D, 0x80E, 0x80F] → ∃ t : State, exec (.registerWrite ⟨0, n⟩ value) s = .next t ∧
       (t.dev w).pmallow.get 0 (n.toNat - 0x80C) = value) ∧
     (∃ t : State, exec (.registerWrite ⟨0, 0x807⟩ value) s = .next t ∧ (t.dev w).rates.get 0 0 = f 0 16 ∧ (t.dev w).rates.get 0 1 = f 16 16 ∧
       (t.dev w).rates.get 0 2 = f 32 16 ∧ (t.dev w).rates.get 0 3 = f 48 16 ∧ (t.dev w).rates.get 0 4 = dv.rates.get 0 4) ∧
     (∃ t : State, exec (.registerWrite ⟨0, 0x808⟩ value) s = .next t ∧ (t.dev w).rates.get 0 4 = f 0 16 ∧ (t.dev w).rates.get 0 5 = f 16 16 ∧
       (t.dev w).rates.get 0 0 = dv.rates.get 0 0) ∧
     exec (.registerWrite ⟨0, 0x802⟩ value) s = exec (.dtbaseWrite w value) s ∧
     exec (.registerWrite ⟨0, 0x803⟩ 1) s = exec (.ptinvAll w) s ∧
     (value.getLsbD 0 = false → exec (.registerWrite ⟨0, 0x803⟩ value) s = exec (.ptinvPage w value) s) ∧
     exec (.registerWrite ⟨0, 0x805⟩ value) s = exec (.topupWrite w dv.topacct value) s ∧
     exec (.registerWrite ⟨0, 0x809⟩ value) s = exec (.vdctlWrite w value) s ∧ exec (.registerWrite ⟨0, 0x810⟩ value) s = exec (.resvWrite w value) s ∧
     exec (.registerWrite ⟨0, 0x813⟩ value) s = .next { s with ttbase := value } ∧
     exec (.registerWrite ⟨0, 0x821⟩ value) s = .next { s with hypq := { s.hypq with addr := value } } ∧
     exec (.registerWrite ⟨0, 0x822⟩ value) s = .next { s with hypq := { s.hypq with head := f 0 8, lost := f 32 16 } } ∧
     exec (.registerWrite ⟨0, 0x823⟩ value) s = .next { s with ltovf := value } ∧
     exec (.registerWrite ⟨0, 0x830⟩ value) s = exec (.pwrcapWrite value) s ∧ exec (.registerWrite ⟨0, 0x831⟩ value) s = exec .attreq s ∧
     exec (.registerWrite ⟨0, 0x832⟩ value) s = .next { s with attdst := value } ∧
     (f 8 2 = 0 → exec (.registerWrite ⟨0, 0x825⟩ value) s = .next { s with ctxsel := f 0 8 }) ∧
     (f 8 2 = 1 → exec (.registerWrite ⟨0, 0x825⟩ value) s = exec (.ctxctlResumeUser (f 0 8) (value.getLsbD 10)) s) ∧
     (f 8 2 = 2 → exec (.registerWrite ⟨0, 0x825⟩ value) s = exec (.ctxctlResumeDriver (f 0 8) (value.getLsbD 10)) s) ∧
     (f 8 2 = 3 → exec (.registerWrite ⟨0, 0x825⟩ value) s = exec (.ctxctlEndLeaf (f 0 8)) s) ∧
     (value = 1 → exec (.registerWrite ⟨0, 0xC10⟩ value) s = exec .shedreq s) ∧ (value ≠ 1 → exec (.registerWrite ⟨0, 0xC10⟩ value) s = .next s)) ∧
    -- R33
    (∀ (n : BitVec 12) (die : Nat), die < 4 → migctlReg die = n.toNat →
      let m : MigCtl := { epoch := f 32 16, promote := f 24 8, demote := f 16 8, pause := value.getLsbD 1, en := value.getLsbD 0 }
      exec (.registerWrite ⟨0, n⟩ value) s = .next { s with migctl := s.migctl.set {} die m }) ∧
    -- R6, R401: what is ignored, and what a read of the window returns
    (∀ n : BitVec 12, csrAssigned n.toNat = false → (∀ die, die < 4 → migctlReg die ≠ n.toNat) →
      exec (.registerWrite ⟨0, n⟩ value) s = .next s ∧ s.regRead n.toNat = 0) ∧
    (∀ n : BitVec 12, n ∈ [0x820#12, 0x833, 0x834] → exec (.registerWrite ⟨0, n⟩ value) s = .next s) ∧
    (∀ n, n ∈ [0x803, 0x805, 0x825, 0x831, 0xC10] → s.regRead n = 0) ∧
    (∀ n : BitVec 12, n ∈ [0x801#12, 0x80C, 0x80D, 0x80E, 0x80F, 0x813, 0x814, 0x816, 0x821, 0x823, 0x826, 0x832] →
      ∃ t : State, exec (.registerWrite ⟨0, n⟩ value) s = .next t ∧ t.regRead n.toNat = value) ∧
    (let rd := fun (n : Nat) => (s.regRead n).toNat
     let g := s.dev s.vdsel
     (s.vdsel < 64 → rd 0x800 = s.vdsel) ∧ (g.hbmshare < 2 ^ 16 → rd 0x80A = g.hbmshare) ∧ (g.mitcnt < 2 ^ 32 → rd 0x80B = g.mitcnt) ∧
     (g.fabdom < 2 ^ 16 → g.grace < 2 ^ 8 → rd 0x809 = (if g.en = true then 1 else 0) + g.grace * 2 ^ 8 + g.fabdom * 2 ^ 32) ∧
     rd 0x811 = (if g.refused = true then 1 else 0) ∧ s.regRead 0x806 = BitVec.ofInt 64 (g.allow g.topacct) ∧
     (g.drvq.head < 256 → g.drvq.tail < 256 → g.drvq.lost < 2 ^ 16 → rd 0x815 = g.drvq.head + g.drvq.tail * 2 ^ 8 + g.drvq.lost * 2 ^ 32) ∧
     (s.boots < 2 ^ 32 → s.bootStage < 16 → s.bootPhase < 16 → rd 0x834 = s.bootPhase + s.bootStage * 2 ^ 4 + s.boots * 2 ^ 32) ∧
     rd 0x820 = (match s.shed with | .running => 0 | .entering => 1 | .checkpoint => 1 | .shed => 2 | .exiting => 3) ∧
     (s.pwrCap < 2 ^ 16 → s.pwrAvg < 2 ^ 16 → rd 0x830 = s.pwrCap + s.pwrAvg * 2 ^ 32)) ∧
    -- R400, R409
    (∀ (w : Nat) (n : BitVec 12),
      (n = 0x815 → exec (.registerWrite ⟨w + 1, n⟩ value) s =
        .next (s.setDev w { s.dev w with drvq := { (s.dev w).drvq with head := f 0 8 } })) ∧
      (n ≠ 0x815 → exec (.registerWrite ⟨w + 1, n⟩ value) s = .next s)) ∧
    (s.bootStage = 0 → (∀ w off, w < 64 → (off / 8 ≠ 1 → s.vfRead w off = some 0) ∧ (off / 8 = 1 → (s.dev w).drvq.head < 256 → (s.dev w).drvq.tail < 256 →
        (s.dev w).drvq.lost < 2 ^ 16 → (s.vfRead w off).map BitVec.toNat =
          some ((s.dev w).drvq.head + (s.dev w).drvq.tail * 2 ^ 8 + (s.dev w).drvq.lost * 2 ^ 32))) ∧
      (∀ off, (off / 8 < 4096 → s.pfRead off = some (s.regRead (off / 8))) ∧ (4096 ≤ off / 8 → s.pfRead off = some 0)) ∧
      (∀ n, n ≤ 64 → s.configAnswers n = true ∧ (1 ≤ n → s.vfEnabled n = true))) ∧
    -- R411
    (s.bootStage ≠ 0 → (∀ n, (s.configAnswers n = true ↔ n = 0) ∧ s.vfEnabled n = false) ∧ ∀ w off, s.vfRead w off = none ∧ s.pfRead off = none) ∧
    -- R45
    (∀ (a : Word) (id : Nat), dev < 64 → d.dtbase ≠ 0 → (∀ e, e < 64 → e ≠ dev → (s.dev e).dtbase = 0 ∨ addrStall (s.dev e).dtbase ≠ addrStall d.dtbase) →
      addrStall a = addrStall d.dtbase → id < 32768 → addrOffset a = addrOffset d.dtbase + 32 * id → addrOffset a + 32 ≤ 2 ^ 48 →
      let x := d.stall id
      let one := fun (b : Bool) => if b = true then 1 else 0
      bytesToNat ((List.range 32).map fun k => s.hypRead (a + BitVec.ofNat 64 k)) = if x.id = 0 then 0 else
        (x.base * 2 ^ 227 + x.len * 2 ^ 192 + x.paid * 2 ^ 128 + x.fmap * 2 ^ 96 + x.parent * 2 ^ 80 + x.rate * 2 ^ 64 + x.liens * 2 ^ 48 +
          x.acct * 2 ^ 40 + x.children * 2 ^ 32 + (match x.st with | .active => 0 | .overstay => 1 | .lapsed => 2) * 2 ^ 30 + one x.sync * 2 ^ 29 +
          one x.shared * 2 ^ 28 + one x.tolerant * 2 ^ 27 + (if x.level = 4 then 1 else 0) * 2 ^ 26 + x.level * 2 ^ 23 + x.core * 2 ^ 17 +
          one x.vac * 2 ^ 16 + x.id) % 2 ^ 256) ∧
    (∀ a : Word, (∀ e, e < 64 → (s.dev e).dtbase = 0 ∨ addrStall (s.dev e).dtbase ≠ addrStall a) →
      s.hypRead a = s.mem.read ((s.stall hypDev (addrStall a)).phys + addrOffset a)) ∧
    -- R404, R410
    (∀ bs, bs.length = 32 → (∃ t : State, exec (.eventRingRecord dev true bs) s = .next t ∧ HypPosts s t (bytesToNat bs)) ∧
      (∃ t : State, exec (.eventRingRecord dev false bs) s = .next t ∧ DrvPosts s t dev (bytesToNat bs)))

/-- R386, R396 to R399, R411 to R417: attestation reads its nonce when it is asked for and writes its report at its end; a measurement is
extended by SHA-256; a package reset boots the stages in order, the first against the fused digest of the root key, and measures each before
it runs; a warning, a shed request, the freeze
and stable power move the shed state on; MON lets a halted partition go on.
Choices in single clauses: a package reset fills the HBM pool of a die with 2,000,000,000 granules, less 1,000,000,000 for each of its
stacks that fails (log 5), keeps PKGID (log 7) and counts BOOTS up by one to its limit (log 8). The model's readings and choices it
rests on: log 5, 7, 8, 93, 106, 108, 116, 133, 158, 161. -/
def Obligations.BootAttestationAndShed : Prop :=
  ∀ (s : State),
    -- R413
    (let y := s.stall hypDev (addrStall s.attdst)
     (s.attBusy = none → s.attdst.getLsbD 63 = true → y.id ≠ 0 → y.st = .active → 8464 ≤ 64 * y.len →
       exec .attreq s = .next { s with attBusy := some (s.attdst, s.mem.readN y.phys 32) }) ∧
     (s.attdst.getLsbD 63 = false ∨ y.id = 0 ∨ y.st ≠ .active ∨ 64 * y.len < 8464 → exec .attreq s = .next s) ∧
     (s.attBusy ≠ none → exec .attreq s = .next s)) ∧
    (∀ a nonce, s.attBusy = some (a, nonce) → nonce.length = 32 → s.shed = .running →
      let y := s.stall hypDev (addrStall a)
      let p := y.phys
      y.id ≠ 0 → s.hypq.addr = 0 → ∃ t : State, exec .attestationComplete s = .next t ∧ t.attBusy = none ∧
        t.hypq.lost = min (s.hypq.lost + 1) 65535 ∧ (∀ q, q < p ∨ p + 8464 ≤ q → t.mem.read q = s.mem.read q) ∧
        bytesToNat (t.mem.readN p 2) = 1 ∧ bytesToNat (t.mem.readN (p + 8) 8) = Config.serial.toNat ∧ t.mem.readN (p + 16) 32 = nonce ∧
        (∀ i, i < 16 → t.mem.readN (p + 48 + 32 * i) 32 = beBytes 32 (s.meas.get 0 i).toNat) ∧
        bytesToNat (t.mem.readN (p + 560) 8) = s.boots % 2 ^ 64 ∧ bytesToNat (t.mem.readN (p + 568) 8) = s.shedCount % 2 ^ 64 ∧
        t.mem.readN (p + 576) 32 = (List.range 32).map Config.attKey ∧
        t.mem.readN (p + 608) 7856 = (List.range 7856).map (Config.signature (t.mem.readN p 608))) ∧
    -- R411, R412
    (∀ reg digest, digest.length = 32 →
      (4 ≤ reg → reg ≤ 15 → exec (.measurementExtend reg digest) s = .next { s with
        meas := s.meas.set 0 reg (BitVec.ofNat 256 (beNat (sha256 (beBytes 32 (s.meas.get 0 reg).toNat ++ digest)))) }) ∧
      (reg < 4 ∨ 15 < reg → exec (.measurementExtend reg digest) s = .next s)) ∧
    (∃ t : State, exec .packageReset s = .next t ∧ t.boots = min (s.boots + 1) (2 ^ 32 - 1) ∧ t.station = 0 ∧ t.mem = [] ∧ t.ctxs = [] ∧ t.cores = [] ∧
      t.devs = [] ∧ t.launches = [] ∧ t.shedCount = 0 ∧ t.pkgid = s.pkgid ∧
      let image := fun (n : Nat) => 16 * t.boots + n
      let ok := fun (n : Nat) => Config.signed (image n) = true ∧
        BitVec.ofNat 256 (beNat (sha256 ((List.range 32).map (Config.stageKey (image n))))) = Config.trustedKey (if n = 1 then 0 else image n) ∧
        Config.rollback n ≤ Config.stageVersion (image n)
      let hbm := fun (i : Nat) => Config.training t.boots i % 3
      let trained := t.hbmstat = ((List.range 8).map fun i => (hbm i + 1) * 4 ^ i).sum ∧
        ∀ d, d < 4 → t.poolHbm.getD d 0 = 2000000000 - (if hbm (2 * d) = 2 then 1000000000 else 0) - (if hbm (2 * d + 1) = 2 then 1000000000 else 0)
      (∀ n, 1 ≤ n → n ≤ 4 → (∀ m, 1 ≤ m → m < n → ok m) → ¬ok n → t.bootStage = n ∧ t.bootPhase = n - 1 ∧ (n < 4 → t.hbmstat = 0) ∧
        (n = 4 → trained)) ∧
      ((∀ m, 1 ≤ m → m ≤ 4 → ok m) → t.bootStage = 0 ∧ t.bootPhase = 0 ∧ trained) ∧
      (∀ i, i < 4 → (∀ m, 1 ≤ m → m ≤ i + 1 → ok m) → t.meas.get 0 i = BitVec.ofNat 256 (beNat (sha256
        (List.replicate 32 0 ++ beBytes 32 (Config.stageDigest (16 * t.boots + i + 1)).toNat)))) ∧
      (∀ i, 4 ≤ i → t.meas.get 0 i = 0)) ∧
    -- R397, R399, R415
    (∀ i ∈ [Instr.bowarn, .shedreq],
      (s.shed = .running ∨ s.shed = .exiting → ∃ t : State, exec i s = .next t ∧ t.shed = .entering ∧ t.stable = false ∧ t.mem = s.mem ∧ t.ctxs = s.ctxs ∧
        ∀ n, (t.core n).pre = if (s.core n).owner ≠ 0 ∧ (s.core n).pre = none then some s.tick else (s.core n).pre) ∧
      (s.shed = .entering ∨ s.shed = .checkpoint ∨ s.shed = .shed → exec i s = .next s)) ∧
    (s.shed ≠ .checkpoint → exec .shedFreeze s = .next s) ∧
    (s.shed = .checkpoint → (∀ x ∈ s.xfers, standsStill s x = true) → (∀ x ∈ s.sends, ∀ y ∈ s.xfers, y.job ≠ x.id) →
      (s.stable = false → ∃ t : State, exec .shedFreeze s = .next t ∧ t.shed = .shed ∧ t.frozen = true ∧ t.mem = s.mem ∧ t.ctxs = s.ctxs ∧ t.cores = s.cores) ∧
      (s.stable = true → ∃ t : State, exec .shedFreeze s = .next t ∧ t.shed = .exiting ∧ (s.flips = [] → t.mem = s.mem) ∧
        t.shedCount = min (s.shedCount + 1) 65535)) ∧
    (s.shed = .entering ∨ s.shed = .checkpoint → exec .pwrok s = .next { s with stable := true }) ∧
    (s.shed = .shed → ∃ t : State, exec .pwrok s = .next t ∧ t.shed = .exiting ∧ t.stable = false ∧ (s.flips = [] → t.mem = s.mem) ∧
      t.shedCount = min (s.shedCount + 1) 65535 ∧ t.shedGap < 2 ^ 48) ∧
    (s.shed = .running ∨ s.shed = .exiting → exec .pwrok s = .next s) ∧
    -- R386
    (∀ dev, ∃ t : State, exec (.partitionRelease dev) s = .next t ∧ (t.dev dev).halted = false ∧ t.mem = s.mem ∧
      ∀ n, n < 64 → (t.core n).halted = if (s.core n).halted = some dev then none else (s.core n).halted)

namespace Sys2Proof.Machine

/-- The micro-ops (R319 to R327), which stand in no slot of a bundle. -/
def isMicro : Instr → Bool
  | .microEnd _ | .microLoop _ _ _ _ | .endl | .ldst _ _ _ _ _ _ | .swap _ | .strm _ _ _ _ _ _ _ _ | .wcfg _ _ _ _ _
  | .microZero _ _ _ _ _ _ | .drn _ _ _ _ _ _ _ _ _ _ | .drnq _ _ _ _ _ _ _ _ _ _ _ _ | .drnx _ _ _ _ _ _ _ _ _ _ _ _
  | .prot | .post _ _ => true
  | _ => false

end Sys2Proof.Machine

/-! ### Encodings -/

/-- R131, R132, R234 to R243, R319 to R327: decoding and encoding agree, for every syllable and every micro-op and every value of its
operands: the word of a well-formed instruction fits its slot and decodes to it; and a word that decodes to an instruction is that
instruction's, and the instruction is well formed and stands in that slot. -/
def Obligations.EncodingRoundTrip : Prop :=
  (∀ (i : Instr) (sl : Slot), i.wf = true → i.slot = some sl →
    encode i < 2 ^ (16 * sl.parcels) ∧ encode i ≠ 0 ∧ decodeSlot sl (encode i) = some i) ∧
  (∀ i : Instr, i.wf = true → isMicro i = true → encode i < 2 ^ 64 ∧ decodeMicro (encode i) = some i) ∧
  (∀ (sl : Slot) (w : Nat) (i : Instr), decodeSlot sl w = some i → i.wf = true ∧ encode i = w ∧ i.slot = some sl) ∧
  ∀ (w : Nat) (i : Instr), decodeMicro w = some i → i.wf = true ∧ encode i = w ∧ isMicro i = true

/-- R234 to R242, R319: words written out from the encoding tables, one or more of each slot and of the micro-ops, decode to the
instructions they stand for. -/
def Obligations.WordsOfTheEncodingTables : Prop :=
  decodeSlot .B 0x10000000 = some (.br 0 0) ∧ decodeSlot .B 0x2F980000 = some (.call 60 3) ∧
  decodeSlot .B 0x40003003 = some (.loopi 0 3 3) ∧
  decodeSlot .S0 0x3038A300 = some (.mul .s0 7 5 6) ∧ decodeSlot .S1 0x622C1234 = some (.lih .s1 5 0x1234 2) ∧
  decodeSlot .S0 0x80086003 = some (.anyk .s0 1 3 .l128) ∧ decodeSlot .S1 0xA2101000 = some (.stgi .s1 2 4096) ∧
  decodeSlot .A 0x240A50000000 = some (.ldv 10 20 0 0 .e8) ∧
  decodeSlot .A 0x529051148200 = some (.atom .cas false 16 20 17 18 8) ∧
  decodeSlot .V0 0x012C0C0A0300 = some (.vadd .v0 .i32 771 10 12 0) ∧
  decodeSlot .V1 0x0601000A02C1 = some (.vmulw .v1 .i8 .quad 64 10 11 0) ∧
  decodeSlot .V0 0x4B80B02816C0 = some (.vcvt .v0 .e4m3 .f32 .rtz 44 40 0) ∧
  decodeSlot .V2 0x2110F03D0F80 = some (.vperm .v2 .i16 60 61 62 0) ∧
  decodeSlot .V2 0x75C4B0FA3242 = some (.adjb .v2 300 250 201 50 0) ∧
  decodeSlot .M 0x100A0190 = some (.mcallT 2 400) ∧ decodeSlot .M 0x205C0000 = some (.mcfg .d9p3 true true) ∧
  decodeSlot .Y 0x1180 = some (.sublet 24) ∧ decodeSlot .Y 0x2920 = some (.fence .quad .rel) ∧
  decodeSlot .Y 0x8401 = some .eretSkip ∧
  decodeMicro 0x2402000401E14000 = some (.drnq .always ⟨0, false⟩ 1 0 0 2 0 15 0 2 4 false)

/-! ### The whole machine -/

/-- The package's memory stays in its canonical form under every step, whatever else the state holds: addresses rise and no byte
is listed that an unlisted one reads as; so equal memories are equal data.
The model's readings and choices it rests on: log 4. -/
def Obligations.MemoryStaysCanonical : Prop :=
  ∀ s t : State, s.mem.wf = true → step s = .next t → t.mem.wf = true

/-- R33, R41, R200, R209, R381, R382, R389, R394, R403, R404, R412, R416: what package reset leaves where the spec gives a value: the rates of R41 for
every device, GRACE 16, the wake bucket, the disabled devices and empty rings; the code rates of R200 and the loss time; TTBASE,
LTOVF and DSCR0 to DSCR3 zero; the power cap; MIGCTL of every die; the station at 0; and the memory in its canonical form.
The model's readings and choices it rests on: log 9, 106. -/
def Obligations.ResetLeaves : Prop :=
  (∀ d : Nat, (List.range 6).map ((State.reset.dev d).rates.get 0) = [96, 32, 32, 4, 2, 1] ∧
    (State.reset.dev d).en = false ∧ (State.reset.dev d).grace = 16 ∧ (State.reset.dev d).fabdom = 0 ∧
    (State.reset.dev d).ptbase = 0 ∧ (State.reset.dev d).dtbase = 0 ∧ (∀ a, (State.reset.dev d).accts.get 0 a = 0) ∧
    (State.reset.dev d).subring = 0 ∧ (State.reset.dev d).grpbase = 0 ∧ (State.reset.dev d).drvq = {} ∧
    (State.reset.dev d).tokens = 8 ∧ (State.reset.dev d).burst = 8 ∧ (State.reset.dev d).rate = 1) ∧
  (∀ die, State.reset.migctl.get {} die = ⟨4096, 64, 8, false, true⟩) ∧
  State.reset.hypq = {} ∧
  (∀ c, c < 8 → ((State.reset.coderate.get 0 c).toNat % 2 ^ 8, (State.reset.coderate.get 0 c).toNat / 2 ^ 8 % 2 ^ 8,
      (State.reset.coderate.get 0 c).toNat / 2 ^ 16 % 2 ^ 8, (State.reset.coderate.get 0 c).toNat / 2 ^ 24 % 2) =
    [(4, 1, 5, 0), (4, 2, 6, 1), (8, 2, 10, 1), (8, 3, 11, 1), (12, 4, 16, 1), (1, 1, 2, 1), (16, 4, 16, 1), (1, 0, 1, 0)].getD c
      (0, 0, 0, 0)) ∧
  State.reset.losstmo = 64 ∧ State.reset.ttbase = 0 ∧ State.reset.ltovf = 0 ∧ (∀ k i, (State.reset.ctx k).dscr.get 0 i = 0) ∧
  State.reset.pwrCap = 1800 ∧ State.reset.pwrAvg = 0 ∧ State.reset.station = 0 ∧ State.reset.mem.wf = true
end

