-- ==== Sys2Proof/Laws/FMap.lean ====
section
/-!
SUPPORT. Sys2Proof/Laws/FMap.lean: reading a map after a change of one key, and the canonical form of maps.
-/
namespace Sys2Proof.Machine

variable {α : Type}

theorem FMap.get_put_self (d : α) (m : FMap α) (n : Nat) (v : α) : FMap.get d (FMap.put m n v) n = v := by
  induction m with
  | nil => simp [FMap.put, FMap.get]
  | cons e m ih =>
    obtain ⟨k, x⟩ := e
    unfold FMap.put
    split
    · simp [FMap.get]
    · split
      · simp [FMap.get]
      · next h => simp only [FMap.get]; rw [if_neg (fun e => h e.symm)]; exact ih

theorem FMap.get_put_ne (d : α) (m : FMap α) {n q : Nat} (v : α) (h : q ≠ n) :
    FMap.get d (FMap.put m n v) q = FMap.get d m q := by
  induction m with
  | nil => simp [FMap.put, FMap.get, Ne.symm h]
  | cons e m ih =>
    obtain ⟨k, x⟩ := e
    unfold FMap.put
    split
    · simp [FMap.get, Ne.symm h]
    · split
      · next h2 => subst h2; simp [FMap.get, Ne.symm h]
      · simp only [FMap.get]; split
        · rfl
        · exact ih

theorem FMap.get_erase_self (d : α) (m : FMap α) (n : Nat) : FMap.get d (m.filter fun e => e.1 != n) n = d := by
  induction m with
  | nil => rfl
  | cons e m ih =>
    obtain ⟨k, x⟩ := e
    by_cases h : k = n
    · simp [h, ih]
    · simp [h, FMap.get, ih]

theorem FMap.get_erase_ne (d : α) (m : FMap α) {n q : Nat} (h : q ≠ n) :
    FMap.get d (m.filter fun e => e.1 != n) q = FMap.get d m q := by
  induction m with
  | nil => rfl
  | cons e m ih =>
    obtain ⟨k, x⟩ := e
    by_cases hk : k = n
    · simp [hk, ih, FMap.get, Ne.symm h]
    · simp only [List.filter_cons, bne_iff_ne, ne_eq, hk, not_false_eq_true, ↓reduceIte, FMap.get]
      split
      · rfl
      · exact ih

/-- A key reads as the value it was set to. -/
@[simp] theorem FMap.get_set_self [DecidableEq α] (d : α) (m : FMap α) (n : Nat) (v : α) :
    FMap.get d (FMap.set d m n v) n = v := by
  unfold FMap.set
  split
  · next h => rw [FMap.get_erase_self, h]
  · exact FMap.get_put_self d m n v

/-- Every other key reads as before. -/
theorem FMap.get_set_ne [DecidableEq α] (d : α) (m : FMap α) {n q : Nat} (v : α) (h : q ≠ n) :
    FMap.get d (FMap.set d m n v) q = FMap.get d m q := by
  unfold FMap.set
  split
  · exact FMap.get_erase_ne d m h
  · exact FMap.get_put_ne d m v h

/-- Reading after one change, in one formula. -/
theorem FMap.get_set [DecidableEq α] (d : α) (m : FMap α) (n q : Nat) (v : α) :
    FMap.get d (FMap.set d m n v) q = if q = n then v else FMap.get d m q := by
  split
  · next h => rw [h, FMap.get_set_self]
  · next h => exact FMap.get_set_ne d m v h

/-! ### The canonical form -/

/-- The canonical form, said of keys and values apart. -/
theorem FMap.wf_iff [DecidableEq α] (d : α) (m : FMap α) :
    FMap.wf d m = true ↔ m.Pairwise (fun a b => a.1 < b.1) ∧ ∀ e ∈ m, e.2 ≠ d := by
  induction m with
  | nil => simp [FMap.wf]
  | cons e m ih =>
    obtain ⟨k, v⟩ := e
    cases m with
    | nil => simp [FMap.wf]
    | cons e' m =>
      obtain ⟨k', v'⟩ := e'
      simp only [FMap.wf, Bool.and_eq_true, decide_eq_true_eq, bne_iff_ne, ne_eq, ih]
      constructor
      · rintro ⟨⟨hk, hv⟩, hp, hd⟩
        refine ⟨List.pairwise_cons.2 ⟨?_, hp⟩, ?_⟩
        · intro a ha
          rcases List.mem_cons.1 ha with rfl | ha
          · exact hk
          · exact Nat.lt_trans hk ((List.pairwise_cons.1 hp).1 a ha)
        · intro a ha
          rcases List.mem_cons.1 ha with rfl | ha
          · exact hv
          · exact hd a ha
      · rintro ⟨hp, hd⟩
        obtain ⟨h1, h2⟩ := List.pairwise_cons.1 hp
        exact ⟨⟨h1 _ (List.mem_cons_self ..), hd _ (List.mem_cons_self ..)⟩, h2, fun a ha => hd a (List.mem_cons_of_mem _ ha)⟩

theorem FMap.mem_put (m : FMap α) (n : Nat) (v : α) (e : Nat × α) (h : e ∈ FMap.put m n v) : e = (n, v) ∨ e ∈ m := by
  induction m with
  | nil => exact .inl (by simpa [FMap.put] using h)
  | cons f m ih =>
    obtain ⟨k, x⟩ := f
    unfold FMap.put at h
    split at h
    · rcases List.mem_cons.1 h with h | h
      · exact .inl h
      · exact .inr h
    · split at h
      · rcases List.mem_cons.1 h with h | h
        · exact .inl h
        · exact .inr (List.mem_cons_of_mem _ h)
      · rcases List.mem_cons.1 h with h | h
        · exact .inr (h ▸ List.mem_cons_self ..)
        · exact (ih h).imp id (List.mem_cons_of_mem _)

theorem FMap.put_sorted (m : FMap α) (n : Nat) (v : α) (h : m.Pairwise fun a b => a.1 < b.1) :
    (FMap.put m n v).Pairwise fun a b => a.1 < b.1 := by
  induction m with
  | nil => simp [FMap.put]
  | cons e m ih =>
    obtain ⟨k, x⟩ := e
    obtain ⟨h1, h2⟩ := List.pairwise_cons.1 h
    unfold FMap.put
    split
    · next hn =>
      refine List.pairwise_cons.2 ⟨fun a ha => ?_, h⟩
      rcases List.mem_cons.1 ha with rfl | ha
      · exact hn
      · exact Nat.lt_trans hn (h1 a ha)
    · split
      · next hn => subst hn; exact List.pairwise_cons.2 ⟨h1, h2⟩
      · next hn hn' =>
        refine List.pairwise_cons.2 ⟨fun a ha => ?_, ih h2⟩
        rcases FMap.mem_put m n v a ha with rfl | ha
        · show k < n; omega
        · exact h1 a ha

/-- A change of one key keeps the canonical form. -/
theorem FMap.wf_set [DecidableEq α] (d : α) (m : FMap α) (n : Nat) (v : α) (h : FMap.wf d m = true) :
    FMap.wf d (FMap.set d m n v) = true := by
  rw [FMap.wf_iff] at h ⊢
  unfold FMap.set
  split
  · exact ⟨h.1.filter _, fun e he => h.2 e (List.mem_filter.1 he).1⟩
  · next hv =>
    refine ⟨FMap.put_sorted m n v h.1, fun e he => ?_⟩
    rcases FMap.mem_put m n v e he with rfl | he
    · exact hv
    · exact h.2 e he

/-- Dropping entries keeps the canonical form. -/
theorem FMap.wf_filter [DecidableEq α] (d : α) (m : FMap α) (p : Nat × α → Bool) (h : FMap.wf d m = true) :
    FMap.wf d (m.filter p) = true := by
  rw [FMap.wf_iff] at h ⊢
  exact ⟨h.1.filter _, fun e he => h.2 e (List.mem_filter.1 he).1⟩

end Sys2Proof.Machine
end

