-- ==== Sys2Proof/Laws/State.lean ====
section
/-!
SUPPORT. Sys2Proof/Laws/State.lean: one lemma per field of State for each named update, so that no proof unfolds a record
update, and what the contexts, cores and devices read as after one.
-/
namespace Sys2Proof.Machine

variable (s : State)

/-! ### setCtx -/

@[simp] theorem State.setCtx_station (key : Nat) (c : Ctx) : (s.setCtx key c).station = s.station := rfl
@[simp] theorem State.setCtx_phase (key : Nat) (c : Ctx) : (s.setCtx key c).phase = s.phase := rfl
@[simp] theorem State.setCtx_todo (key : Nat) (c : Ctx) : (s.setCtx key c).todo = s.todo := rfl
@[simp] theorem State.setCtx_pass (key : Nat) (c : Ctx) : (s.setCtx key c).pass = s.pass := rfl
@[simp] theorem State.setCtx_cur (key : Nat) (c : Ctx) : (s.setCtx key c).cur = s.cur := rfl
@[simp] theorem State.setCtx_nextId (key : Nat) (c : Ctx) : (s.setCtx key c).nextId = s.nextId := rfl
@[simp] theorem State.setCtx_freeCtr (key : Nat) (c : Ctx) : (s.setCtx key c).freeCtr = s.freeCtr := rfl
@[simp] theorem State.setCtx_inputs (key : Nat) (c : Ctx) : (s.setCtx key c).inputs = s.inputs := rfl
@[simp] theorem State.setCtx_mem (key : Nat) (c : Ctx) : (s.setCtx key c).mem = s.mem := rfl
@[simp] theorem State.setCtx_poison (key : Nat) (c : Ctx) : (s.setCtx key c).poison = s.poison := rfl
@[simp] theorem State.setCtx_softErrs (key : Nat) (c : Ctx) : (s.setCtx key c).softErrs = s.softErrs := rfl
@[simp] theorem State.setCtx_flips (key : Nat) (c : Ctx) : (s.setCtx key c).flips = s.flips := rfl
@[simp] theorem State.setCtx_devs (key : Nat) (c : Ctx) : (s.setCtx key c).devs = s.devs := rfl
@[simp] theorem State.setCtx_cores (key : Nat) (c : Ctx) : (s.setCtx key c).cores = s.cores := rfl
@[simp] theorem State.setCtx_seen (key : Nat) (c : Ctx) : (s.setCtx key c).seen = s.seen := rfl
@[simp] theorem State.setCtx_prior (key : Nat) (c : Ctx) : (s.setCtx key c).prior = s.prior := rfl
@[simp] theorem State.setCtx_priorReg (key : Nat) (c : Ctx) : (s.setCtx key c).priorReg = s.priorReg := rfl
@[simp] theorem State.setCtx_accesses (key : Nat) (c : Ctx) : (s.setCtx key c).accesses = s.accesses := rfl
@[simp] theorem State.setCtx_cmds (key : Nat) (c : Ctx) : (s.setCtx key c).cmds = s.cmds := rfl
@[simp] theorem State.setCtx_xfers (key : Nat) (c : Ctx) : (s.setCtx key c).xfers = s.xfers := rfl
@[simp] theorem State.setCtx_tcache (key : Nat) (c : Ctx) : (s.setCtx key c).tcache = s.tcache := rfl
@[simp] theorem State.setCtx_walks (key : Nat) (c : Ctx) : (s.setCtx key c).walks = s.walks := rfl
@[simp] theorem State.setCtx_bcache (key : Nat) (c : Ctx) : (s.setCtx key c).bcache = s.bcache := rfl
@[simp] theorem State.setCtx_tier (key : Nat) (c : Ctx) : (s.setCtx key c).tier = s.tier := rfl
@[simp] theorem State.setCtx_migctl (key : Nat) (c : Ctx) : (s.setCtx key c).migctl = s.migctl := rfl
@[simp] theorem State.setCtx_moves (key : Nat) (c : Ctx) : (s.setCtx key c).moves = s.moves := rfl
@[simp] theorem State.setCtx_bwUsed (key : Nat) (c : Ctx) : (s.setCtx key c).bwUsed = s.bwUsed := rfl
@[simp] theorem State.setCtx_rows (key : Nat) (c : Ctx) : (s.setCtx key c).rows = s.rows := rfl
@[simp] theorem State.setCtx_returning (key : Nat) (c : Ctx) : (s.setCtx key c).returning = s.returning := rfl
@[simp] theorem State.setCtx_scrubs (key : Nat) (c : Ctx) : (s.setCtx key c).scrubs = s.scrubs := rfl
@[simp] theorem State.setCtx_poolHbm (key : Nat) (c : Ctx) : (s.setCtx key c).poolHbm = s.poolHbm := rfl
@[simp] theorem State.setCtx_poolLoft (key : Nat) (c : Ctx) : (s.setCtx key c).poolLoft = s.poolLoft := rfl
@[simp] theorem State.setCtx_nextRoot (key : Nat) (c : Ctx) : (s.setCtx key c).nextRoot = s.nextRoot := rfl
@[simp] theorem State.setCtx_mid (key : Nat) (c : Ctx) : (s.setCtx key c).mid = s.mid := rfl
@[simp] theorem State.setCtx_sends (key : Nat) (c : Ctx) : (s.setCtx key c).sends = s.sends := rfl
@[simp] theorem State.setCtx_recvs (key : Nat) (c : Ctx) : (s.setCtx key c).recvs = s.recvs := rfl
@[simp] theorem State.setCtx_msgs (key : Nat) (c : Ctx) : (s.setCtx key c).msgs = s.msgs := rfl
@[simp] theorem State.setCtx_retired (key : Nat) (c : Ctx) : (s.setCtx key c).retired = s.retired := rfl
@[simp] theorem State.setCtx_outbox (key : Nat) (c : Ctx) : (s.setCtx key c).outbox = s.outbox := rfl
@[simp] theorem State.setCtx_reductions (key : Nat) (c : Ctx) : (s.setCtx key c).reductions = s.reductions := rfl
@[simp] theorem State.setCtx_results (key : Nat) (c : Ctx) : (s.setCtx key c).results = s.results := rfl
@[simp] theorem State.setCtx_switchMid (key : Nat) (c : Ctx) : (s.setCtx key c).switchMid = s.switchMid := rfl
@[simp] theorem State.setCtx_coderate (key : Nat) (c : Ctx) : (s.setCtx key c).coderate = s.coderate := rfl
@[simp] theorem State.setCtx_losstmo (key : Nat) (c : Ctx) : (s.setCtx key c).losstmo = s.losstmo := rfl
@[simp] theorem State.setCtx_fabLate (key : Nat) (c : Ctx) : (s.setCtx key c).fabLate = s.fabLate := rfl
@[simp] theorem State.setCtx_fabYard (key : Nat) (c : Ctx) : (s.setCtx key c).fabYard = s.fabYard := rfl
@[simp] theorem State.setCtx_fabBad (key : Nat) (c : Ctx) : (s.setCtx key c).fabBad = s.fabBad := rfl
@[simp] theorem State.setCtx_pkgid (key : Nat) (c : Ctx) : (s.setCtx key c).pkgid = s.pkgid := rfl
@[simp] theorem State.setCtx_gredCount (key : Nat) (c : Ctx) : (s.setCtx key c).gredCount = s.gredCount := rfl
@[simp] theorem State.setCtx_launches (key : Nat) (c : Ctx) : (s.setCtx key c).launches = s.launches := rfl
@[simp] theorem State.setCtx_holders (key : Nat) (c : Ctx) : (s.setCtx key c).holders = s.holders := rfl
@[simp] theorem State.setCtx_paddocks (key : Nat) (c : Ctx) : (s.setCtx key c).paddocks = s.paddocks := rfl
@[simp] theorem State.setCtx_ttbase (key : Nat) (c : Ctx) : (s.setCtx key c).ttbase = s.ttbase := rfl
@[simp] theorem State.setCtx_ttSlots (key : Nat) (c : Ctx) : (s.setCtx key c).ttSlots = s.ttSlots := rfl
@[simp] theorem State.setCtx_vdsel (key : Nat) (c : Ctx) : (s.setCtx key c).vdsel = s.vdsel := rfl
@[simp] theorem State.setCtx_ctxsel (key : Nat) (c : Ctx) : (s.setCtx key c).ctxsel = s.ctxsel := rfl
@[simp] theorem State.setCtx_hypq (key : Nat) (c : Ctx) : (s.setCtx key c).hypq = s.hypq := rfl
@[simp] theorem State.setCtx_ltovf (key : Nat) (c : Ctx) : (s.setCtx key c).ltovf = s.ltovf := rfl
@[simp] theorem State.setCtx_overflow (key : Nat) (c : Ctx) : (s.setCtx key c).overflow = s.overflow := rfl
@[simp] theorem State.setCtx_slotHolds (key : Nat) (c : Ctx) : (s.setCtx key c).slotHolds = s.slotHolds := rfl
@[simp] theorem State.setCtx_shed (key : Nat) (c : Ctx) : (s.setCtx key c).shed = s.shed := rfl
@[simp] theorem State.setCtx_stable (key : Nat) (c : Ctx) : (s.setCtx key c).stable = s.stable := rfl
@[simp] theorem State.setCtx_frozen (key : Nat) (c : Ctx) : (s.setCtx key c).frozen = s.frozen := rfl
@[simp] theorem State.setCtx_shedCount (key : Nat) (c : Ctx) : (s.setCtx key c).shedCount = s.shedCount := rfl
@[simp] theorem State.setCtx_shedGap (key : Nat) (c : Ctx) : (s.setCtx key c).shedGap = s.shedGap := rfl
@[simp] theorem State.setCtx_shedStart (key : Nat) (c : Ctx) : (s.setCtx key c).shedStart = s.shedStart := rfl
@[simp] theorem State.setCtx_shedAt (key : Nat) (c : Ctx) : (s.setCtx key c).shedAt = s.shedAt := rfl
@[simp] theorem State.setCtx_bootStage (key : Nat) (c : Ctx) : (s.setCtx key c).bootStage = s.bootStage := rfl
@[simp] theorem State.setCtx_bootPhase (key : Nat) (c : Ctx) : (s.setCtx key c).bootPhase = s.bootPhase := rfl
@[simp] theorem State.setCtx_boots (key : Nat) (c : Ctx) : (s.setCtx key c).boots = s.boots := rfl
@[simp] theorem State.setCtx_meas (key : Nat) (c : Ctx) : (s.setCtx key c).meas = s.meas := rfl
@[simp] theorem State.setCtx_hbmstat (key : Nat) (c : Ctx) : (s.setCtx key c).hbmstat = s.hbmstat := rfl
@[simp] theorem State.setCtx_attdst (key : Nat) (c : Ctx) : (s.setCtx key c).attdst = s.attdst := rfl
@[simp] theorem State.setCtx_attBusy (key : Nat) (c : Ctx) : (s.setCtx key c).attBusy = s.attBusy := rfl
@[simp] theorem State.setCtx_pwrAvg (key : Nat) (c : Ctx) : (s.setCtx key c).pwrAvg = s.pwrAvg := rfl
@[simp] theorem State.setCtx_pwrCap (key : Nat) (c : Ctx) : (s.setCtx key c).pwrCap = s.pwrCap := rfl
@[simp] theorem State.setCtx_msix (key : Nat) (c : Ctx) : (s.setCtx key c).msix = s.msix := rfl
@[simp] theorem State.setCtx_armed (key : Nat) (c : Ctx) : (s.setCtx key c).armed = s.armed := rfl
@[simp] theorem State.setCtx_releases (key : Nat) (c : Ctx) : (s.setCtx key c).releases = s.releases := rfl
@[simp] theorem State.setCtx_posts (key : Nat) (c : Ctx) : (s.setCtx key c).posts = s.posts := rfl
@[simp] theorem State.setCtx_mchecks (key : Nat) (c : Ctx) : (s.setCtx key c).mchecks = s.mchecks := rfl

/-! ### setCore -/

@[simp] theorem State.setCore_station (n : Nat) (c : Core) : (s.setCore n c).station = s.station := rfl
@[simp] theorem State.setCore_phase (n : Nat) (c : Core) : (s.setCore n c).phase = s.phase := rfl
@[simp] theorem State.setCore_todo (n : Nat) (c : Core) : (s.setCore n c).todo = s.todo := rfl
@[simp] theorem State.setCore_pass (n : Nat) (c : Core) : (s.setCore n c).pass = s.pass := rfl
@[simp] theorem State.setCore_cur (n : Nat) (c : Core) : (s.setCore n c).cur = s.cur := rfl
@[simp] theorem State.setCore_nextId (n : Nat) (c : Core) : (s.setCore n c).nextId = s.nextId := rfl
@[simp] theorem State.setCore_freeCtr (n : Nat) (c : Core) : (s.setCore n c).freeCtr = s.freeCtr := rfl
@[simp] theorem State.setCore_inputs (n : Nat) (c : Core) : (s.setCore n c).inputs = s.inputs := rfl
@[simp] theorem State.setCore_mem (n : Nat) (c : Core) : (s.setCore n c).mem = s.mem := rfl
@[simp] theorem State.setCore_poison (n : Nat) (c : Core) : (s.setCore n c).poison = s.poison := rfl
@[simp] theorem State.setCore_softErrs (n : Nat) (c : Core) : (s.setCore n c).softErrs = s.softErrs := rfl
@[simp] theorem State.setCore_flips (n : Nat) (c : Core) : (s.setCore n c).flips = s.flips := rfl
@[simp] theorem State.setCore_devs (n : Nat) (c : Core) : (s.setCore n c).devs = s.devs := rfl
@[simp] theorem State.setCore_ctxs (n : Nat) (c : Core) : (s.setCore n c).ctxs = s.ctxs := rfl
@[simp] theorem State.setCore_seen (n : Nat) (c : Core) : (s.setCore n c).seen = s.seen := rfl
@[simp] theorem State.setCore_prior (n : Nat) (c : Core) : (s.setCore n c).prior = s.prior := rfl
@[simp] theorem State.setCore_priorReg (n : Nat) (c : Core) : (s.setCore n c).priorReg = s.priorReg := rfl
@[simp] theorem State.setCore_accesses (n : Nat) (c : Core) : (s.setCore n c).accesses = s.accesses := rfl
@[simp] theorem State.setCore_cmds (n : Nat) (c : Core) : (s.setCore n c).cmds = s.cmds := rfl
@[simp] theorem State.setCore_xfers (n : Nat) (c : Core) : (s.setCore n c).xfers = s.xfers := rfl
@[simp] theorem State.setCore_tcache (n : Nat) (c : Core) : (s.setCore n c).tcache = s.tcache := rfl
@[simp] theorem State.setCore_walks (n : Nat) (c : Core) : (s.setCore n c).walks = s.walks := rfl
@[simp] theorem State.setCore_bcache (n : Nat) (c : Core) : (s.setCore n c).bcache = s.bcache := rfl
@[simp] theorem State.setCore_tier (n : Nat) (c : Core) : (s.setCore n c).tier = s.tier := rfl
@[simp] theorem State.setCore_migctl (n : Nat) (c : Core) : (s.setCore n c).migctl = s.migctl := rfl
@[simp] theorem State.setCore_moves (n : Nat) (c : Core) : (s.setCore n c).moves = s.moves := rfl
@[simp] theorem State.setCore_bwUsed (n : Nat) (c : Core) : (s.setCore n c).bwUsed = s.bwUsed := rfl
@[simp] theorem State.setCore_rows (n : Nat) (c : Core) : (s.setCore n c).rows = s.rows := rfl
@[simp] theorem State.setCore_returning (n : Nat) (c : Core) : (s.setCore n c).returning = s.returning := rfl
@[simp] theorem State.setCore_scrubs (n : Nat) (c : Core) : (s.setCore n c).scrubs = s.scrubs := rfl
@[simp] theorem State.setCore_poolHbm (n : Nat) (c : Core) : (s.setCore n c).poolHbm = s.poolHbm := rfl
@[simp] theorem State.setCore_poolLoft (n : Nat) (c : Core) : (s.setCore n c).poolLoft = s.poolLoft := rfl
@[simp] theorem State.setCore_nextRoot (n : Nat) (c : Core) : (s.setCore n c).nextRoot = s.nextRoot := rfl
@[simp] theorem State.setCore_mid (n : Nat) (c : Core) : (s.setCore n c).mid = s.mid := rfl
@[simp] theorem State.setCore_sends (n : Nat) (c : Core) : (s.setCore n c).sends = s.sends := rfl
@[simp] theorem State.setCore_recvs (n : Nat) (c : Core) : (s.setCore n c).recvs = s.recvs := rfl
@[simp] theorem State.setCore_msgs (n : Nat) (c : Core) : (s.setCore n c).msgs = s.msgs := rfl
@[simp] theorem State.setCore_retired (n : Nat) (c : Core) : (s.setCore n c).retired = s.retired := rfl
@[simp] theorem State.setCore_outbox (n : Nat) (c : Core) : (s.setCore n c).outbox = s.outbox := rfl
@[simp] theorem State.setCore_reductions (n : Nat) (c : Core) : (s.setCore n c).reductions = s.reductions := rfl
@[simp] theorem State.setCore_results (n : Nat) (c : Core) : (s.setCore n c).results = s.results := rfl
@[simp] theorem State.setCore_switchMid (n : Nat) (c : Core) : (s.setCore n c).switchMid = s.switchMid := rfl
@[simp] theorem State.setCore_coderate (n : Nat) (c : Core) : (s.setCore n c).coderate = s.coderate := rfl
@[simp] theorem State.setCore_losstmo (n : Nat) (c : Core) : (s.setCore n c).losstmo = s.losstmo := rfl
@[simp] theorem State.setCore_fabLate (n : Nat) (c : Core) : (s.setCore n c).fabLate = s.fabLate := rfl
@[simp] theorem State.setCore_fabYard (n : Nat) (c : Core) : (s.setCore n c).fabYard = s.fabYard := rfl
@[simp] theorem State.setCore_fabBad (n : Nat) (c : Core) : (s.setCore n c).fabBad = s.fabBad := rfl
@[simp] theorem State.setCore_pkgid (n : Nat) (c : Core) : (s.setCore n c).pkgid = s.pkgid := rfl
@[simp] theorem State.setCore_gredCount (n : Nat) (c : Core) : (s.setCore n c).gredCount = s.gredCount := rfl
@[simp] theorem State.setCore_launches (n : Nat) (c : Core) : (s.setCore n c).launches = s.launches := rfl
@[simp] theorem State.setCore_holders (n : Nat) (c : Core) : (s.setCore n c).holders = s.holders := rfl
@[simp] theorem State.setCore_paddocks (n : Nat) (c : Core) : (s.setCore n c).paddocks = s.paddocks := rfl
@[simp] theorem State.setCore_ttbase (n : Nat) (c : Core) : (s.setCore n c).ttbase = s.ttbase := rfl
@[simp] theorem State.setCore_ttSlots (n : Nat) (c : Core) : (s.setCore n c).ttSlots = s.ttSlots := rfl
@[simp] theorem State.setCore_vdsel (n : Nat) (c : Core) : (s.setCore n c).vdsel = s.vdsel := rfl
@[simp] theorem State.setCore_ctxsel (n : Nat) (c : Core) : (s.setCore n c).ctxsel = s.ctxsel := rfl
@[simp] theorem State.setCore_hypq (n : Nat) (c : Core) : (s.setCore n c).hypq = s.hypq := rfl
@[simp] theorem State.setCore_ltovf (n : Nat) (c : Core) : (s.setCore n c).ltovf = s.ltovf := rfl
@[simp] theorem State.setCore_overflow (n : Nat) (c : Core) : (s.setCore n c).overflow = s.overflow := rfl
@[simp] theorem State.setCore_slotHolds (n : Nat) (c : Core) : (s.setCore n c).slotHolds = s.slotHolds := rfl
@[simp] theorem State.setCore_shed (n : Nat) (c : Core) : (s.setCore n c).shed = s.shed := rfl
@[simp] theorem State.setCore_stable (n : Nat) (c : Core) : (s.setCore n c).stable = s.stable := rfl
@[simp] theorem State.setCore_frozen (n : Nat) (c : Core) : (s.setCore n c).frozen = s.frozen := rfl
@[simp] theorem State.setCore_shedCount (n : Nat) (c : Core) : (s.setCore n c).shedCount = s.shedCount := rfl
@[simp] theorem State.setCore_shedGap (n : Nat) (c : Core) : (s.setCore n c).shedGap = s.shedGap := rfl
@[simp] theorem State.setCore_shedStart (n : Nat) (c : Core) : (s.setCore n c).shedStart = s.shedStart := rfl
@[simp] theorem State.setCore_shedAt (n : Nat) (c : Core) : (s.setCore n c).shedAt = s.shedAt := rfl
@[simp] theorem State.setCore_bootStage (n : Nat) (c : Core) : (s.setCore n c).bootStage = s.bootStage := rfl
@[simp] theorem State.setCore_bootPhase (n : Nat) (c : Core) : (s.setCore n c).bootPhase = s.bootPhase := rfl
@[simp] theorem State.setCore_boots (n : Nat) (c : Core) : (s.setCore n c).boots = s.boots := rfl
@[simp] theorem State.setCore_meas (n : Nat) (c : Core) : (s.setCore n c).meas = s.meas := rfl
@[simp] theorem State.setCore_hbmstat (n : Nat) (c : Core) : (s.setCore n c).hbmstat = s.hbmstat := rfl
@[simp] theorem State.setCore_attdst (n : Nat) (c : Core) : (s.setCore n c).attdst = s.attdst := rfl
@[simp] theorem State.setCore_attBusy (n : Nat) (c : Core) : (s.setCore n c).attBusy = s.attBusy := rfl
@[simp] theorem State.setCore_pwrAvg (n : Nat) (c : Core) : (s.setCore n c).pwrAvg = s.pwrAvg := rfl
@[simp] theorem State.setCore_pwrCap (n : Nat) (c : Core) : (s.setCore n c).pwrCap = s.pwrCap := rfl
@[simp] theorem State.setCore_msix (n : Nat) (c : Core) : (s.setCore n c).msix = s.msix := rfl
@[simp] theorem State.setCore_armed (n : Nat) (c : Core) : (s.setCore n c).armed = s.armed := rfl
@[simp] theorem State.setCore_releases (n : Nat) (c : Core) : (s.setCore n c).releases = s.releases := rfl
@[simp] theorem State.setCore_posts (n : Nat) (c : Core) : (s.setCore n c).posts = s.posts := rfl
@[simp] theorem State.setCore_mchecks (n : Nat) (c : Core) : (s.setCore n c).mchecks = s.mchecks := rfl

/-! ### setDev -/

@[simp] theorem State.setDev_station (n : Nat) (d : Device) : (s.setDev n d).station = s.station := rfl
@[simp] theorem State.setDev_phase (n : Nat) (d : Device) : (s.setDev n d).phase = s.phase := rfl
@[simp] theorem State.setDev_todo (n : Nat) (d : Device) : (s.setDev n d).todo = s.todo := rfl
@[simp] theorem State.setDev_pass (n : Nat) (d : Device) : (s.setDev n d).pass = s.pass := rfl
@[simp] theorem State.setDev_cur (n : Nat) (d : Device) : (s.setDev n d).cur = s.cur := rfl
@[simp] theorem State.setDev_nextId (n : Nat) (d : Device) : (s.setDev n d).nextId = s.nextId := rfl
@[simp] theorem State.setDev_freeCtr (n : Nat) (d : Device) : (s.setDev n d).freeCtr = s.freeCtr := rfl
@[simp] theorem State.setDev_inputs (n : Nat) (d : Device) : (s.setDev n d).inputs = s.inputs := rfl
@[simp] theorem State.setDev_mem (n : Nat) (d : Device) : (s.setDev n d).mem = s.mem := rfl
@[simp] theorem State.setDev_poison (n : Nat) (d : Device) : (s.setDev n d).poison = s.poison := rfl
@[simp] theorem State.setDev_softErrs (n : Nat) (d : Device) : (s.setDev n d).softErrs = s.softErrs := rfl
@[simp] theorem State.setDev_flips (n : Nat) (d : Device) : (s.setDev n d).flips = s.flips := rfl
@[simp] theorem State.setDev_cores (n : Nat) (d : Device) : (s.setDev n d).cores = s.cores := rfl
@[simp] theorem State.setDev_ctxs (n : Nat) (d : Device) : (s.setDev n d).ctxs = s.ctxs := rfl
@[simp] theorem State.setDev_seen (n : Nat) (d : Device) : (s.setDev n d).seen = s.seen := rfl
@[simp] theorem State.setDev_prior (n : Nat) (d : Device) : (s.setDev n d).prior = s.prior := rfl
@[simp] theorem State.setDev_priorReg (n : Nat) (d : Device) : (s.setDev n d).priorReg = s.priorReg := rfl
@[simp] theorem State.setDev_accesses (n : Nat) (d : Device) : (s.setDev n d).accesses = s.accesses := rfl
@[simp] theorem State.setDev_cmds (n : Nat) (d : Device) : (s.setDev n d).cmds = s.cmds := rfl
@[simp] theorem State.setDev_xfers (n : Nat) (d : Device) : (s.setDev n d).xfers = s.xfers := rfl
@[simp] theorem State.setDev_tcache (n : Nat) (d : Device) : (s.setDev n d).tcache = s.tcache := rfl
@[simp] theorem State.setDev_walks (n : Nat) (d : Device) : (s.setDev n d).walks = s.walks := rfl
@[simp] theorem State.setDev_bcache (n : Nat) (d : Device) : (s.setDev n d).bcache = s.bcache := rfl
@[simp] theorem State.setDev_tier (n : Nat) (d : Device) : (s.setDev n d).tier = s.tier := rfl
@[simp] theorem State.setDev_migctl (n : Nat) (d : Device) : (s.setDev n d).migctl = s.migctl := rfl
@[simp] theorem State.setDev_moves (n : Nat) (d : Device) : (s.setDev n d).moves = s.moves := rfl
@[simp] theorem State.setDev_bwUsed (n : Nat) (d : Device) : (s.setDev n d).bwUsed = s.bwUsed := rfl
@[simp] theorem State.setDev_rows (n : Nat) (d : Device) : (s.setDev n d).rows = s.rows := rfl
@[simp] theorem State.setDev_returning (n : Nat) (d : Device) : (s.setDev n d).returning = s.returning := rfl
@[simp] theorem State.setDev_scrubs (n : Nat) (d : Device) : (s.setDev n d).scrubs = s.scrubs := rfl
@[simp] theorem State.setDev_poolHbm (n : Nat) (d : Device) : (s.setDev n d).poolHbm = s.poolHbm := rfl
@[simp] theorem State.setDev_poolLoft (n : Nat) (d : Device) : (s.setDev n d).poolLoft = s.poolLoft := rfl
@[simp] theorem State.setDev_nextRoot (n : Nat) (d : Device) : (s.setDev n d).nextRoot = s.nextRoot := rfl
@[simp] theorem State.setDev_mid (n : Nat) (d : Device) : (s.setDev n d).mid = s.mid := rfl
@[simp] theorem State.setDev_sends (n : Nat) (d : Device) : (s.setDev n d).sends = s.sends := rfl
@[simp] theorem State.setDev_recvs (n : Nat) (d : Device) : (s.setDev n d).recvs = s.recvs := rfl
@[simp] theorem State.setDev_msgs (n : Nat) (d : Device) : (s.setDev n d).msgs = s.msgs := rfl
@[simp] theorem State.setDev_retired (n : Nat) (d : Device) : (s.setDev n d).retired = s.retired := rfl
@[simp] theorem State.setDev_outbox (n : Nat) (d : Device) : (s.setDev n d).outbox = s.outbox := rfl
@[simp] theorem State.setDev_reductions (n : Nat) (d : Device) : (s.setDev n d).reductions = s.reductions := rfl
@[simp] theorem State.setDev_results (n : Nat) (d : Device) : (s.setDev n d).results = s.results := rfl
@[simp] theorem State.setDev_switchMid (n : Nat) (d : Device) : (s.setDev n d).switchMid = s.switchMid := rfl
@[simp] theorem State.setDev_coderate (n : Nat) (d : Device) : (s.setDev n d).coderate = s.coderate := rfl
@[simp] theorem State.setDev_losstmo (n : Nat) (d : Device) : (s.setDev n d).losstmo = s.losstmo := rfl
@[simp] theorem State.setDev_fabLate (n : Nat) (d : Device) : (s.setDev n d).fabLate = s.fabLate := rfl
@[simp] theorem State.setDev_fabYard (n : Nat) (d : Device) : (s.setDev n d).fabYard = s.fabYard := rfl
@[simp] theorem State.setDev_fabBad (n : Nat) (d : Device) : (s.setDev n d).fabBad = s.fabBad := rfl
@[simp] theorem State.setDev_pkgid (n : Nat) (d : Device) : (s.setDev n d).pkgid = s.pkgid := rfl
@[simp] theorem State.setDev_gredCount (n : Nat) (d : Device) : (s.setDev n d).gredCount = s.gredCount := rfl
@[simp] theorem State.setDev_launches (n : Nat) (d : Device) : (s.setDev n d).launches = s.launches := rfl
@[simp] theorem State.setDev_holders (n : Nat) (d : Device) : (s.setDev n d).holders = s.holders := rfl
@[simp] theorem State.setDev_paddocks (n : Nat) (d : Device) : (s.setDev n d).paddocks = s.paddocks := rfl
@[simp] theorem State.setDev_ttbase (n : Nat) (d : Device) : (s.setDev n d).ttbase = s.ttbase := rfl
@[simp] theorem State.setDev_ttSlots (n : Nat) (d : Device) : (s.setDev n d).ttSlots = s.ttSlots := rfl
@[simp] theorem State.setDev_vdsel (n : Nat) (d : Device) : (s.setDev n d).vdsel = s.vdsel := rfl
@[simp] theorem State.setDev_ctxsel (n : Nat) (d : Device) : (s.setDev n d).ctxsel = s.ctxsel := rfl
@[simp] theorem State.setDev_hypq (n : Nat) (d : Device) : (s.setDev n d).hypq = s.hypq := rfl
@[simp] theorem State.setDev_ltovf (n : Nat) (d : Device) : (s.setDev n d).ltovf = s.ltovf := rfl
@[simp] theorem State.setDev_overflow (n : Nat) (d : Device) : (s.setDev n d).overflow = s.overflow := rfl
@[simp] theorem State.setDev_slotHolds (n : Nat) (d : Device) : (s.setDev n d).slotHolds = s.slotHolds := rfl
@[simp] theorem State.setDev_shed (n : Nat) (d : Device) : (s.setDev n d).shed = s.shed := rfl
@[simp] theorem State.setDev_stable (n : Nat) (d : Device) : (s.setDev n d).stable = s.stable := rfl
@[simp] theorem State.setDev_frozen (n : Nat) (d : Device) : (s.setDev n d).frozen = s.frozen := rfl
@[simp] theorem State.setDev_shedCount (n : Nat) (d : Device) : (s.setDev n d).shedCount = s.shedCount := rfl
@[simp] theorem State.setDev_shedGap (n : Nat) (d : Device) : (s.setDev n d).shedGap = s.shedGap := rfl
@[simp] theorem State.setDev_shedStart (n : Nat) (d : Device) : (s.setDev n d).shedStart = s.shedStart := rfl
@[simp] theorem State.setDev_shedAt (n : Nat) (d : Device) : (s.setDev n d).shedAt = s.shedAt := rfl
@[simp] theorem State.setDev_bootStage (n : Nat) (d : Device) : (s.setDev n d).bootStage = s.bootStage := rfl
@[simp] theorem State.setDev_bootPhase (n : Nat) (d : Device) : (s.setDev n d).bootPhase = s.bootPhase := rfl
@[simp] theorem State.setDev_boots (n : Nat) (d : Device) : (s.setDev n d).boots = s.boots := rfl
@[simp] theorem State.setDev_meas (n : Nat) (d : Device) : (s.setDev n d).meas = s.meas := rfl
@[simp] theorem State.setDev_hbmstat (n : Nat) (d : Device) : (s.setDev n d).hbmstat = s.hbmstat := rfl
@[simp] theorem State.setDev_attdst (n : Nat) (d : Device) : (s.setDev n d).attdst = s.attdst := rfl
@[simp] theorem State.setDev_attBusy (n : Nat) (d : Device) : (s.setDev n d).attBusy = s.attBusy := rfl
@[simp] theorem State.setDev_pwrAvg (n : Nat) (d : Device) : (s.setDev n d).pwrAvg = s.pwrAvg := rfl
@[simp] theorem State.setDev_pwrCap (n : Nat) (d : Device) : (s.setDev n d).pwrCap = s.pwrCap := rfl
@[simp] theorem State.setDev_msix (n : Nat) (d : Device) : (s.setDev n d).msix = s.msix := rfl
@[simp] theorem State.setDev_armed (n : Nat) (d : Device) : (s.setDev n d).armed = s.armed := rfl
@[simp] theorem State.setDev_releases (n : Nat) (d : Device) : (s.setDev n d).releases = s.releases := rfl
@[simp] theorem State.setDev_posts (n : Nat) (d : Device) : (s.setDev n d).posts = s.posts := rfl
@[simp] theorem State.setDev_mchecks (n : Nat) (d : Device) : (s.setDev n d).mchecks = s.mchecks := rfl

/-! ### setCmd -/

@[simp] theorem State.setCmd_station (c : Cmd) : (s.setCmd c).station = s.station := rfl
@[simp] theorem State.setCmd_phase (c : Cmd) : (s.setCmd c).phase = s.phase := rfl
@[simp] theorem State.setCmd_todo (c : Cmd) : (s.setCmd c).todo = s.todo := rfl
@[simp] theorem State.setCmd_pass (c : Cmd) : (s.setCmd c).pass = s.pass := rfl
@[simp] theorem State.setCmd_cur (c : Cmd) : (s.setCmd c).cur = s.cur := rfl
@[simp] theorem State.setCmd_nextId (c : Cmd) : (s.setCmd c).nextId = s.nextId := rfl
@[simp] theorem State.setCmd_freeCtr (c : Cmd) : (s.setCmd c).freeCtr = s.freeCtr := rfl
@[simp] theorem State.setCmd_inputs (c : Cmd) : (s.setCmd c).inputs = s.inputs := rfl
@[simp] theorem State.setCmd_mem (c : Cmd) : (s.setCmd c).mem = s.mem := rfl
@[simp] theorem State.setCmd_poison (c : Cmd) : (s.setCmd c).poison = s.poison := rfl
@[simp] theorem State.setCmd_softErrs (c : Cmd) : (s.setCmd c).softErrs = s.softErrs := rfl
@[simp] theorem State.setCmd_flips (c : Cmd) : (s.setCmd c).flips = s.flips := rfl
@[simp] theorem State.setCmd_devs (c : Cmd) : (s.setCmd c).devs = s.devs := rfl
@[simp] theorem State.setCmd_cores (c : Cmd) : (s.setCmd c).cores = s.cores := rfl
@[simp] theorem State.setCmd_ctxs (c : Cmd) : (s.setCmd c).ctxs = s.ctxs := rfl
@[simp] theorem State.setCmd_seen (c : Cmd) : (s.setCmd c).seen = s.seen := rfl
@[simp] theorem State.setCmd_prior (c : Cmd) : (s.setCmd c).prior = s.prior := rfl
@[simp] theorem State.setCmd_priorReg (c : Cmd) : (s.setCmd c).priorReg = s.priorReg := rfl
@[simp] theorem State.setCmd_accesses (c : Cmd) : (s.setCmd c).accesses = s.accesses := rfl
@[simp] theorem State.setCmd_xfers (c : Cmd) : (s.setCmd c).xfers = s.xfers := rfl
@[simp] theorem State.setCmd_tcache (c : Cmd) : (s.setCmd c).tcache = s.tcache := rfl
@[simp] theorem State.setCmd_walks (c : Cmd) : (s.setCmd c).walks = s.walks := rfl
@[simp] theorem State.setCmd_bcache (c : Cmd) : (s.setCmd c).bcache = s.bcache := rfl
@[simp] theorem State.setCmd_tier (c : Cmd) : (s.setCmd c).tier = s.tier := rfl
@[simp] theorem State.setCmd_migctl (c : Cmd) : (s.setCmd c).migctl = s.migctl := rfl
@[simp] theorem State.setCmd_moves (c : Cmd) : (s.setCmd c).moves = s.moves := rfl
@[simp] theorem State.setCmd_bwUsed (c : Cmd) : (s.setCmd c).bwUsed = s.bwUsed := rfl
@[simp] theorem State.setCmd_rows (c : Cmd) : (s.setCmd c).rows = s.rows := rfl
@[simp] theorem State.setCmd_returning (c : Cmd) : (s.setCmd c).returning = s.returning := rfl
@[simp] theorem State.setCmd_scrubs (c : Cmd) : (s.setCmd c).scrubs = s.scrubs := rfl
@[simp] theorem State.setCmd_poolHbm (c : Cmd) : (s.setCmd c).poolHbm = s.poolHbm := rfl
@[simp] theorem State.setCmd_poolLoft (c : Cmd) : (s.setCmd c).poolLoft = s.poolLoft := rfl
@[simp] theorem State.setCmd_nextRoot (c : Cmd) : (s.setCmd c).nextRoot = s.nextRoot := rfl
@[simp] theorem State.setCmd_mid (c : Cmd) : (s.setCmd c).mid = s.mid := rfl
@[simp] theorem State.setCmd_sends (c : Cmd) : (s.setCmd c).sends = s.sends := rfl
@[simp] theorem State.setCmd_recvs (c : Cmd) : (s.setCmd c).recvs = s.recvs := rfl
@[simp] theorem State.setCmd_msgs (c : Cmd) : (s.setCmd c).msgs = s.msgs := rfl
@[simp] theorem State.setCmd_retired (c : Cmd) : (s.setCmd c).retired = s.retired := rfl
@[simp] theorem State.setCmd_outbox (c : Cmd) : (s.setCmd c).outbox = s.outbox := rfl
@[simp] theorem State.setCmd_reductions (c : Cmd) : (s.setCmd c).reductions = s.reductions := rfl
@[simp] theorem State.setCmd_results (c : Cmd) : (s.setCmd c).results = s.results := rfl
@[simp] theorem State.setCmd_switchMid (c : Cmd) : (s.setCmd c).switchMid = s.switchMid := rfl
@[simp] theorem State.setCmd_coderate (c : Cmd) : (s.setCmd c).coderate = s.coderate := rfl
@[simp] theorem State.setCmd_losstmo (c : Cmd) : (s.setCmd c).losstmo = s.losstmo := rfl
@[simp] theorem State.setCmd_fabLate (c : Cmd) : (s.setCmd c).fabLate = s.fabLate := rfl
@[simp] theorem State.setCmd_fabYard (c : Cmd) : (s.setCmd c).fabYard = s.fabYard := rfl
@[simp] theorem State.setCmd_fabBad (c : Cmd) : (s.setCmd c).fabBad = s.fabBad := rfl
@[simp] theorem State.setCmd_pkgid (c : Cmd) : (s.setCmd c).pkgid = s.pkgid := rfl
@[simp] theorem State.setCmd_gredCount (c : Cmd) : (s.setCmd c).gredCount = s.gredCount := rfl
@[simp] theorem State.setCmd_launches (c : Cmd) : (s.setCmd c).launches = s.launches := rfl
@[simp] theorem State.setCmd_holders (c : Cmd) : (s.setCmd c).holders = s.holders := rfl
@[simp] theorem State.setCmd_paddocks (c : Cmd) : (s.setCmd c).paddocks = s.paddocks := rfl
@[simp] theorem State.setCmd_ttbase (c : Cmd) : (s.setCmd c).ttbase = s.ttbase := rfl
@[simp] theorem State.setCmd_ttSlots (c : Cmd) : (s.setCmd c).ttSlots = s.ttSlots := rfl
@[simp] theorem State.setCmd_vdsel (c : Cmd) : (s.setCmd c).vdsel = s.vdsel := rfl
@[simp] theorem State.setCmd_ctxsel (c : Cmd) : (s.setCmd c).ctxsel = s.ctxsel := rfl
@[simp] theorem State.setCmd_hypq (c : Cmd) : (s.setCmd c).hypq = s.hypq := rfl
@[simp] theorem State.setCmd_ltovf (c : Cmd) : (s.setCmd c).ltovf = s.ltovf := rfl
@[simp] theorem State.setCmd_overflow (c : Cmd) : (s.setCmd c).overflow = s.overflow := rfl
@[simp] theorem State.setCmd_slotHolds (c : Cmd) : (s.setCmd c).slotHolds = s.slotHolds := rfl
@[simp] theorem State.setCmd_shed (c : Cmd) : (s.setCmd c).shed = s.shed := rfl
@[simp] theorem State.setCmd_stable (c : Cmd) : (s.setCmd c).stable = s.stable := rfl
@[simp] theorem State.setCmd_frozen (c : Cmd) : (s.setCmd c).frozen = s.frozen := rfl
@[simp] theorem State.setCmd_shedCount (c : Cmd) : (s.setCmd c).shedCount = s.shedCount := rfl
@[simp] theorem State.setCmd_shedGap (c : Cmd) : (s.setCmd c).shedGap = s.shedGap := rfl
@[simp] theorem State.setCmd_shedStart (c : Cmd) : (s.setCmd c).shedStart = s.shedStart := rfl
@[simp] theorem State.setCmd_shedAt (c : Cmd) : (s.setCmd c).shedAt = s.shedAt := rfl
@[simp] theorem State.setCmd_bootStage (c : Cmd) : (s.setCmd c).bootStage = s.bootStage := rfl
@[simp] theorem State.setCmd_bootPhase (c : Cmd) : (s.setCmd c).bootPhase = s.bootPhase := rfl
@[simp] theorem State.setCmd_boots (c : Cmd) : (s.setCmd c).boots = s.boots := rfl
@[simp] theorem State.setCmd_meas (c : Cmd) : (s.setCmd c).meas = s.meas := rfl
@[simp] theorem State.setCmd_hbmstat (c : Cmd) : (s.setCmd c).hbmstat = s.hbmstat := rfl
@[simp] theorem State.setCmd_attdst (c : Cmd) : (s.setCmd c).attdst = s.attdst := rfl
@[simp] theorem State.setCmd_attBusy (c : Cmd) : (s.setCmd c).attBusy = s.attBusy := rfl
@[simp] theorem State.setCmd_pwrAvg (c : Cmd) : (s.setCmd c).pwrAvg = s.pwrAvg := rfl
@[simp] theorem State.setCmd_pwrCap (c : Cmd) : (s.setCmd c).pwrCap = s.pwrCap := rfl
@[simp] theorem State.setCmd_msix (c : Cmd) : (s.setCmd c).msix = s.msix := rfl
@[simp] theorem State.setCmd_armed (c : Cmd) : (s.setCmd c).armed = s.armed := rfl
@[simp] theorem State.setCmd_releases (c : Cmd) : (s.setCmd c).releases = s.releases := rfl
@[simp] theorem State.setCmd_posts (c : Cmd) : (s.setCmd c).posts = s.posts := rfl
@[simp] theorem State.setCmd_mchecks (c : Cmd) : (s.setCmd c).mchecks = s.mchecks := rfl

/-! ### dropCmd -/

@[simp] theorem State.dropCmd_station (id : Nat) : (s.dropCmd id).station = s.station := rfl
@[simp] theorem State.dropCmd_phase (id : Nat) : (s.dropCmd id).phase = s.phase := rfl
@[simp] theorem State.dropCmd_todo (id : Nat) : (s.dropCmd id).todo = s.todo := rfl
@[simp] theorem State.dropCmd_pass (id : Nat) : (s.dropCmd id).pass = s.pass := rfl
@[simp] theorem State.dropCmd_cur (id : Nat) : (s.dropCmd id).cur = s.cur := rfl
@[simp] theorem State.dropCmd_nextId (id : Nat) : (s.dropCmd id).nextId = s.nextId := rfl
@[simp] theorem State.dropCmd_freeCtr (id : Nat) : (s.dropCmd id).freeCtr = s.freeCtr := rfl
@[simp] theorem State.dropCmd_inputs (id : Nat) : (s.dropCmd id).inputs = s.inputs := rfl
@[simp] theorem State.dropCmd_mem (id : Nat) : (s.dropCmd id).mem = s.mem := rfl
@[simp] theorem State.dropCmd_poison (id : Nat) : (s.dropCmd id).poison = s.poison := rfl
@[simp] theorem State.dropCmd_softErrs (id : Nat) : (s.dropCmd id).softErrs = s.softErrs := rfl
@[simp] theorem State.dropCmd_flips (id : Nat) : (s.dropCmd id).flips = s.flips := rfl
@[simp] theorem State.dropCmd_devs (id : Nat) : (s.dropCmd id).devs = s.devs := rfl
@[simp] theorem State.dropCmd_cores (id : Nat) : (s.dropCmd id).cores = s.cores := rfl
@[simp] theorem State.dropCmd_ctxs (id : Nat) : (s.dropCmd id).ctxs = s.ctxs := rfl
@[simp] theorem State.dropCmd_seen (id : Nat) : (s.dropCmd id).seen = s.seen := rfl
@[simp] theorem State.dropCmd_prior (id : Nat) : (s.dropCmd id).prior = s.prior := rfl
@[simp] theorem State.dropCmd_priorReg (id : Nat) : (s.dropCmd id).priorReg = s.priorReg := rfl
@[simp] theorem State.dropCmd_accesses (id : Nat) : (s.dropCmd id).accesses = s.accesses := rfl
@[simp] theorem State.dropCmd_xfers (id : Nat) : (s.dropCmd id).xfers = s.xfers := rfl
@[simp] theorem State.dropCmd_tcache (id : Nat) : (s.dropCmd id).tcache = s.tcache := rfl
@[simp] theorem State.dropCmd_walks (id : Nat) : (s.dropCmd id).walks = s.walks := rfl
@[simp] theorem State.dropCmd_bcache (id : Nat) : (s.dropCmd id).bcache = s.bcache := rfl
@[simp] theorem State.dropCmd_tier (id : Nat) : (s.dropCmd id).tier = s.tier := rfl
@[simp] theorem State.dropCmd_migctl (id : Nat) : (s.dropCmd id).migctl = s.migctl := rfl
@[simp] theorem State.dropCmd_moves (id : Nat) : (s.dropCmd id).moves = s.moves := rfl
@[simp] theorem State.dropCmd_bwUsed (id : Nat) : (s.dropCmd id).bwUsed = s.bwUsed := rfl
@[simp] theorem State.dropCmd_rows (id : Nat) : (s.dropCmd id).rows = s.rows := rfl
@[simp] theorem State.dropCmd_returning (id : Nat) : (s.dropCmd id).returning = s.returning := rfl
@[simp] theorem State.dropCmd_scrubs (id : Nat) : (s.dropCmd id).scrubs = s.scrubs := rfl
@[simp] theorem State.dropCmd_poolHbm (id : Nat) : (s.dropCmd id).poolHbm = s.poolHbm := rfl
@[simp] theorem State.dropCmd_poolLoft (id : Nat) : (s.dropCmd id).poolLoft = s.poolLoft := rfl
@[simp] theorem State.dropCmd_nextRoot (id : Nat) : (s.dropCmd id).nextRoot = s.nextRoot := rfl
@[simp] theorem State.dropCmd_mid (id : Nat) : (s.dropCmd id).mid = s.mid := rfl
@[simp] theorem State.dropCmd_sends (id : Nat) : (s.dropCmd id).sends = s.sends := rfl
@[simp] theorem State.dropCmd_recvs (id : Nat) : (s.dropCmd id).recvs = s.recvs := rfl
@[simp] theorem State.dropCmd_msgs (id : Nat) : (s.dropCmd id).msgs = s.msgs := rfl
@[simp] theorem State.dropCmd_retired (id : Nat) : (s.dropCmd id).retired = s.retired := rfl
@[simp] theorem State.dropCmd_outbox (id : Nat) : (s.dropCmd id).outbox = s.outbox := rfl
@[simp] theorem State.dropCmd_reductions (id : Nat) : (s.dropCmd id).reductions = s.reductions := rfl
@[simp] theorem State.dropCmd_results (id : Nat) : (s.dropCmd id).results = s.results := rfl
@[simp] theorem State.dropCmd_switchMid (id : Nat) : (s.dropCmd id).switchMid = s.switchMid := rfl
@[simp] theorem State.dropCmd_coderate (id : Nat) : (s.dropCmd id).coderate = s.coderate := rfl
@[simp] theorem State.dropCmd_losstmo (id : Nat) : (s.dropCmd id).losstmo = s.losstmo := rfl
@[simp] theorem State.dropCmd_fabLate (id : Nat) : (s.dropCmd id).fabLate = s.fabLate := rfl
@[simp] theorem State.dropCmd_fabYard (id : Nat) : (s.dropCmd id).fabYard = s.fabYard := rfl
@[simp] theorem State.dropCmd_fabBad (id : Nat) : (s.dropCmd id).fabBad = s.fabBad := rfl
@[simp] theorem State.dropCmd_pkgid (id : Nat) : (s.dropCmd id).pkgid = s.pkgid := rfl
@[simp] theorem State.dropCmd_gredCount (id : Nat) : (s.dropCmd id).gredCount = s.gredCount := rfl
@[simp] theorem State.dropCmd_launches (id : Nat) : (s.dropCmd id).launches = s.launches := rfl
@[simp] theorem State.dropCmd_holders (id : Nat) : (s.dropCmd id).holders = s.holders := rfl
@[simp] theorem State.dropCmd_paddocks (id : Nat) : (s.dropCmd id).paddocks = s.paddocks := rfl
@[simp] theorem State.dropCmd_ttbase (id : Nat) : (s.dropCmd id).ttbase = s.ttbase := rfl
@[simp] theorem State.dropCmd_ttSlots (id : Nat) : (s.dropCmd id).ttSlots = s.ttSlots := rfl
@[simp] theorem State.dropCmd_vdsel (id : Nat) : (s.dropCmd id).vdsel = s.vdsel := rfl
@[simp] theorem State.dropCmd_ctxsel (id : Nat) : (s.dropCmd id).ctxsel = s.ctxsel := rfl
@[simp] theorem State.dropCmd_hypq (id : Nat) : (s.dropCmd id).hypq = s.hypq := rfl
@[simp] theorem State.dropCmd_ltovf (id : Nat) : (s.dropCmd id).ltovf = s.ltovf := rfl
@[simp] theorem State.dropCmd_overflow (id : Nat) : (s.dropCmd id).overflow = s.overflow := rfl
@[simp] theorem State.dropCmd_slotHolds (id : Nat) : (s.dropCmd id).slotHolds = s.slotHolds := rfl
@[simp] theorem State.dropCmd_shed (id : Nat) : (s.dropCmd id).shed = s.shed := rfl
@[simp] theorem State.dropCmd_stable (id : Nat) : (s.dropCmd id).stable = s.stable := rfl
@[simp] theorem State.dropCmd_frozen (id : Nat) : (s.dropCmd id).frozen = s.frozen := rfl
@[simp] theorem State.dropCmd_shedCount (id : Nat) : (s.dropCmd id).shedCount = s.shedCount := rfl
@[simp] theorem State.dropCmd_shedGap (id : Nat) : (s.dropCmd id).shedGap = s.shedGap := rfl
@[simp] theorem State.dropCmd_shedStart (id : Nat) : (s.dropCmd id).shedStart = s.shedStart := rfl
@[simp] theorem State.dropCmd_shedAt (id : Nat) : (s.dropCmd id).shedAt = s.shedAt := rfl
@[simp] theorem State.dropCmd_bootStage (id : Nat) : (s.dropCmd id).bootStage = s.bootStage := rfl
@[simp] theorem State.dropCmd_bootPhase (id : Nat) : (s.dropCmd id).bootPhase = s.bootPhase := rfl
@[simp] theorem State.dropCmd_boots (id : Nat) : (s.dropCmd id).boots = s.boots := rfl
@[simp] theorem State.dropCmd_meas (id : Nat) : (s.dropCmd id).meas = s.meas := rfl
@[simp] theorem State.dropCmd_hbmstat (id : Nat) : (s.dropCmd id).hbmstat = s.hbmstat := rfl
@[simp] theorem State.dropCmd_attdst (id : Nat) : (s.dropCmd id).attdst = s.attdst := rfl
@[simp] theorem State.dropCmd_attBusy (id : Nat) : (s.dropCmd id).attBusy = s.attBusy := rfl
@[simp] theorem State.dropCmd_pwrAvg (id : Nat) : (s.dropCmd id).pwrAvg = s.pwrAvg := rfl
@[simp] theorem State.dropCmd_pwrCap (id : Nat) : (s.dropCmd id).pwrCap = s.pwrCap := rfl
@[simp] theorem State.dropCmd_msix (id : Nat) : (s.dropCmd id).msix = s.msix := rfl
@[simp] theorem State.dropCmd_armed (id : Nat) : (s.dropCmd id).armed = s.armed := rfl
@[simp] theorem State.dropCmd_releases (id : Nat) : (s.dropCmd id).releases = s.releases := rfl
@[simp] theorem State.dropCmd_posts (id : Nat) : (s.dropCmd id).posts = s.posts := rfl
@[simp] theorem State.dropCmd_mchecks (id : Nat) : (s.dropCmd id).mchecks = s.mchecks := rfl

/-! ### setLaunch -/

@[simp] theorem State.setLaunch_station (l : Launch) : (s.setLaunch l).station = s.station := rfl
@[simp] theorem State.setLaunch_phase (l : Launch) : (s.setLaunch l).phase = s.phase := rfl
@[simp] theorem State.setLaunch_todo (l : Launch) : (s.setLaunch l).todo = s.todo := rfl
@[simp] theorem State.setLaunch_pass (l : Launch) : (s.setLaunch l).pass = s.pass := rfl
@[simp] theorem State.setLaunch_cur (l : Launch) : (s.setLaunch l).cur = s.cur := rfl
@[simp] theorem State.setLaunch_nextId (l : Launch) : (s.setLaunch l).nextId = s.nextId := rfl
@[simp] theorem State.setLaunch_freeCtr (l : Launch) : (s.setLaunch l).freeCtr = s.freeCtr := rfl
@[simp] theorem State.setLaunch_inputs (l : Launch) : (s.setLaunch l).inputs = s.inputs := rfl
@[simp] theorem State.setLaunch_mem (l : Launch) : (s.setLaunch l).mem = s.mem := rfl
@[simp] theorem State.setLaunch_poison (l : Launch) : (s.setLaunch l).poison = s.poison := rfl
@[simp] theorem State.setLaunch_softErrs (l : Launch) : (s.setLaunch l).softErrs = s.softErrs := rfl
@[simp] theorem State.setLaunch_flips (l : Launch) : (s.setLaunch l).flips = s.flips := rfl
@[simp] theorem State.setLaunch_devs (l : Launch) : (s.setLaunch l).devs = s.devs := rfl
@[simp] theorem State.setLaunch_cores (l : Launch) : (s.setLaunch l).cores = s.cores := rfl
@[simp] theorem State.setLaunch_ctxs (l : Launch) : (s.setLaunch l).ctxs = s.ctxs := rfl
@[simp] theorem State.setLaunch_seen (l : Launch) : (s.setLaunch l).seen = s.seen := rfl
@[simp] theorem State.setLaunch_prior (l : Launch) : (s.setLaunch l).prior = s.prior := rfl
@[simp] theorem State.setLaunch_priorReg (l : Launch) : (s.setLaunch l).priorReg = s.priorReg := rfl
@[simp] theorem State.setLaunch_accesses (l : Launch) : (s.setLaunch l).accesses = s.accesses := rfl
@[simp] theorem State.setLaunch_cmds (l : Launch) : (s.setLaunch l).cmds = s.cmds := rfl
@[simp] theorem State.setLaunch_xfers (l : Launch) : (s.setLaunch l).xfers = s.xfers := rfl
@[simp] theorem State.setLaunch_tcache (l : Launch) : (s.setLaunch l).tcache = s.tcache := rfl
@[simp] theorem State.setLaunch_walks (l : Launch) : (s.setLaunch l).walks = s.walks := rfl
@[simp] theorem State.setLaunch_bcache (l : Launch) : (s.setLaunch l).bcache = s.bcache := rfl
@[simp] theorem State.setLaunch_tier (l : Launch) : (s.setLaunch l).tier = s.tier := rfl
@[simp] theorem State.setLaunch_migctl (l : Launch) : (s.setLaunch l).migctl = s.migctl := rfl
@[simp] theorem State.setLaunch_moves (l : Launch) : (s.setLaunch l).moves = s.moves := rfl
@[simp] theorem State.setLaunch_bwUsed (l : Launch) : (s.setLaunch l).bwUsed = s.bwUsed := rfl
@[simp] theorem State.setLaunch_rows (l : Launch) : (s.setLaunch l).rows = s.rows := rfl
@[simp] theorem State.setLaunch_returning (l : Launch) : (s.setLaunch l).returning = s.returning := rfl
@[simp] theorem State.setLaunch_scrubs (l : Launch) : (s.setLaunch l).scrubs = s.scrubs := rfl
@[simp] theorem State.setLaunch_poolHbm (l : Launch) : (s.setLaunch l).poolHbm = s.poolHbm := rfl
@[simp] theorem State.setLaunch_poolLoft (l : Launch) : (s.setLaunch l).poolLoft = s.poolLoft := rfl
@[simp] theorem State.setLaunch_nextRoot (l : Launch) : (s.setLaunch l).nextRoot = s.nextRoot := rfl
@[simp] theorem State.setLaunch_mid (l : Launch) : (s.setLaunch l).mid = s.mid := rfl
@[simp] theorem State.setLaunch_sends (l : Launch) : (s.setLaunch l).sends = s.sends := rfl
@[simp] theorem State.setLaunch_recvs (l : Launch) : (s.setLaunch l).recvs = s.recvs := rfl
@[simp] theorem State.setLaunch_msgs (l : Launch) : (s.setLaunch l).msgs = s.msgs := rfl
@[simp] theorem State.setLaunch_retired (l : Launch) : (s.setLaunch l).retired = s.retired := rfl
@[simp] theorem State.setLaunch_outbox (l : Launch) : (s.setLaunch l).outbox = s.outbox := rfl
@[simp] theorem State.setLaunch_reductions (l : Launch) : (s.setLaunch l).reductions = s.reductions := rfl
@[simp] theorem State.setLaunch_results (l : Launch) : (s.setLaunch l).results = s.results := rfl
@[simp] theorem State.setLaunch_switchMid (l : Launch) : (s.setLaunch l).switchMid = s.switchMid := rfl
@[simp] theorem State.setLaunch_coderate (l : Launch) : (s.setLaunch l).coderate = s.coderate := rfl
@[simp] theorem State.setLaunch_losstmo (l : Launch) : (s.setLaunch l).losstmo = s.losstmo := rfl
@[simp] theorem State.setLaunch_fabLate (l : Launch) : (s.setLaunch l).fabLate = s.fabLate := rfl
@[simp] theorem State.setLaunch_fabYard (l : Launch) : (s.setLaunch l).fabYard = s.fabYard := rfl
@[simp] theorem State.setLaunch_fabBad (l : Launch) : (s.setLaunch l).fabBad = s.fabBad := rfl
@[simp] theorem State.setLaunch_pkgid (l : Launch) : (s.setLaunch l).pkgid = s.pkgid := rfl
@[simp] theorem State.setLaunch_gredCount (l : Launch) : (s.setLaunch l).gredCount = s.gredCount := rfl
@[simp] theorem State.setLaunch_holders (l : Launch) : (s.setLaunch l).holders = s.holders := rfl
@[simp] theorem State.setLaunch_paddocks (l : Launch) : (s.setLaunch l).paddocks = s.paddocks := rfl
@[simp] theorem State.setLaunch_ttbase (l : Launch) : (s.setLaunch l).ttbase = s.ttbase := rfl
@[simp] theorem State.setLaunch_ttSlots (l : Launch) : (s.setLaunch l).ttSlots = s.ttSlots := rfl
@[simp] theorem State.setLaunch_vdsel (l : Launch) : (s.setLaunch l).vdsel = s.vdsel := rfl
@[simp] theorem State.setLaunch_ctxsel (l : Launch) : (s.setLaunch l).ctxsel = s.ctxsel := rfl
@[simp] theorem State.setLaunch_hypq (l : Launch) : (s.setLaunch l).hypq = s.hypq := rfl
@[simp] theorem State.setLaunch_ltovf (l : Launch) : (s.setLaunch l).ltovf = s.ltovf := rfl
@[simp] theorem State.setLaunch_overflow (l : Launch) : (s.setLaunch l).overflow = s.overflow := rfl
@[simp] theorem State.setLaunch_slotHolds (l : Launch) : (s.setLaunch l).slotHolds = s.slotHolds := rfl
@[simp] theorem State.setLaunch_shed (l : Launch) : (s.setLaunch l).shed = s.shed := rfl
@[simp] theorem State.setLaunch_stable (l : Launch) : (s.setLaunch l).stable = s.stable := rfl
@[simp] theorem State.setLaunch_frozen (l : Launch) : (s.setLaunch l).frozen = s.frozen := rfl
@[simp] theorem State.setLaunch_shedCount (l : Launch) : (s.setLaunch l).shedCount = s.shedCount := rfl
@[simp] theorem State.setLaunch_shedGap (l : Launch) : (s.setLaunch l).shedGap = s.shedGap := rfl
@[simp] theorem State.setLaunch_shedStart (l : Launch) : (s.setLaunch l).shedStart = s.shedStart := rfl
@[simp] theorem State.setLaunch_shedAt (l : Launch) : (s.setLaunch l).shedAt = s.shedAt := rfl
@[simp] theorem State.setLaunch_bootStage (l : Launch) : (s.setLaunch l).bootStage = s.bootStage := rfl
@[simp] theorem State.setLaunch_bootPhase (l : Launch) : (s.setLaunch l).bootPhase = s.bootPhase := rfl
@[simp] theorem State.setLaunch_boots (l : Launch) : (s.setLaunch l).boots = s.boots := rfl
@[simp] theorem State.setLaunch_meas (l : Launch) : (s.setLaunch l).meas = s.meas := rfl
@[simp] theorem State.setLaunch_hbmstat (l : Launch) : (s.setLaunch l).hbmstat = s.hbmstat := rfl
@[simp] theorem State.setLaunch_attdst (l : Launch) : (s.setLaunch l).attdst = s.attdst := rfl
@[simp] theorem State.setLaunch_attBusy (l : Launch) : (s.setLaunch l).attBusy = s.attBusy := rfl
@[simp] theorem State.setLaunch_pwrAvg (l : Launch) : (s.setLaunch l).pwrAvg = s.pwrAvg := rfl
@[simp] theorem State.setLaunch_pwrCap (l : Launch) : (s.setLaunch l).pwrCap = s.pwrCap := rfl
@[simp] theorem State.setLaunch_msix (l : Launch) : (s.setLaunch l).msix = s.msix := rfl
@[simp] theorem State.setLaunch_armed (l : Launch) : (s.setLaunch l).armed = s.armed := rfl
@[simp] theorem State.setLaunch_releases (l : Launch) : (s.setLaunch l).releases = s.releases := rfl
@[simp] theorem State.setLaunch_posts (l : Launch) : (s.setLaunch l).posts = s.posts := rfl
@[simp] theorem State.setLaunch_mchecks (l : Launch) : (s.setLaunch l).mchecks = s.mchecks := rfl

/-! ### modCtx -/

@[simp] theorem State.modCtx_station (key : Nat) (f : Ctx → Ctx) : (s.modCtx key f).station = s.station := rfl
@[simp] theorem State.modCtx_phase (key : Nat) (f : Ctx → Ctx) : (s.modCtx key f).phase = s.phase := rfl
@[simp] theorem State.modCtx_todo (key : Nat) (f : Ctx → Ctx) : (s.modCtx key f).todo = s.todo := rfl
@[simp] theorem State.modCtx_pass (key : Nat) (f : Ctx → Ctx) : (s.modCtx key f).pass = s.pass := rfl
@[simp] theorem State.modCtx_cur (key : Nat) (f : Ctx → Ctx) : (s.modCtx key f).cur = s.cur := rfl
@[simp] theorem State.modCtx_nextId (key : Nat) (f : Ctx → Ctx) : (s.modCtx key f).nextId = s.nextId := rfl
@[simp] theorem State.modCtx_freeCtr (key : Nat) (f : Ctx → Ctx) : (s.modCtx key f).freeCtr = s.freeCtr := rfl
@[simp] theorem State.modCtx_inputs (key : Nat) (f : Ctx → Ctx) : (s.modCtx key f).inputs = s.inputs := rfl
@[simp] theorem State.modCtx_mem (key : Nat) (f : Ctx → Ctx) : (s.modCtx key f).mem = s.mem := rfl
@[simp] theorem State.modCtx_poison (key : Nat) (f : Ctx → Ctx) : (s.modCtx key f).poison = s.poison := rfl
@[simp] theorem State.modCtx_softErrs (key : Nat) (f : Ctx → Ctx) : (s.modCtx key f).softErrs = s.softErrs := rfl
@[simp] theorem State.modCtx_flips (key : Nat) (f : Ctx → Ctx) : (s.modCtx key f).flips = s.flips := rfl
@[simp] theorem State.modCtx_devs (key : Nat) (f : Ctx → Ctx) : (s.modCtx key f).devs = s.devs := rfl
@[simp] theorem State.modCtx_cores (key : Nat) (f : Ctx → Ctx) : (s.modCtx key f).cores = s.cores := rfl
@[simp] theorem State.modCtx_seen (key : Nat) (f : Ctx → Ctx) : (s.modCtx key f).seen = s.seen := rfl
@[simp] theorem State.modCtx_prior (key : Nat) (f : Ctx → Ctx) : (s.modCtx key f).prior = s.prior := rfl
@[simp] theorem State.modCtx_priorReg (key : Nat) (f : Ctx → Ctx) : (s.modCtx key f).priorReg = s.priorReg := rfl
@[simp] theorem State.modCtx_accesses (key : Nat) (f : Ctx → Ctx) : (s.modCtx key f).accesses = s.accesses := rfl
@[simp] theorem State.modCtx_cmds (key : Nat) (f : Ctx → Ctx) : (s.modCtx key f).cmds = s.cmds := rfl
@[simp] theorem State.modCtx_xfers (key : Nat) (f : Ctx → Ctx) : (s.modCtx key f).xfers = s.xfers := rfl
@[simp] theorem State.modCtx_tcache (key : Nat) (f : Ctx → Ctx) : (s.modCtx key f).tcache = s.tcache := rfl
@[simp] theorem State.modCtx_walks (key : Nat) (f : Ctx → Ctx) : (s.modCtx key f).walks = s.walks := rfl
@[simp] theorem State.modCtx_bcache (key : Nat) (f : Ctx → Ctx) : (s.modCtx key f).bcache = s.bcache := rfl
@[simp] theorem State.modCtx_tier (key : Nat) (f : Ctx → Ctx) : (s.modCtx key f).tier = s.tier := rfl
@[simp] theorem State.modCtx_migctl (key : Nat) (f : Ctx → Ctx) : (s.modCtx key f).migctl = s.migctl := rfl
@[simp] theorem State.modCtx_moves (key : Nat) (f : Ctx → Ctx) : (s.modCtx key f).moves = s.moves := rfl
@[simp] theorem State.modCtx_bwUsed (key : Nat) (f : Ctx → Ctx) : (s.modCtx key f).bwUsed = s.bwUsed := rfl
@[simp] theorem State.modCtx_rows (key : Nat) (f : Ctx → Ctx) : (s.modCtx key f).rows = s.rows := rfl
@[simp] theorem State.modCtx_returning (key : Nat) (f : Ctx → Ctx) : (s.modCtx key f).returning = s.returning := rfl
@[simp] theorem State.modCtx_scrubs (key : Nat) (f : Ctx → Ctx) : (s.modCtx key f).scrubs = s.scrubs := rfl
@[simp] theorem State.modCtx_poolHbm (key : Nat) (f : Ctx → Ctx) : (s.modCtx key f).poolHbm = s.poolHbm := rfl
@[simp] theorem State.modCtx_poolLoft (key : Nat) (f : Ctx → Ctx) : (s.modCtx key f).poolLoft = s.poolLoft := rfl
@[simp] theorem State.modCtx_nextRoot (key : Nat) (f : Ctx → Ctx) : (s.modCtx key f).nextRoot = s.nextRoot := rfl
@[simp] theorem State.modCtx_mid (key : Nat) (f : Ctx → Ctx) : (s.modCtx key f).mid = s.mid := rfl
@[simp] theorem State.modCtx_sends (key : Nat) (f : Ctx → Ctx) : (s.modCtx key f).sends = s.sends := rfl
@[simp] theorem State.modCtx_recvs (key : Nat) (f : Ctx → Ctx) : (s.modCtx key f).recvs = s.recvs := rfl
@[simp] theorem State.modCtx_msgs (key : Nat) (f : Ctx → Ctx) : (s.modCtx key f).msgs = s.msgs := rfl
@[simp] theorem State.modCtx_retired (key : Nat) (f : Ctx → Ctx) : (s.modCtx key f).retired = s.retired := rfl
@[simp] theorem State.modCtx_outbox (key : Nat) (f : Ctx → Ctx) : (s.modCtx key f).outbox = s.outbox := rfl
@[simp] theorem State.modCtx_reductions (key : Nat) (f : Ctx → Ctx) : (s.modCtx key f).reductions = s.reductions := rfl
@[simp] theorem State.modCtx_results (key : Nat) (f : Ctx → Ctx) : (s.modCtx key f).results = s.results := rfl
@[simp] theorem State.modCtx_switchMid (key : Nat) (f : Ctx → Ctx) : (s.modCtx key f).switchMid = s.switchMid := rfl
@[simp] theorem State.modCtx_coderate (key : Nat) (f : Ctx → Ctx) : (s.modCtx key f).coderate = s.coderate := rfl
@[simp] theorem State.modCtx_losstmo (key : Nat) (f : Ctx → Ctx) : (s.modCtx key f).losstmo = s.losstmo := rfl
@[simp] theorem State.modCtx_fabLate (key : Nat) (f : Ctx → Ctx) : (s.modCtx key f).fabLate = s.fabLate := rfl
@[simp] theorem State.modCtx_fabYard (key : Nat) (f : Ctx → Ctx) : (s.modCtx key f).fabYard = s.fabYard := rfl
@[simp] theorem State.modCtx_fabBad (key : Nat) (f : Ctx → Ctx) : (s.modCtx key f).fabBad = s.fabBad := rfl
@[simp] theorem State.modCtx_pkgid (key : Nat) (f : Ctx → Ctx) : (s.modCtx key f).pkgid = s.pkgid := rfl
@[simp] theorem State.modCtx_gredCount (key : Nat) (f : Ctx → Ctx) : (s.modCtx key f).gredCount = s.gredCount := rfl
@[simp] theorem State.modCtx_launches (key : Nat) (f : Ctx → Ctx) : (s.modCtx key f).launches = s.launches := rfl
@[simp] theorem State.modCtx_holders (key : Nat) (f : Ctx → Ctx) : (s.modCtx key f).holders = s.holders := rfl
@[simp] theorem State.modCtx_paddocks (key : Nat) (f : Ctx → Ctx) : (s.modCtx key f).paddocks = s.paddocks := rfl
@[simp] theorem State.modCtx_ttbase (key : Nat) (f : Ctx → Ctx) : (s.modCtx key f).ttbase = s.ttbase := rfl
@[simp] theorem State.modCtx_ttSlots (key : Nat) (f : Ctx → Ctx) : (s.modCtx key f).ttSlots = s.ttSlots := rfl
@[simp] theorem State.modCtx_vdsel (key : Nat) (f : Ctx → Ctx) : (s.modCtx key f).vdsel = s.vdsel := rfl
@[simp] theorem State.modCtx_ctxsel (key : Nat) (f : Ctx → Ctx) : (s.modCtx key f).ctxsel = s.ctxsel := rfl
@[simp] theorem State.modCtx_hypq (key : Nat) (f : Ctx → Ctx) : (s.modCtx key f).hypq = s.hypq := rfl
@[simp] theorem State.modCtx_ltovf (key : Nat) (f : Ctx → Ctx) : (s.modCtx key f).ltovf = s.ltovf := rfl
@[simp] theorem State.modCtx_overflow (key : Nat) (f : Ctx → Ctx) : (s.modCtx key f).overflow = s.overflow := rfl
@[simp] theorem State.modCtx_slotHolds (key : Nat) (f : Ctx → Ctx) : (s.modCtx key f).slotHolds = s.slotHolds := rfl
@[simp] theorem State.modCtx_shed (key : Nat) (f : Ctx → Ctx) : (s.modCtx key f).shed = s.shed := rfl
@[simp] theorem State.modCtx_stable (key : Nat) (f : Ctx → Ctx) : (s.modCtx key f).stable = s.stable := rfl
@[simp] theorem State.modCtx_frozen (key : Nat) (f : Ctx → Ctx) : (s.modCtx key f).frozen = s.frozen := rfl
@[simp] theorem State.modCtx_shedCount (key : Nat) (f : Ctx → Ctx) : (s.modCtx key f).shedCount = s.shedCount := rfl
@[simp] theorem State.modCtx_shedGap (key : Nat) (f : Ctx → Ctx) : (s.modCtx key f).shedGap = s.shedGap := rfl
@[simp] theorem State.modCtx_shedStart (key : Nat) (f : Ctx → Ctx) : (s.modCtx key f).shedStart = s.shedStart := rfl
@[simp] theorem State.modCtx_shedAt (key : Nat) (f : Ctx → Ctx) : (s.modCtx key f).shedAt = s.shedAt := rfl
@[simp] theorem State.modCtx_bootStage (key : Nat) (f : Ctx → Ctx) : (s.modCtx key f).bootStage = s.bootStage := rfl
@[simp] theorem State.modCtx_bootPhase (key : Nat) (f : Ctx → Ctx) : (s.modCtx key f).bootPhase = s.bootPhase := rfl
@[simp] theorem State.modCtx_boots (key : Nat) (f : Ctx → Ctx) : (s.modCtx key f).boots = s.boots := rfl
@[simp] theorem State.modCtx_meas (key : Nat) (f : Ctx → Ctx) : (s.modCtx key f).meas = s.meas := rfl
@[simp] theorem State.modCtx_hbmstat (key : Nat) (f : Ctx → Ctx) : (s.modCtx key f).hbmstat = s.hbmstat := rfl
@[simp] theorem State.modCtx_attdst (key : Nat) (f : Ctx → Ctx) : (s.modCtx key f).attdst = s.attdst := rfl
@[simp] theorem State.modCtx_attBusy (key : Nat) (f : Ctx → Ctx) : (s.modCtx key f).attBusy = s.attBusy := rfl
@[simp] theorem State.modCtx_pwrAvg (key : Nat) (f : Ctx → Ctx) : (s.modCtx key f).pwrAvg = s.pwrAvg := rfl
@[simp] theorem State.modCtx_pwrCap (key : Nat) (f : Ctx → Ctx) : (s.modCtx key f).pwrCap = s.pwrCap := rfl
@[simp] theorem State.modCtx_msix (key : Nat) (f : Ctx → Ctx) : (s.modCtx key f).msix = s.msix := rfl
@[simp] theorem State.modCtx_armed (key : Nat) (f : Ctx → Ctx) : (s.modCtx key f).armed = s.armed := rfl
@[simp] theorem State.modCtx_releases (key : Nat) (f : Ctx → Ctx) : (s.modCtx key f).releases = s.releases := rfl
@[simp] theorem State.modCtx_posts (key : Nat) (f : Ctx → Ctx) : (s.modCtx key f).posts = s.posts := rfl
@[simp] theorem State.modCtx_mchecks (key : Nat) (f : Ctx → Ctx) : (s.modCtx key f).mchecks = s.mchecks := rfl

/-! ### modCore -/

@[simp] theorem State.modCore_station (n : Nat) (f : Core → Core) : (s.modCore n f).station = s.station := rfl
@[simp] theorem State.modCore_phase (n : Nat) (f : Core → Core) : (s.modCore n f).phase = s.phase := rfl
@[simp] theorem State.modCore_todo (n : Nat) (f : Core → Core) : (s.modCore n f).todo = s.todo := rfl
@[simp] theorem State.modCore_pass (n : Nat) (f : Core → Core) : (s.modCore n f).pass = s.pass := rfl
@[simp] theorem State.modCore_cur (n : Nat) (f : Core → Core) : (s.modCore n f).cur = s.cur := rfl
@[simp] theorem State.modCore_nextId (n : Nat) (f : Core → Core) : (s.modCore n f).nextId = s.nextId := rfl
@[simp] theorem State.modCore_freeCtr (n : Nat) (f : Core → Core) : (s.modCore n f).freeCtr = s.freeCtr := rfl
@[simp] theorem State.modCore_inputs (n : Nat) (f : Core → Core) : (s.modCore n f).inputs = s.inputs := rfl
@[simp] theorem State.modCore_mem (n : Nat) (f : Core → Core) : (s.modCore n f).mem = s.mem := rfl
@[simp] theorem State.modCore_poison (n : Nat) (f : Core → Core) : (s.modCore n f).poison = s.poison := rfl
@[simp] theorem State.modCore_softErrs (n : Nat) (f : Core → Core) : (s.modCore n f).softErrs = s.softErrs := rfl
@[simp] theorem State.modCore_flips (n : Nat) (f : Core → Core) : (s.modCore n f).flips = s.flips := rfl
@[simp] theorem State.modCore_devs (n : Nat) (f : Core → Core) : (s.modCore n f).devs = s.devs := rfl
@[simp] theorem State.modCore_ctxs (n : Nat) (f : Core → Core) : (s.modCore n f).ctxs = s.ctxs := rfl
@[simp] theorem State.modCore_seen (n : Nat) (f : Core → Core) : (s.modCore n f).seen = s.seen := rfl
@[simp] theorem State.modCore_prior (n : Nat) (f : Core → Core) : (s.modCore n f).prior = s.prior := rfl
@[simp] theorem State.modCore_priorReg (n : Nat) (f : Core → Core) : (s.modCore n f).priorReg = s.priorReg := rfl
@[simp] theorem State.modCore_accesses (n : Nat) (f : Core → Core) : (s.modCore n f).accesses = s.accesses := rfl
@[simp] theorem State.modCore_cmds (n : Nat) (f : Core → Core) : (s.modCore n f).cmds = s.cmds := rfl
@[simp] theorem State.modCore_xfers (n : Nat) (f : Core → Core) : (s.modCore n f).xfers = s.xfers := rfl
@[simp] theorem State.modCore_tcache (n : Nat) (f : Core → Core) : (s.modCore n f).tcache = s.tcache := rfl
@[simp] theorem State.modCore_walks (n : Nat) (f : Core → Core) : (s.modCore n f).walks = s.walks := rfl
@[simp] theorem State.modCore_bcache (n : Nat) (f : Core → Core) : (s.modCore n f).bcache = s.bcache := rfl
@[simp] theorem State.modCore_tier (n : Nat) (f : Core → Core) : (s.modCore n f).tier = s.tier := rfl
@[simp] theorem State.modCore_migctl (n : Nat) (f : Core → Core) : (s.modCore n f).migctl = s.migctl := rfl
@[simp] theorem State.modCore_moves (n : Nat) (f : Core → Core) : (s.modCore n f).moves = s.moves := rfl
@[simp] theorem State.modCore_bwUsed (n : Nat) (f : Core → Core) : (s.modCore n f).bwUsed = s.bwUsed := rfl
@[simp] theorem State.modCore_rows (n : Nat) (f : Core → Core) : (s.modCore n f).rows = s.rows := rfl
@[simp] theorem State.modCore_returning (n : Nat) (f : Core → Core) : (s.modCore n f).returning = s.returning := rfl
@[simp] theorem State.modCore_scrubs (n : Nat) (f : Core → Core) : (s.modCore n f).scrubs = s.scrubs := rfl
@[simp] theorem State.modCore_poolHbm (n : Nat) (f : Core → Core) : (s.modCore n f).poolHbm = s.poolHbm := rfl
@[simp] theorem State.modCore_poolLoft (n : Nat) (f : Core → Core) : (s.modCore n f).poolLoft = s.poolLoft := rfl
@[simp] theorem State.modCore_nextRoot (n : Nat) (f : Core → Core) : (s.modCore n f).nextRoot = s.nextRoot := rfl
@[simp] theorem State.modCore_mid (n : Nat) (f : Core → Core) : (s.modCore n f).mid = s.mid := rfl
@[simp] theorem State.modCore_sends (n : Nat) (f : Core → Core) : (s.modCore n f).sends = s.sends := rfl
@[simp] theorem State.modCore_recvs (n : Nat) (f : Core → Core) : (s.modCore n f).recvs = s.recvs := rfl
@[simp] theorem State.modCore_msgs (n : Nat) (f : Core → Core) : (s.modCore n f).msgs = s.msgs := rfl
@[simp] theorem State.modCore_retired (n : Nat) (f : Core → Core) : (s.modCore n f).retired = s.retired := rfl
@[simp] theorem State.modCore_outbox (n : Nat) (f : Core → Core) : (s.modCore n f).outbox = s.outbox := rfl
@[simp] theorem State.modCore_reductions (n : Nat) (f : Core → Core) : (s.modCore n f).reductions = s.reductions := rfl
@[simp] theorem State.modCore_results (n : Nat) (f : Core → Core) : (s.modCore n f).results = s.results := rfl
@[simp] theorem State.modCore_switchMid (n : Nat) (f : Core → Core) : (s.modCore n f).switchMid = s.switchMid := rfl
@[simp] theorem State.modCore_coderate (n : Nat) (f : Core → Core) : (s.modCore n f).coderate = s.coderate := rfl
@[simp] theorem State.modCore_losstmo (n : Nat) (f : Core → Core) : (s.modCore n f).losstmo = s.losstmo := rfl
@[simp] theorem State.modCore_fabLate (n : Nat) (f : Core → Core) : (s.modCore n f).fabLate = s.fabLate := rfl
@[simp] theorem State.modCore_fabYard (n : Nat) (f : Core → Core) : (s.modCore n f).fabYard = s.fabYard := rfl
@[simp] theorem State.modCore_fabBad (n : Nat) (f : Core → Core) : (s.modCore n f).fabBad = s.fabBad := rfl
@[simp] theorem State.modCore_pkgid (n : Nat) (f : Core → Core) : (s.modCore n f).pkgid = s.pkgid := rfl
@[simp] theorem State.modCore_gredCount (n : Nat) (f : Core → Core) : (s.modCore n f).gredCount = s.gredCount := rfl
@[simp] theorem State.modCore_launches (n : Nat) (f : Core → Core) : (s.modCore n f).launches = s.launches := rfl
@[simp] theorem State.modCore_holders (n : Nat) (f : Core → Core) : (s.modCore n f).holders = s.holders := rfl
@[simp] theorem State.modCore_paddocks (n : Nat) (f : Core → Core) : (s.modCore n f).paddocks = s.paddocks := rfl
@[simp] theorem State.modCore_ttbase (n : Nat) (f : Core → Core) : (s.modCore n f).ttbase = s.ttbase := rfl
@[simp] theorem State.modCore_ttSlots (n : Nat) (f : Core → Core) : (s.modCore n f).ttSlots = s.ttSlots := rfl
@[simp] theorem State.modCore_vdsel (n : Nat) (f : Core → Core) : (s.modCore n f).vdsel = s.vdsel := rfl
@[simp] theorem State.modCore_ctxsel (n : Nat) (f : Core → Core) : (s.modCore n f).ctxsel = s.ctxsel := rfl
@[simp] theorem State.modCore_hypq (n : Nat) (f : Core → Core) : (s.modCore n f).hypq = s.hypq := rfl
@[simp] theorem State.modCore_ltovf (n : Nat) (f : Core → Core) : (s.modCore n f).ltovf = s.ltovf := rfl
@[simp] theorem State.modCore_overflow (n : Nat) (f : Core → Core) : (s.modCore n f).overflow = s.overflow := rfl
@[simp] theorem State.modCore_slotHolds (n : Nat) (f : Core → Core) : (s.modCore n f).slotHolds = s.slotHolds := rfl
@[simp] theorem State.modCore_shed (n : Nat) (f : Core → Core) : (s.modCore n f).shed = s.shed := rfl
@[simp] theorem State.modCore_stable (n : Nat) (f : Core → Core) : (s.modCore n f).stable = s.stable := rfl
@[simp] theorem State.modCore_frozen (n : Nat) (f : Core → Core) : (s.modCore n f).frozen = s.frozen := rfl
@[simp] theorem State.modCore_shedCount (n : Nat) (f : Core → Core) : (s.modCore n f).shedCount = s.shedCount := rfl
@[simp] theorem State.modCore_shedGap (n : Nat) (f : Core → Core) : (s.modCore n f).shedGap = s.shedGap := rfl
@[simp] theorem State.modCore_shedStart (n : Nat) (f : Core → Core) : (s.modCore n f).shedStart = s.shedStart := rfl
@[simp] theorem State.modCore_shedAt (n : Nat) (f : Core → Core) : (s.modCore n f).shedAt = s.shedAt := rfl
@[simp] theorem State.modCore_bootStage (n : Nat) (f : Core → Core) : (s.modCore n f).bootStage = s.bootStage := rfl
@[simp] theorem State.modCore_bootPhase (n : Nat) (f : Core → Core) : (s.modCore n f).bootPhase = s.bootPhase := rfl
@[simp] theorem State.modCore_boots (n : Nat) (f : Core → Core) : (s.modCore n f).boots = s.boots := rfl
@[simp] theorem State.modCore_meas (n : Nat) (f : Core → Core) : (s.modCore n f).meas = s.meas := rfl
@[simp] theorem State.modCore_hbmstat (n : Nat) (f : Core → Core) : (s.modCore n f).hbmstat = s.hbmstat := rfl
@[simp] theorem State.modCore_attdst (n : Nat) (f : Core → Core) : (s.modCore n f).attdst = s.attdst := rfl
@[simp] theorem State.modCore_attBusy (n : Nat) (f : Core → Core) : (s.modCore n f).attBusy = s.attBusy := rfl
@[simp] theorem State.modCore_pwrAvg (n : Nat) (f : Core → Core) : (s.modCore n f).pwrAvg = s.pwrAvg := rfl
@[simp] theorem State.modCore_pwrCap (n : Nat) (f : Core → Core) : (s.modCore n f).pwrCap = s.pwrCap := rfl
@[simp] theorem State.modCore_msix (n : Nat) (f : Core → Core) : (s.modCore n f).msix = s.msix := rfl
@[simp] theorem State.modCore_armed (n : Nat) (f : Core → Core) : (s.modCore n f).armed = s.armed := rfl
@[simp] theorem State.modCore_releases (n : Nat) (f : Core → Core) : (s.modCore n f).releases = s.releases := rfl
@[simp] theorem State.modCore_posts (n : Nat) (f : Core → Core) : (s.modCore n f).posts = s.posts := rfl
@[simp] theorem State.modCore_mchecks (n : Nat) (f : Core → Core) : (s.modCore n f).mchecks = s.mchecks := rfl

/-! ### modDev -/

@[simp] theorem State.modDev_station (n : Nat) (f : Device → Device) : (s.modDev n f).station = s.station := rfl
@[simp] theorem State.modDev_phase (n : Nat) (f : Device → Device) : (s.modDev n f).phase = s.phase := rfl
@[simp] theorem State.modDev_todo (n : Nat) (f : Device → Device) : (s.modDev n f).todo = s.todo := rfl
@[simp] theorem State.modDev_pass (n : Nat) (f : Device → Device) : (s.modDev n f).pass = s.pass := rfl
@[simp] theorem State.modDev_cur (n : Nat) (f : Device → Device) : (s.modDev n f).cur = s.cur := rfl
@[simp] theorem State.modDev_nextId (n : Nat) (f : Device → Device) : (s.modDev n f).nextId = s.nextId := rfl
@[simp] theorem State.modDev_freeCtr (n : Nat) (f : Device → Device) : (s.modDev n f).freeCtr = s.freeCtr := rfl
@[simp] theorem State.modDev_inputs (n : Nat) (f : Device → Device) : (s.modDev n f).inputs = s.inputs := rfl
@[simp] theorem State.modDev_mem (n : Nat) (f : Device → Device) : (s.modDev n f).mem = s.mem := rfl
@[simp] theorem State.modDev_poison (n : Nat) (f : Device → Device) : (s.modDev n f).poison = s.poison := rfl
@[simp] theorem State.modDev_softErrs (n : Nat) (f : Device → Device) : (s.modDev n f).softErrs = s.softErrs := rfl
@[simp] theorem State.modDev_flips (n : Nat) (f : Device → Device) : (s.modDev n f).flips = s.flips := rfl
@[simp] theorem State.modDev_cores (n : Nat) (f : Device → Device) : (s.modDev n f).cores = s.cores := rfl
@[simp] theorem State.modDev_ctxs (n : Nat) (f : Device → Device) : (s.modDev n f).ctxs = s.ctxs := rfl
@[simp] theorem State.modDev_seen (n : Nat) (f : Device → Device) : (s.modDev n f).seen = s.seen := rfl
@[simp] theorem State.modDev_prior (n : Nat) (f : Device → Device) : (s.modDev n f).prior = s.prior := rfl
@[simp] theorem State.modDev_priorReg (n : Nat) (f : Device → Device) : (s.modDev n f).priorReg = s.priorReg := rfl
@[simp] theorem State.modDev_accesses (n : Nat) (f : Device → Device) : (s.modDev n f).accesses = s.accesses := rfl
@[simp] theorem State.modDev_cmds (n : Nat) (f : Device → Device) : (s.modDev n f).cmds = s.cmds := rfl
@[simp] theorem State.modDev_xfers (n : Nat) (f : Device → Device) : (s.modDev n f).xfers = s.xfers := rfl
@[simp] theorem State.modDev_tcache (n : Nat) (f : Device → Device) : (s.modDev n f).tcache = s.tcache := rfl
@[simp] theorem State.modDev_walks (n : Nat) (f : Device → Device) : (s.modDev n f).walks = s.walks := rfl
@[simp] theorem State.modDev_bcache (n : Nat) (f : Device → Device) : (s.modDev n f).bcache = s.bcache := rfl
@[simp] theorem State.modDev_tier (n : Nat) (f : Device → Device) : (s.modDev n f).tier = s.tier := rfl
@[simp] theorem State.modDev_migctl (n : Nat) (f : Device → Device) : (s.modDev n f).migctl = s.migctl := rfl
@[simp] theorem State.modDev_moves (n : Nat) (f : Device → Device) : (s.modDev n f).moves = s.moves := rfl
@[simp] theorem State.modDev_bwUsed (n : Nat) (f : Device → Device) : (s.modDev n f).bwUsed = s.bwUsed := rfl
@[simp] theorem State.modDev_rows (n : Nat) (f : Device → Device) : (s.modDev n f).rows = s.rows := rfl
@[simp] theorem State.modDev_returning (n : Nat) (f : Device → Device) : (s.modDev n f).returning = s.returning := rfl
@[simp] theorem State.modDev_scrubs (n : Nat) (f : Device → Device) : (s.modDev n f).scrubs = s.scrubs := rfl
@[simp] theorem State.modDev_poolHbm (n : Nat) (f : Device → Device) : (s.modDev n f).poolHbm = s.poolHbm := rfl
@[simp] theorem State.modDev_poolLoft (n : Nat) (f : Device → Device) : (s.modDev n f).poolLoft = s.poolLoft := rfl
@[simp] theorem State.modDev_nextRoot (n : Nat) (f : Device → Device) : (s.modDev n f).nextRoot = s.nextRoot := rfl
@[simp] theorem State.modDev_mid (n : Nat) (f : Device → Device) : (s.modDev n f).mid = s.mid := rfl
@[simp] theorem State.modDev_sends (n : Nat) (f : Device → Device) : (s.modDev n f).sends = s.sends := rfl
@[simp] theorem State.modDev_recvs (n : Nat) (f : Device → Device) : (s.modDev n f).recvs = s.recvs := rfl
@[simp] theorem State.modDev_msgs (n : Nat) (f : Device → Device) : (s.modDev n f).msgs = s.msgs := rfl
@[simp] theorem State.modDev_retired (n : Nat) (f : Device → Device) : (s.modDev n f).retired = s.retired := rfl
@[simp] theorem State.modDev_outbox (n : Nat) (f : Device → Device) : (s.modDev n f).outbox = s.outbox := rfl
@[simp] theorem State.modDev_reductions (n : Nat) (f : Device → Device) : (s.modDev n f).reductions = s.reductions := rfl
@[simp] theorem State.modDev_results (n : Nat) (f : Device → Device) : (s.modDev n f).results = s.results := rfl
@[simp] theorem State.modDev_switchMid (n : Nat) (f : Device → Device) : (s.modDev n f).switchMid = s.switchMid := rfl
@[simp] theorem State.modDev_coderate (n : Nat) (f : Device → Device) : (s.modDev n f).coderate = s.coderate := rfl
@[simp] theorem State.modDev_losstmo (n : Nat) (f : Device → Device) : (s.modDev n f).losstmo = s.losstmo := rfl
@[simp] theorem State.modDev_fabLate (n : Nat) (f : Device → Device) : (s.modDev n f).fabLate = s.fabLate := rfl
@[simp] theorem State.modDev_fabYard (n : Nat) (f : Device → Device) : (s.modDev n f).fabYard = s.fabYard := rfl
@[simp] theorem State.modDev_fabBad (n : Nat) (f : Device → Device) : (s.modDev n f).fabBad = s.fabBad := rfl
@[simp] theorem State.modDev_pkgid (n : Nat) (f : Device → Device) : (s.modDev n f).pkgid = s.pkgid := rfl
@[simp] theorem State.modDev_gredCount (n : Nat) (f : Device → Device) : (s.modDev n f).gredCount = s.gredCount := rfl
@[simp] theorem State.modDev_launches (n : Nat) (f : Device → Device) : (s.modDev n f).launches = s.launches := rfl
@[simp] theorem State.modDev_holders (n : Nat) (f : Device → Device) : (s.modDev n f).holders = s.holders := rfl
@[simp] theorem State.modDev_paddocks (n : Nat) (f : Device → Device) : (s.modDev n f).paddocks = s.paddocks := rfl
@[simp] theorem State.modDev_ttbase (n : Nat) (f : Device → Device) : (s.modDev n f).ttbase = s.ttbase := rfl
@[simp] theorem State.modDev_ttSlots (n : Nat) (f : Device → Device) : (s.modDev n f).ttSlots = s.ttSlots := rfl
@[simp] theorem State.modDev_vdsel (n : Nat) (f : Device → Device) : (s.modDev n f).vdsel = s.vdsel := rfl
@[simp] theorem State.modDev_ctxsel (n : Nat) (f : Device → Device) : (s.modDev n f).ctxsel = s.ctxsel := rfl
@[simp] theorem State.modDev_hypq (n : Nat) (f : Device → Device) : (s.modDev n f).hypq = s.hypq := rfl
@[simp] theorem State.modDev_ltovf (n : Nat) (f : Device → Device) : (s.modDev n f).ltovf = s.ltovf := rfl
@[simp] theorem State.modDev_overflow (n : Nat) (f : Device → Device) : (s.modDev n f).overflow = s.overflow := rfl
@[simp] theorem State.modDev_slotHolds (n : Nat) (f : Device → Device) : (s.modDev n f).slotHolds = s.slotHolds := rfl
@[simp] theorem State.modDev_shed (n : Nat) (f : Device → Device) : (s.modDev n f).shed = s.shed := rfl
@[simp] theorem State.modDev_stable (n : Nat) (f : Device → Device) : (s.modDev n f).stable = s.stable := rfl
@[simp] theorem State.modDev_frozen (n : Nat) (f : Device → Device) : (s.modDev n f).frozen = s.frozen := rfl
@[simp] theorem State.modDev_shedCount (n : Nat) (f : Device → Device) : (s.modDev n f).shedCount = s.shedCount := rfl
@[simp] theorem State.modDev_shedGap (n : Nat) (f : Device → Device) : (s.modDev n f).shedGap = s.shedGap := rfl
@[simp] theorem State.modDev_shedStart (n : Nat) (f : Device → Device) : (s.modDev n f).shedStart = s.shedStart := rfl
@[simp] theorem State.modDev_shedAt (n : Nat) (f : Device → Device) : (s.modDev n f).shedAt = s.shedAt := rfl
@[simp] theorem State.modDev_bootStage (n : Nat) (f : Device → Device) : (s.modDev n f).bootStage = s.bootStage := rfl
@[simp] theorem State.modDev_bootPhase (n : Nat) (f : Device → Device) : (s.modDev n f).bootPhase = s.bootPhase := rfl
@[simp] theorem State.modDev_boots (n : Nat) (f : Device → Device) : (s.modDev n f).boots = s.boots := rfl
@[simp] theorem State.modDev_meas (n : Nat) (f : Device → Device) : (s.modDev n f).meas = s.meas := rfl
@[simp] theorem State.modDev_hbmstat (n : Nat) (f : Device → Device) : (s.modDev n f).hbmstat = s.hbmstat := rfl
@[simp] theorem State.modDev_attdst (n : Nat) (f : Device → Device) : (s.modDev n f).attdst = s.attdst := rfl
@[simp] theorem State.modDev_attBusy (n : Nat) (f : Device → Device) : (s.modDev n f).attBusy = s.attBusy := rfl
@[simp] theorem State.modDev_pwrAvg (n : Nat) (f : Device → Device) : (s.modDev n f).pwrAvg = s.pwrAvg := rfl
@[simp] theorem State.modDev_pwrCap (n : Nat) (f : Device → Device) : (s.modDev n f).pwrCap = s.pwrCap := rfl
@[simp] theorem State.modDev_msix (n : Nat) (f : Device → Device) : (s.modDev n f).msix = s.msix := rfl
@[simp] theorem State.modDev_armed (n : Nat) (f : Device → Device) : (s.modDev n f).armed = s.armed := rfl
@[simp] theorem State.modDev_releases (n : Nat) (f : Device → Device) : (s.modDev n f).releases = s.releases := rfl
@[simp] theorem State.modDev_posts (n : Nat) (f : Device → Device) : (s.modDev n f).posts = s.posts := rfl
@[simp] theorem State.modDev_mchecks (n : Nat) (f : Device → Device) : (s.modDev n f).mchecks = s.mchecks := rfl

/-! ### sched -/

@[simp] theorem State.sched_station (ps : List Pend) : (s.sched ps).station = s.station := rfl
@[simp] theorem State.sched_phase (ps : List Pend) : (s.sched ps).phase = s.phase := rfl
@[simp] theorem State.sched_todo (ps : List Pend) : (s.sched ps).todo = s.todo := rfl
@[simp] theorem State.sched_pass (ps : List Pend) : (s.sched ps).pass = s.pass := rfl
@[simp] theorem State.sched_cur (ps : List Pend) : (s.sched ps).cur = s.cur := rfl
@[simp] theorem State.sched_nextId (ps : List Pend) : (s.sched ps).nextId = s.nextId := rfl
@[simp] theorem State.sched_freeCtr (ps : List Pend) : (s.sched ps).freeCtr = s.freeCtr := rfl
@[simp] theorem State.sched_inputs (ps : List Pend) : (s.sched ps).inputs = s.inputs := rfl
@[simp] theorem State.sched_mem (ps : List Pend) : (s.sched ps).mem = s.mem := rfl
@[simp] theorem State.sched_poison (ps : List Pend) : (s.sched ps).poison = s.poison := rfl
@[simp] theorem State.sched_softErrs (ps : List Pend) : (s.sched ps).softErrs = s.softErrs := rfl
@[simp] theorem State.sched_flips (ps : List Pend) : (s.sched ps).flips = s.flips := rfl
@[simp] theorem State.sched_devs (ps : List Pend) : (s.sched ps).devs = s.devs := rfl
@[simp] theorem State.sched_cores (ps : List Pend) : (s.sched ps).cores = s.cores := rfl
@[simp] theorem State.sched_seen (ps : List Pend) : (s.sched ps).seen = s.seen := rfl
@[simp] theorem State.sched_prior (ps : List Pend) : (s.sched ps).prior = s.prior := rfl
@[simp] theorem State.sched_priorReg (ps : List Pend) : (s.sched ps).priorReg = s.priorReg := rfl
@[simp] theorem State.sched_accesses (ps : List Pend) : (s.sched ps).accesses = s.accesses := rfl
@[simp] theorem State.sched_cmds (ps : List Pend) : (s.sched ps).cmds = s.cmds := rfl
@[simp] theorem State.sched_xfers (ps : List Pend) : (s.sched ps).xfers = s.xfers := rfl
@[simp] theorem State.sched_tcache (ps : List Pend) : (s.sched ps).tcache = s.tcache := rfl
@[simp] theorem State.sched_walks (ps : List Pend) : (s.sched ps).walks = s.walks := rfl
@[simp] theorem State.sched_bcache (ps : List Pend) : (s.sched ps).bcache = s.bcache := rfl
@[simp] theorem State.sched_tier (ps : List Pend) : (s.sched ps).tier = s.tier := rfl
@[simp] theorem State.sched_migctl (ps : List Pend) : (s.sched ps).migctl = s.migctl := rfl
@[simp] theorem State.sched_moves (ps : List Pend) : (s.sched ps).moves = s.moves := rfl
@[simp] theorem State.sched_bwUsed (ps : List Pend) : (s.sched ps).bwUsed = s.bwUsed := rfl
@[simp] theorem State.sched_rows (ps : List Pend) : (s.sched ps).rows = s.rows := rfl
@[simp] theorem State.sched_returning (ps : List Pend) : (s.sched ps).returning = s.returning := rfl
@[simp] theorem State.sched_scrubs (ps : List Pend) : (s.sched ps).scrubs = s.scrubs := rfl
@[simp] theorem State.sched_poolHbm (ps : List Pend) : (s.sched ps).poolHbm = s.poolHbm := rfl
@[simp] theorem State.sched_poolLoft (ps : List Pend) : (s.sched ps).poolLoft = s.poolLoft := rfl
@[simp] theorem State.sched_nextRoot (ps : List Pend) : (s.sched ps).nextRoot = s.nextRoot := rfl
@[simp] theorem State.sched_mid (ps : List Pend) : (s.sched ps).mid = s.mid := rfl
@[simp] theorem State.sched_sends (ps : List Pend) : (s.sched ps).sends = s.sends := rfl
@[simp] theorem State.sched_recvs (ps : List Pend) : (s.sched ps).recvs = s.recvs := rfl
@[simp] theorem State.sched_msgs (ps : List Pend) : (s.sched ps).msgs = s.msgs := rfl
@[simp] theorem State.sched_retired (ps : List Pend) : (s.sched ps).retired = s.retired := rfl
@[simp] theorem State.sched_outbox (ps : List Pend) : (s.sched ps).outbox = s.outbox := rfl
@[simp] theorem State.sched_reductions (ps : List Pend) : (s.sched ps).reductions = s.reductions := rfl
@[simp] theorem State.sched_results (ps : List Pend) : (s.sched ps).results = s.results := rfl
@[simp] theorem State.sched_switchMid (ps : List Pend) : (s.sched ps).switchMid = s.switchMid := rfl
@[simp] theorem State.sched_coderate (ps : List Pend) : (s.sched ps).coderate = s.coderate := rfl
@[simp] theorem State.sched_losstmo (ps : List Pend) : (s.sched ps).losstmo = s.losstmo := rfl
@[simp] theorem State.sched_fabLate (ps : List Pend) : (s.sched ps).fabLate = s.fabLate := rfl
@[simp] theorem State.sched_fabYard (ps : List Pend) : (s.sched ps).fabYard = s.fabYard := rfl
@[simp] theorem State.sched_fabBad (ps : List Pend) : (s.sched ps).fabBad = s.fabBad := rfl
@[simp] theorem State.sched_pkgid (ps : List Pend) : (s.sched ps).pkgid = s.pkgid := rfl
@[simp] theorem State.sched_gredCount (ps : List Pend) : (s.sched ps).gredCount = s.gredCount := rfl
@[simp] theorem State.sched_launches (ps : List Pend) : (s.sched ps).launches = s.launches := rfl
@[simp] theorem State.sched_holders (ps : List Pend) : (s.sched ps).holders = s.holders := rfl
@[simp] theorem State.sched_paddocks (ps : List Pend) : (s.sched ps).paddocks = s.paddocks := rfl
@[simp] theorem State.sched_ttbase (ps : List Pend) : (s.sched ps).ttbase = s.ttbase := rfl
@[simp] theorem State.sched_ttSlots (ps : List Pend) : (s.sched ps).ttSlots = s.ttSlots := rfl
@[simp] theorem State.sched_vdsel (ps : List Pend) : (s.sched ps).vdsel = s.vdsel := rfl
@[simp] theorem State.sched_ctxsel (ps : List Pend) : (s.sched ps).ctxsel = s.ctxsel := rfl
@[simp] theorem State.sched_hypq (ps : List Pend) : (s.sched ps).hypq = s.hypq := rfl
@[simp] theorem State.sched_ltovf (ps : List Pend) : (s.sched ps).ltovf = s.ltovf := rfl
@[simp] theorem State.sched_overflow (ps : List Pend) : (s.sched ps).overflow = s.overflow := rfl
@[simp] theorem State.sched_slotHolds (ps : List Pend) : (s.sched ps).slotHolds = s.slotHolds := rfl
@[simp] theorem State.sched_shed (ps : List Pend) : (s.sched ps).shed = s.shed := rfl
@[simp] theorem State.sched_stable (ps : List Pend) : (s.sched ps).stable = s.stable := rfl
@[simp] theorem State.sched_frozen (ps : List Pend) : (s.sched ps).frozen = s.frozen := rfl
@[simp] theorem State.sched_shedCount (ps : List Pend) : (s.sched ps).shedCount = s.shedCount := rfl
@[simp] theorem State.sched_shedGap (ps : List Pend) : (s.sched ps).shedGap = s.shedGap := rfl
@[simp] theorem State.sched_shedStart (ps : List Pend) : (s.sched ps).shedStart = s.shedStart := rfl
@[simp] theorem State.sched_shedAt (ps : List Pend) : (s.sched ps).shedAt = s.shedAt := rfl
@[simp] theorem State.sched_bootStage (ps : List Pend) : (s.sched ps).bootStage = s.bootStage := rfl
@[simp] theorem State.sched_bootPhase (ps : List Pend) : (s.sched ps).bootPhase = s.bootPhase := rfl
@[simp] theorem State.sched_boots (ps : List Pend) : (s.sched ps).boots = s.boots := rfl
@[simp] theorem State.sched_meas (ps : List Pend) : (s.sched ps).meas = s.meas := rfl
@[simp] theorem State.sched_hbmstat (ps : List Pend) : (s.sched ps).hbmstat = s.hbmstat := rfl
@[simp] theorem State.sched_attdst (ps : List Pend) : (s.sched ps).attdst = s.attdst := rfl
@[simp] theorem State.sched_attBusy (ps : List Pend) : (s.sched ps).attBusy = s.attBusy := rfl
@[simp] theorem State.sched_pwrAvg (ps : List Pend) : (s.sched ps).pwrAvg = s.pwrAvg := rfl
@[simp] theorem State.sched_pwrCap (ps : List Pend) : (s.sched ps).pwrCap = s.pwrCap := rfl
@[simp] theorem State.sched_msix (ps : List Pend) : (s.sched ps).msix = s.msix := rfl
@[simp] theorem State.sched_armed (ps : List Pend) : (s.sched ps).armed = s.armed := rfl
@[simp] theorem State.sched_releases (ps : List Pend) : (s.sched ps).releases = s.releases := rfl
@[simp] theorem State.sched_posts (ps : List Pend) : (s.sched ps).posts = s.posts := rfl
@[simp] theorem State.sched_mchecks (ps : List Pend) : (s.sched ps).mchecks = s.mchecks := rfl

/-! ### Reading after an update -/

@[simp] theorem State.ctx_setCtx_self (key : Nat) (c : Ctx) : (s.setCtx key c).ctx key = c := FMap.get_set_self _ _ _ _
theorem State.ctx_setCtx (key q : Nat) (c : Ctx) : (s.setCtx key c).ctx q = if q = key then c else s.ctx q :=
  FMap.get_set _ _ _ _ _
theorem State.ctx_setCtx_ne {key q : Nat} (c : Ctx) (h : q ≠ key) : (s.setCtx key c).ctx q = s.ctx q :=
  FMap.get_set_ne _ _ _ h
@[simp] theorem State.core_setCore_self (n : Nat) (c : Core) : (s.setCore n c).core n = c := FMap.get_set_self _ _ _ _
theorem State.core_setCore (n q : Nat) (c : Core) : (s.setCore n c).core q = if q = n then c else s.core q :=
  FMap.get_set _ _ _ _ _
theorem State.core_setCore_ne {n q : Nat} (c : Core) (h : q ≠ n) : (s.setCore n c).core q = s.core q :=
  FMap.get_set_ne _ _ _ h
@[simp] theorem State.dev_setDev_self (n : Nat) (d : Device) : (s.setDev n d).dev n = d := FMap.get_set_self _ _ _ _
theorem State.dev_setDev (n q : Nat) (d : Device) : (s.setDev n d).dev q = if q = n then d else s.dev q :=
  FMap.get_set _ _ _ _ _
theorem State.dev_setDev_ne {n q : Nat} (d : Device) (h : q ≠ n) : (s.setDev n d).dev q = s.dev q :=
  FMap.get_set_ne _ _ _ h
@[simp] theorem State.cmd_setCmd_self (c : Cmd) : (s.setCmd c).cmd c.id = some c :=
  FMap.get_set_self (none : Option Cmd) s.cmds c.id (some c)
@[simp] theorem State.cmd_dropCmd_self (id : Nat) : (s.dropCmd id).cmd id = none :=
  FMap.get_set_self (none : Option Cmd) s.cmds id none
@[simp] theorem State.launch_setLaunch_self (l : Launch) : (s.setLaunch l).launch l.id = some l :=
  FMap.get_set_self (none : Option Launch) s.launches l.id (some l)
@[simp] theorem Device.stall_setStall_self (d : Device) (id : Nat) (x : Stall) : (d.setStall id x).stall id = x :=
  FMap.get_set_self _ _ _ _
theorem Device.stall_setStall_ne (d : Device) {id q : Nat} (x : Stall) (h : q ≠ id) : (d.setStall id x).stall q = d.stall q :=
  FMap.get_set_ne _ _ _ h
@[simp] theorem State.ctx_modCtx_self (key : Nat) (f : Ctx → Ctx) : (s.modCtx key f).ctx key = f (s.ctx key) :=
  FMap.get_set_self _ _ _ _
theorem State.ctx_modCtx_ne {key q : Nat} (f : Ctx → Ctx) (h : q ≠ key) : (s.modCtx key f).ctx q = s.ctx q :=
  FMap.get_set_ne _ _ _ h
@[simp] theorem State.core_modCore_self (n : Nat) (f : Core → Core) : (s.modCore n f).core n = f (s.core n) :=
  FMap.get_set_self _ _ _ _
theorem State.core_modCore_ne {n q : Nat} (f : Core → Core) (h : q ≠ n) : (s.modCore n f).core q = s.core q :=
  FMap.get_set_ne _ _ _ h
@[simp] theorem State.dev_modDev_self (n : Nat) (f : Device → Device) : (s.modDev n f).dev n = f (s.dev n) :=
  FMap.get_set_self _ _ _ _
theorem State.dev_modDev_ne {n q : Nat} (f : Device → Device) (h : q ≠ n) : (s.modDev n f).dev q = s.dev q :=
  FMap.get_set_ne _ _ _ h
@[simp] theorem State.core_setCtx (key n : Nat) (c : Ctx) : (s.setCtx key c).core n = s.core n := rfl
@[simp] theorem State.dev_setCtx (key n : Nat) (c : Ctx) : (s.setCtx key c).dev n = s.dev n := rfl
@[simp] theorem State.ctx_setCore (key n : Nat) (c : Core) : (s.setCore n c).ctx key = s.ctx key := rfl
@[simp] theorem State.dev_setCore (key n : Nat) (c : Core) : (s.setCore n c).dev key = s.dev key := rfl
@[simp] theorem State.ctx_setDev (key n : Nat) (d : Device) : (s.setDev n d).ctx key = s.ctx key := rfl
@[simp] theorem State.core_setDev (key n : Nat) (d : Device) : (s.setDev n d).core key = s.core key := rfl
@[simp] theorem State.core_modCtx (key n : Nat) (f : Ctx → Ctx) : (s.modCtx key f).core n = s.core n := rfl
@[simp] theorem State.dev_modCtx (key n : Nat) (f : Ctx → Ctx) : (s.modCtx key f).dev n = s.dev n := rfl
@[simp] theorem State.ctx_modCore (key n : Nat) (f : Core → Core) : (s.modCore n f).ctx key = s.ctx key := rfl
@[simp] theorem State.dev_modCore (key n : Nat) (f : Core → Core) : (s.modCore n f).dev key = s.dev key := rfl
@[simp] theorem State.ctx_modDev (key n : Nat) (f : Device → Device) : (s.modDev n f).ctx key = s.ctx key := rfl
@[simp] theorem State.core_modDev (key n : Nat) (f : Device → Device) : (s.modDev n f).core key = s.core key := rfl
/-- The issuing context after writes are scheduled: only its pending writes grow. -/
@[simp] theorem State.me_sched (ps : List Pend) : (s.sched ps).me = s.me.addPend ps := FMap.get_set_self _ _ _ _
/-- Every other context is unchanged by it. -/
theorem State.ctx_sched_ne (ps : List Pend) {q : Nat} (h : q ≠ s.cur) : (s.sched ps).ctx q = s.ctx q :=
  FMap.get_set_ne _ _ _ h
@[simp] theorem State.core_sched (ps : List Pend) (n : Nat) : (s.sched ps).core n = s.core n := rfl
@[simp] theorem State.dev_sched (ps : List Pend) (n : Nat) : (s.sched ps).dev n = s.dev n := rfl

end Sys2Proof.Machine
end

