-- ==== Sys2Proof/Laws/Landing.lean ====
section
/-!
SUPPORT. Sys2Proof/Laws/Landing.lean: what a register reads as when the writes due at a bundle have landed (R133, R135).
-/
namespace Sys2Proof.Machine

/-! ### Masked writes -/

/-- A bit after a masked write. -/
theorem testBit_mergeNat (old mask val i : Nat) :
    (mergeNat old mask val).testBit i = if mask.testBit i then val.testBit i else old.testBit i := by
  have h : (mergeNat old mask val) = old ^^^ ((old ^^^ val) &&& mask) := rfl
  rw [h, Nat.testBit_xor, Nat.testBit_and, Nat.testBit_xor]
  cases mask.testBit i <;> cases old.testBit i <;> cases val.testBit i <;> rfl

/-- A write under the full mask of n bits replaces them. -/
theorem ofNat_mergeNat_ones (n old val : Nat) : BitVec.ofNat n (mergeNat old (ones n) val) = BitVec.ofNat n val := by
  apply BitVec.eq_of_getLsbD_eq
  intro i hi
  simp only [BitVec.getLsbD_ofNat, hi, decide_true, Bool.true_and, testBit_mergeNat]
  have : (ones n).testBit i = true := by simp [ones, Nat.testBit_two_pow_sub_one, hi]
  simp [this]

/-! ### The order of landing -/

theorem mem_insertRank (p q : Pend) (l : List Pend) : q ∈ insertRank p l ↔ q = p ∨ q ∈ l := by
  induction l with
  | nil => simp [insertRank]
  | cons r rs ih =>
    unfold insertRank
    split
    · simp only [List.mem_cons, ih]; constructor
      · rintro (h | h | h) <;> simp [h]
      · rintro (h | h | h) <;> simp [h]
    · simp [List.mem_cons]

/-- The writes that land are those that prevail, in some order. -/
theorem mem_landingOrder (ps : List Pend) (q : Pend) : q ∈ landingOrder ps ↔ q ∈ ps ∧ prevails ps q = true := by
  unfold landingOrder
  rw [← List.mem_filter]
  generalize ps.filter (prevails ps) = l
  suffices h : ∀ acc : List Pend, q ∈ l.foldl (fun acc p => insertRank p acc) acc ↔ q ∈ acc ∨ q ∈ l by
    simpa using h []
  induction l with
  | nil => intro acc; simp
  | cons r rs ih =>
    intro acc
    rw [List.foldl_cons, ih, mem_insertRank, List.mem_cons]
    constructor
    · rintro ((h | h) | h) <;> simp [h]
    · rintro (h | h | h) <;> simp [h]

/-- What reads the same after every landing but that of p reads, after a list in which p stands, as p makes it. -/
theorem foldl_land {α : Type} (V : State → α) (key : Nat) (p : Pend) (T : Tgt) (val : α) (l : List Pend) (s : State)
    (hother : ∀ s q, q.tgt ≠ T → V (State.landOne key s q) = V s) (hp : ∀ s, V (State.landOne key s p) = val)
    (hl : ∀ q ∈ l, q.tgt = T → q = p) (hm : p ∈ l) : V (l.foldl (State.landOne key) s) = val := by
  have keep : ∀ (l : List Pend) (s : State), (∀ q ∈ l, q.tgt = T → q = p) → V s = val →
      V (l.foldl (State.landOne key) s) = val := by
    intro l
    induction l with
    | nil => intro s _ h; exact h
    | cons q qs ih =>
      intro s hq h
      refine ih _ (fun r hr => hq r (List.mem_cons_of_mem _ hr)) ?_
      by_cases hT : q.tgt = T
      · rw [hq q (List.mem_cons_self ..) hT]; exact hp s
      · rw [hother s q hT, h]
  induction l generalizing s with
  | nil => cases hm
  | cons q qs ih =>
    rw [List.foldl_cons]
    rcases List.mem_cons.1 hm with rfl | hm'
    · exact keep qs _ (fun r hr => hl r (List.mem_cons_of_mem _ hr)) (hp s)
    · exact ih _ (fun r hr => hl r (List.mem_cons_of_mem _ hr)) hm'

/-- What no landing of the list changes. -/
theorem foldl_land_keep {α : Type} (V : State → α) (key : Nat) (T : Tgt) (l : List Pend) (s : State)
    (hother : ∀ s q, q.tgt ≠ T → V (State.landOne key s q) = V s) (hl : ∀ q ∈ l, q.tgt ≠ T) :
    V (l.foldl (State.landOne key) s) = V s := by
  induction l generalizing s with
  | nil => rfl
  | cons q qs ih =>
    rw [List.foldl_cons, ih _ (fun r hr => hl r (List.mem_cons_of_mem _ hr)), hother s q (hl q (List.mem_cons_self ..))]

/-! ### What a landing leaves alone -/

/-- No `csrw` reaches x. -/
@[simp] theorem Ctx.csrLand_x (c : Ctx) (n v : Nat) : (c.csrLand n v).x = c.x := by
  unfold Ctx.csrLand
  simp only [apply_ite Ctx.x, ite_self]

/-- No `csrw` reaches v. -/
@[simp] theorem Ctx.csrLand_v (c : Ctx) (n v : Nat) : (c.csrLand n v).v = c.v := by
  unfold Ctx.csrLand
  simp only [apply_ite Ctx.v, ite_self]

/-- No `csrw` reaches k. -/
@[simp] theorem Ctx.csrLand_k (c : Ctx) (n v : Nat) : (c.csrLand n v).k = c.k := by
  unfold Ctx.csrLand
  simp only [apply_ite Ctx.k, ite_self]

/-- No `csrw` reaches c. -/
@[simp] theorem Ctx.csrLand_c (c : Ctx) (n v : Nat) : (c.csrLand n v).c = c.c := by
  unfold Ctx.csrLand
  simp only [apply_ite Ctx.c, ite_self]

/-- No `csrw` reaches t. -/
@[simp] theorem Ctx.csrLand_t (c : Ctx) (n v : Nat) : (c.csrLand n v).t = c.t := by
  unfold Ctx.csrLand
  simp only [apply_ite Ctx.t, ite_self]

/-- No `csrw` reaches ds. -/
@[simp] theorem Ctx.csrLand_ds (c : Ctx) (n v : Nat) : (c.csrLand n v).ds = c.ds := by
  unfold Ctx.csrLand
  simp only [apply_ite Ctx.ds, ite_self]

/-- No `csrw` reaches gs. -/
@[simp] theorem Ctx.csrLand_gs (c : Ctx) (n v : Nat) : (c.csrLand n v).gs = c.gs := by
  unfold Ctx.csrLand
  simp only [apply_ite Ctx.gs, ite_self]

/-- No `csrw` reaches pS0. -/
@[simp] theorem Ctx.csrLand_pS0 (c : Ctx) (n v : Nat) : (c.csrLand n v).pS0 = c.pS0 := by
  unfold Ctx.csrLand
  simp only [apply_ite Ctx.pS0, ite_self]

/-- No `csrw` reaches pS1. -/
@[simp] theorem Ctx.csrLand_pS1 (c : Ctx) (n v : Nat) : (c.csrLand n v).pS1 = c.pS1 := by
  unfold Ctx.csrLand
  simp only [apply_ite Ctx.pS1, ite_self]

/-- No `csrw` reaches pA. -/
@[simp] theorem Ctx.csrLand_pA (c : Ctx) (n v : Nat) : (c.csrLand n v).pA = c.pA := by
  unfold Ctx.csrLand
  simp only [apply_ite Ctx.pA, ite_self]

/-- No `csrw` reaches pV0. -/
@[simp] theorem Ctx.csrLand_pV0 (c : Ctx) (n v : Nat) : (c.csrLand n v).pV0 = c.pV0 := by
  unfold Ctx.csrLand
  simp only [apply_ite Ctx.pV0, ite_self]

/-- No `csrw` reaches pV1. -/
@[simp] theorem Ctx.csrLand_pV1 (c : Ctx) (n v : Nat) : (c.csrLand n v).pV1 = c.pV1 := by
  unfold Ctx.csrLand
  simp only [apply_ite Ctx.pV1, ite_self]

/-- No `csrw` reaches pV2. -/
@[simp] theorem Ctx.csrLand_pV2 (c : Ctx) (n v : Nat) : (c.csrLand n v).pV2 = c.pV2 := by
  unfold Ctx.csrLand
  simp only [apply_ite Ctx.pV2, ite_self]

/-- A write of a package register leaves the contexts as they were. -/
@[simp] theorem State.ctxs_fabWrite (s : State) (n : Nat) (v : Word) : (s.fabWrite n v).ctxs = s.ctxs := by
  unfold State.fabWrite; repeat' split
  all_goals rfl

/-- A landing `csrw` on the context: the landing of Ctx.csrLand, or what its own reads see of a register that is not its own. -/
theorem State.ctx_csrLand (s : State) (key n v : Nat) :
    (s.csrLand key n v).ctx key = (s.ctx key).csrLand n v ∨ ∃ m w, (s.csrLand key n v).ctx key = (s.ctx key).wroteReg m w := by
  unfold State.csrLand
  split
  · right
    refine ⟨n, pkgRegAfter n (s.seenReg key n) (BitVec.ofNat 64 v), (State.ctx_modCtx_self _ _ _).trans ?_⟩
    show Ctx.wroteReg _ _ (FMap.get {} (s.fabWrite n _).ctxs key) = _
    rw [State.ctxs_fabWrite]
    rfl
  · split
    · right; exact ⟨_, _, State.ctx_modCtx_self _ _ _⟩
    · left; exact State.ctx_setCtx_self _ _ _

/-- Another landing leaves x n as it was. -/
theorem State.landOne_x (key n : Nat) (s : State) (q : Pend) (h : q.tgt ≠ .x n) :
    ((State.landOne key s q).ctx key).x.get 0 n = (s.ctx key).x.get 0 n := by
  unfold State.landOne
  split
  · rfl
  · next m _ =>
    rcases State.ctx_csrLand s key m q.val with e | ⟨a, b, e⟩
    · rw [e, (by simp : ((s.ctx key).csrLand m q.val).x = (s.ctx key).x)]
    · rw [e]; rfl
  · rw [State.ctx_setCtx_self]
    unfold Ctx.land1
    split <;> try first | rfl | (split <;> rfl)
    next m e =>
      split
      · rfl
      · exact FMap.get_set_ne _ _ _ (fun hm => h (by rw [e, hm]))

/-- Another landing leaves v n as it was. -/
theorem State.landOne_v (key n : Nat) (s : State) (q : Pend) (h : q.tgt ≠ .v n) :
    ((State.landOne key s q).ctx key).v.get 0 n = (s.ctx key).v.get 0 n := by
  unfold State.landOne
  split
  · rfl
  · next m _ =>
    rcases State.ctx_csrLand s key m q.val with e | ⟨a, b, e⟩
    · rw [e, (by simp : ((s.ctx key).csrLand m q.val).v = (s.ctx key).v)]
    · rw [e]; rfl
  · rw [State.ctx_setCtx_self]
    unfold Ctx.land1
    split <;> try first | rfl | (split <;> rfl)
    next m e => exact FMap.get_set_ne _ _ _ (fun hm => h (by rw [e, hm]))

/-- Another landing leaves k n as it was. -/
theorem State.landOne_k (key n : Nat) (s : State) (q : Pend) (h : q.tgt ≠ .k n) :
    ((State.landOne key s q).ctx key).k.get 0 n = (s.ctx key).k.get 0 n := by
  unfold State.landOne
  split
  · rfl
  · next m _ =>
    rcases State.ctx_csrLand s key m q.val with e | ⟨a, b, e⟩
    · rw [e, (by simp : ((s.ctx key).csrLand m q.val).k = (s.ctx key).k)]
    · rw [e]; rfl
  · rw [State.ctx_setCtx_self]
    unfold Ctx.land1
    split <;> try first | rfl | (split <;> rfl)
    next m e =>
      split
      · rfl
      · exact FMap.get_set_ne _ _ _ (fun hm => h (by rw [e, hm]))

/-- Another landing leaves c n as it was. -/
theorem State.landOne_c (key n : Nat) (s : State) (q : Pend) (h : q.tgt ≠ .c n) :
    ((State.landOne key s q).ctx key).c.get false n = (s.ctx key).c.get false n := by
  unfold State.landOne
  split
  · rfl
  · next m _ =>
    rcases State.ctx_csrLand s key m q.val with e | ⟨a, b, e⟩
    · rw [e, (by simp : ((s.ctx key).csrLand m q.val).c = (s.ctx key).c)]
    · rw [e]; rfl
  · rw [State.ctx_setCtx_self]
    unfold Ctx.land1
    split <;> try first | rfl | (split <;> rfl)
    next m e => exact FMap.get_set_ne _ _ _ (fun hm => h (by rw [e, hm]))

/-- Another landing leaves t n as it was. -/
theorem State.landOne_t (key n : Nat) (s : State) (q : Pend) (h : q.tgt ≠ .t n) :
    ((State.landOne key s q).ctx key).t.get 0 n = (s.ctx key).t.get 0 n := by
  unfold State.landOne
  split
  · rfl
  · next m _ =>
    rcases State.ctx_csrLand s key m q.val with e | ⟨a, b, e⟩
    · rw [e, (by simp : ((s.ctx key).csrLand m q.val).t = (s.ctx key).t)]
    · rw [e]; rfl
  · rw [State.ctx_setCtx_self]
    unfold Ctx.land1
    split <;> try first | rfl | (split <;> rfl)
    next m e => exact FMap.get_set_ne _ _ _ (fun hm => h (by rw [e, hm]))

/-- Another landing leaves ds n as it was. -/
theorem State.landOne_ds (key n : Nat) (s : State) (q : Pend) (h : q.tgt ≠ .ds n) :
    ((State.landOne key s q).ctx key).ds.get 0 n = (s.ctx key).ds.get 0 n := by
  unfold State.landOne
  split
  · rfl
  · next m _ =>
    rcases State.ctx_csrLand s key m q.val with e | ⟨a, b, e⟩
    · rw [e, (by simp : ((s.ctx key).csrLand m q.val).ds = (s.ctx key).ds)]
    · rw [e]; rfl
  · rw [State.ctx_setCtx_self]
    unfold Ctx.land1
    split <;> try first | rfl | (split <;> rfl)
    next m e => exact FMap.get_set_ne _ _ _ (fun hm => h (by rw [e, hm]))

/-- Another landing leaves gs n as it was. -/
theorem State.landOne_gs (key n : Nat) (s : State) (q : Pend) (h : q.tgt ≠ .gs n) :
    ((State.landOne key s q).ctx key).gs.get 0 n = (s.ctx key).gs.get 0 n := by
  unfold State.landOne
  split
  · rfl
  · next m _ =>
    rcases State.ctx_csrLand s key m q.val with e | ⟨a, b, e⟩
    · rw [e, (by simp : ((s.ctx key).csrLand m q.val).gs = (s.ctx key).gs)]
    · rw [e]; rfl
  · rw [State.ctx_setCtx_self]
    unfold Ctx.land1
    split <;> try first | rfl | (split <;> rfl)
    next m e => exact FMap.get_set_ne _ _ _ (fun hm => h (by rw [e, hm]))

/-- Another landing leaves pS0 as it was. -/
theorem State.landOne_pS0 (key : Nat) (s : State) (q : Pend) (h : q.tgt ≠ .pS0) :
    ((State.landOne key s q).ctx key).pS0 = (s.ctx key).pS0 := by
  unfold State.landOne
  split
  · rfl
  · next m _ =>
    rcases State.ctx_csrLand s key m q.val with e | ⟨a, b, e⟩
    · rw [e, (by simp : ((s.ctx key).csrLand m q.val).pS0 = (s.ctx key).pS0)]
    · rw [e]; rfl
  · rw [State.ctx_setCtx_self]
    unfold Ctx.land1
    split <;> first | rfl | (split <;> rfl) | (next e => exact absurd e h)

/-- Another landing leaves pS1 as it was. -/
theorem State.landOne_pS1 (key : Nat) (s : State) (q : Pend) (h : q.tgt ≠ .pS1) :
    ((State.landOne key s q).ctx key).pS1 = (s.ctx key).pS1 := by
  unfold State.landOne
  split
  · rfl
  · next m _ =>
    rcases State.ctx_csrLand s key m q.val with e | ⟨a, b, e⟩
    · rw [e, (by simp : ((s.ctx key).csrLand m q.val).pS1 = (s.ctx key).pS1)]
    · rw [e]; rfl
  · rw [State.ctx_setCtx_self]
    unfold Ctx.land1
    split <;> first | rfl | (split <;> rfl) | (next e => exact absurd e h)

/-- Another landing leaves pA as it was. -/
theorem State.landOne_pA (key : Nat) (s : State) (q : Pend) (h : q.tgt ≠ .pA) :
    ((State.landOne key s q).ctx key).pA = (s.ctx key).pA := by
  unfold State.landOne
  split
  · rfl
  · next m _ =>
    rcases State.ctx_csrLand s key m q.val with e | ⟨a, b, e⟩
    · rw [e, (by simp : ((s.ctx key).csrLand m q.val).pA = (s.ctx key).pA)]
    · rw [e]; rfl
  · rw [State.ctx_setCtx_self]
    unfold Ctx.land1
    split <;> first | rfl | (split <;> rfl) | (next e => exact absurd e h)

/-- Another landing leaves pV0 as it was. -/
theorem State.landOne_pV0 (key : Nat) (s : State) (q : Pend) (h : q.tgt ≠ .pV0) :
    ((State.landOne key s q).ctx key).pV0 = (s.ctx key).pV0 := by
  unfold State.landOne
  split
  · rfl
  · next m _ =>
    rcases State.ctx_csrLand s key m q.val with e | ⟨a, b, e⟩
    · rw [e, (by simp : ((s.ctx key).csrLand m q.val).pV0 = (s.ctx key).pV0)]
    · rw [e]; rfl
  · rw [State.ctx_setCtx_self]
    unfold Ctx.land1
    split <;> first | rfl | (split <;> rfl) | (next e => exact absurd e h)

/-- Another landing leaves pV1 as it was. -/
theorem State.landOne_pV1 (key : Nat) (s : State) (q : Pend) (h : q.tgt ≠ .pV1) :
    ((State.landOne key s q).ctx key).pV1 = (s.ctx key).pV1 := by
  unfold State.landOne
  split
  · rfl
  · next m _ =>
    rcases State.ctx_csrLand s key m q.val with e | ⟨a, b, e⟩
    · rw [e, (by simp : ((s.ctx key).csrLand m q.val).pV1 = (s.ctx key).pV1)]
    · rw [e]; rfl
  · rw [State.ctx_setCtx_self]
    unfold Ctx.land1
    split <;> first | rfl | (split <;> rfl) | (next e => exact absurd e h)

/-- Another landing leaves pV2 as it was. -/
theorem State.landOne_pV2 (key : Nat) (s : State) (q : Pend) (h : q.tgt ≠ .pV2) :
    ((State.landOne key s q).ctx key).pV2 = (s.ctx key).pV2 := by
  unfold State.landOne
  split
  · rfl
  · next m _ =>
    rcases State.ctx_csrLand s key m q.val with e | ⟨a, b, e⟩
    · rw [e, (by simp : ((s.ctx key).csrLand m q.val).pV2 = (s.ctx key).pV2)]
    · rw [e]; rfl
  · rw [State.ctx_setCtx_self]
    unfold Ctx.land1
    split <;> first | rfl | (split <;> rfl) | (next e => exact absurd e h)

end Sys2Proof.Machine
end

