-- ==== Sys2Proof/Laws/Later.lean ====
section
/-!
SUPPORT. Sys2Proof/Laws/Later.lean: a register at a later bundle of the issuing context, after writes are scheduled.
-/
namespace Sys2Proof.Machine

/-- A later bundle after writes are scheduled. -/
theorem later_eq (s : State) (n : Nat) (ps : List Pend) :
    laterBundle (s.sched ps) n =
      (landingOrder ((s.me.pend ++ ps).filter fun p => p.land ≤ s.me.bundle + n)).foldl (State.landOne s.cur)
        (((s.sched ps).modCtx s.cur fun c => { c with bundle := c.bundle + n }).setCtx s.cur
          { (((s.sched ps).modCtx s.cur fun c => { c with bundle := c.bundle + n }).ctx s.cur) with
            pend := (s.me.pend ++ ps).filter fun p => s.me.bundle + n < p.land }) := by
  have : (s.sched ps).cur = s.cur := rfl
  have h2 : (s.sched ps).ctx s.cur = s.me.addPend ps := State.me_sched s ps
  unfold laterBundle State.landDue State.landAll Ctx.due
  rw [this]
  simp only [State.ctx_modCtx_self, h2, Ctx.addPend]

/-- A landing leaves the issuing context the same. -/
theorem cur_landOne (key : Nat) (s : State) (p : Pend) : (State.landOne key s p).cur = s.cur := by
  unfold State.landOne
  split
  · rfl
  · unfold State.csrLand
    split
    · show (State.fabWrite _ _ _).cur = _
      unfold State.fabWrite; repeat' split
      all_goals rfl
    · split <;> rfl
  · rfl
theorem cur_fold (key : Nat) (l : List Pend) (s : State) : (l.foldl (State.landOne key) s).cur = s.cur := by
  induction l generalizing s with
  | nil => rfl
  | cons p ps ih => rw [List.foldl_cons, ih, cur_landOne]

/-- The issuing context at a later bundle. -/
theorem me_later (s : State) (n : Nat) (ps : List Pend) :
   (laterBundle (s.sched ps) n).me = (laterBundle (s.sched ps) n).ctx s.cur := by
  have h : (laterBundle (s.sched ps) n).cur = s.cur := by rw [later_eq, cur_fold]; simp
  rw [State.me, h]

/-- What reads, at a later bundle, as the one write scheduled on its register makes it. -/
theorem later_val {α : Type} (V : State → α) (T : Tgt) (s : State) (ps : List Pend) (p : Pend) (val : α) (n : Nat)
    (hother : ∀ s' q, q.tgt ≠ T → V (State.landOne s.cur s' q) = V s')
    (hp : ∀ s', V (State.landOne s.cur s' p) = val) (hpT : p.tgt = T)
    (hq : quietFor s T) (hps : ∀ q ∈ ps, q.tgt = T → q = p) (hm : p ∈ ps) (hn : p.land ≤ s.me.bundle + n)
     : V (laterBundle (s.sched ps) n) = val := by
  rw [later_eq]
  apply foldl_land V s.cur p T val _ _ hother hp
  · intro q hq' hT
    rw [mem_landingOrder] at hq'
    have := (List.mem_filter.1 hq'.1).1
    rcases List.mem_append.1 this with h | h
    · exact absurd hT (hq q h)
    · exact hps q h hT
  · rw [mem_landingOrder]
    refine ⟨List.mem_filter.2 ⟨List.mem_append_right _ hm, by simpa using hn⟩, ?_⟩
    unfold prevails
    simp only [Bool.or_eq_true, Bool.not_eq_true']
    right
    rw [List.any_eq_false]
    intro q hq'
    have := (List.mem_filter.1 hq').1
    rcases List.mem_append.1 this with h | h
    · have := hq q h
      simp [hpT, this]
    · by_cases hT : q.tgt = T
      · rw [hps q h hT]; simp [Pend.beats]
      · simp [hpT, hT]

/-- What reads as before until a write of its register is due. -/
theorem later_keep {α : Type} (V : State → α) (T : Tgt) (s : State) (ps : List Pend) (n : Nat)
    (hother : ∀ s' q, q.tgt ≠ T → V (State.landOne s.cur s' q) = V s')
    (hV : ∀ s' : State, (∀ pe, s'.ctx s.cur = { s.me with bundle := s.me.bundle + n, pend := pe } → V s' = V s))
    (hq : quietFor s T) (hps : ∀ q ∈ ps, q.tgt = T → s.me.bundle + n < q.land)
     : V (laterBundle (s.sched ps) n) = V s := by
  rw [later_eq, foldl_land_keep V s.cur T _ _ hother]
  · apply hV _ _
    rw [State.ctx_setCtx_self, State.ctx_modCtx_self]
    have h2 : (s.sched ps).ctx s.cur = s.me.addPend ps := State.me_sched s ps
    rw [h2]; rfl
  · intro q hq' hT
    rw [mem_landingOrder] at hq'
    have h3 := List.mem_filter.1 hq'.1
    rcases List.mem_append.1 h3.1 with h | h
    · exact hq q h hT
    · have := hps q h hT
      have h4 := h3.2
      simp at h4; omega

/-- A full write of an x register lands its value. -/
theorem landOne_x_self (key : Nat) (s : State) (p : Pend) (n : Nat) (h : p.tgt = .x n) (hn : n ≠ 0) (hm : p.mask = ones 64) :
    ((State.landOne key s p).ctx key).x.get 0 n = BitVec.ofNat 64 p.val := by
  unfold State.landOne
  rw [h]
  simp only [State.ctx_setCtx_self]
  unfold Ctx.land1
  rw [h]
  simp only [if_neg hn, FMap.get_set_self, hm]
  exact ofNat_mergeNat_ones 64 _ _

end Sys2Proof.Machine
end

