-- ==== Sys2Proof/Laws/Memory.lean ====
section
/-!
SUPPORT. Sys2Proof/Laws/Memory.lean: what memory reads as after a write, and that every memory operation keeps the
canonical form.
-/
namespace Sys2Proof.Machine

/-- One byte after a write of one byte. -/
theorem Memory.read_write (m : Memory) (a q : Nat) (b : Byte) :
    (m.write a b).read q = if q = a then b else m.read q := FMap.get_set _ _ _ _ _

@[simp] theorem Memory.read_write_self (m : Memory) (a : Nat) (b : Byte) : (m.write a b).read a = b := by
  simp [Memory.read_write]

theorem Memory.read_write_ne (m : Memory) {a q : Nat} (b : Byte) (h : q ≠ a) : (m.write a b).read q = m.read q := by
  simp [Memory.read_write, h]

@[simp] theorem Memory.write_wf (m : Memory) (a : Nat) (b : Byte) (h : m.wf = true) : (m.write a b).wf = true :=
  FMap.wf_set _ _ _ _ h

@[simp] theorem Memory.writeN_wf (bs : List Byte) (m : Memory) (a : Nat) (h : m.wf = true) : (m.writeN a bs).wf = true := by
  induction bs generalizing m a with
  | nil => exact h
  | cons b bs ih => exact ih _ _ (Memory.write_wf m a b h)

@[simp] theorem Memory.writeCells_wf (cs : List Host.Cell) (m : Memory) (h : m.wf = true) : (m.writeCells cs).wf = true := by
  unfold Memory.writeCells
  induction cs generalizing m with
  | nil => exact h
  | cons c cs ih => exact ih _ (Memory.write_wf m c.1 c.2 h)

@[simp] theorem Memory.clear_wf (m : Memory) (a n : Nat) (h : m.wf = true) : (m.clear a n).wf = true :=
  FMap.wf_filter _ _ _ h

/-- The cells of bytes from an address up lie in order among those addresses. -/
theorem Memory.cells_sorted (bs : List Byte) (a : Nat) :
    (Memory.cells a bs).Pairwise (fun x y => x.1 < y.1) ∧ ∀ c ∈ Memory.cells a bs, a ≤ c.1 ∧ c.1 < a + bs.length := by
  induction bs generalizing a with
  | nil => simp [Memory.cells]
  | cons b bs ih =>
    obtain ⟨h1, h2⟩ := ih (a + 1)
    refine ⟨List.pairwise_cons.2 ⟨fun c hc => (h2 c hc).1, h1⟩, fun c hc => ?_⟩
    rcases List.mem_cons.1 hc with rfl | hc
    · simp
    · have := h2 c hc
      simp only [List.length_cons]
      omega

@[simp] theorem Memory.fill_wf (m : Memory) (a : Nat) (bs : List Byte) (h : m.wf = true) : (m.fill a bs).wf = true := by
  obtain ⟨hp, hd⟩ := (FMap.wf_iff blankByte m).1 h
  obtain ⟨cp, cr⟩ := Memory.cells_sorted bs a
  refine (FMap.wf_iff blankByte _).2 ⟨?_, fun e he => ?_⟩
  · unfold Memory.fill
    rw [List.pairwise_append, List.pairwise_append]
    refine ⟨⟨hp.filter _, cp.filter _, fun x hx y hy => ?_⟩, hp.filter _, fun x hx y hy => ?_⟩
    · have := (cr y (List.mem_filter.1 hy).1).1
      have := of_decide_eq_true (List.mem_filter.1 hx).2
      omega
    · have hy := of_decide_eq_true (List.mem_filter.1 hy).2
      rcases List.mem_append.1 hx with hx | hx
      · have := of_decide_eq_true (List.mem_filter.1 hx).2
        omega
      · have := (cr x (List.mem_filter.1 hx).1).2
        omega
  · unfold Memory.fill at he
    rcases List.mem_append.1 he with he | he
    · rcases List.mem_append.1 he with he | he
      · exact hd e (List.mem_filter.1 he).1
      · simpa using (List.mem_filter.1 he).2
    · exact hd e (List.mem_filter.1 he).1

/-- A byte outside the bytes written reads as before. -/
theorem Memory.read_writeN_out (bs : List Byte) (m : Memory) (a q : Nat) (h : q < a ∨ a + bs.length ≤ q) :
    (m.writeN a bs).read q = m.read q := by
  induction bs generalizing m a with
  | nil => rfl
  | cons b bs ih =>
    simp only [List.length_cons] at h
    show ((m.write a b).writeN (a + 1) bs).read q = m.read q
    rw [ih _ _ (by omega), Memory.read_write_ne _ _ (by omega)]

/-- A byte inside reads as the byte written there. -/
theorem Memory.read_writeN_in (bs : List Byte) (m : Memory) (a i : Nat) (h : i < bs.length) :
    (m.writeN a bs).read (a + i) = bs[i] := by
  induction bs generalizing m a i with
  | nil => simp at h
  | cons b bs ih =>
    show ((m.write a b).writeN (a + 1) bs).read (a + i) = (b :: bs)[i]
    cases i with
    | zero => rw [Memory.read_writeN_out _ _ _ _ (by omega)]; simp
    | succ i =>
      rw [show a + (i + 1) = a + 1 + i by omega, ih _ _ _ (by simpa using h)]
      simp

/-- The bytes written are the bytes read. -/
theorem Memory.readN_writeN (bs : List Byte) (m : Memory) (a : Nat) : (m.writeN a bs).readN a bs.length = bs := by
  unfold Memory.readN
  apply List.ext_getElem
  · simp
  · intro i h1 h2
    simp only [List.getElem_map, List.getElem_range]
    exact Memory.read_writeN_in bs m a i h2

/-- Bytes elsewhere read as before. -/
theorem Memory.readN_writeN_out (bs : List Byte) (m : Memory) (a q n : Nat) (h : q + n ≤ a ∨ a + bs.length ≤ q) :
    (m.writeN a bs).readN q n = m.readN q n := by
  unfold Memory.readN
  apply List.map_congr_left
  intro i hi
  have := List.mem_range.1 hi
  exact Memory.read_writeN_out bs m a (q + i) (by omega)

/-- A byte that no listed cell names reads as before. -/
theorem Memory.read_writeCells_out (cs : List Host.Cell) (m : Memory) (q : Nat) (h : ∀ c ∈ cs, c.1 ≠ q) :
    (m.writeCells cs).read q = m.read q := by
  unfold Memory.writeCells
  induction cs generalizing m with
  | nil => rfl
  | cons c cs ih =>
    rw [List.foldl_cons, ih _ (fun d hd => h d (List.mem_cons_of_mem _ hd)),
      Memory.read_write_ne _ _ (Ne.symm (h c (List.mem_cons_self ..)))]

end Sys2Proof.Machine
end

