-- ==== Sys2Proof/Laws/Registers.lean ====
section
/-!
SUPPORT. Sys2Proof/Laws/Registers.lean: what the numbers of MIGCTL are, whatever Config gives.
-/
namespace Sys2Proof.Machine

/-- R33, log 103: a number of twelve bits that no chapter assigns, another for each die. -/
theorem migctlReg_spec {die : Nat} (h : die < 4) :
    migctlReg die < 4096 ∧ csrAssigned (migctlReg die) = false ∧ ∀ j, j < die → migctlReg j ≠ migctlReg die := by
  unfold migctlReg
  split
  next g =>
    simp only [migctlGood, List.all_eq_true, List.mem_range, Bool.and_eq_true, decide_eq_true_eq, Bool.not_eq_true', bne_iff_ne] at g
    obtain ⟨⟨a, b⟩, c⟩ := g die h
    exact ⟨a, b, c⟩
  next => exact ⟨by omega, (by decide : ∀ d, d < 4 → csrAssigned (0xF00 + d) = false) die h, fun j _ => by omega⟩

/-- The die of a number is the one that has it. -/
theorem migctlDie_eq {die n : Nat} (h : die < 4) : migctlDie n = some die ↔ migctlReg die = n := by
  unfold migctlDie
  constructor
  · intro e; simpa using List.find?_some e
  · rintro rfl
    rw [List.find?_eq_some_iff_append]
    refine ⟨by simp, List.range die, (List.range (4 - die - 1)).map (· + (die + 1)), ?_, ?_⟩
    · rcases (by omega : die = 0 ∨ die = 1 ∨ die = 2 ∨ die = 3) with rfl | rfl | rfl | rfl <;> rfl
    · intro j hj
      simpa using (migctlReg_spec h).2.2 j (by simpa using hj)

end Sys2Proof.Machine
end

