-- ==== Sys2Proof/Laws/SoftErrors.lean ====
section
/-!
SUPPORT. Sys2Proof/Laws/SoftErrors.lean: what a read that meets soft errors can change (R34, R35, R87): the bytes, the marks, the errors
left, the counts of cores and the free values used; and nothing where there are no errors.
-/
namespace Sys2Proof.Machine

@[simp] theorem scan_clean {s : State} (h : s.flips = []) (p n : Nat) : s.scan p n = s := by simp [State.scan, h]

@[simp] theorem scanAll_clean {s : State} (h : s.flips = []) (l : List (Nat × Nat)) : s.scanAll l = s := by
  unfold State.scanAll
  induction l with
  | nil => rfl
  | cons g l ih => rw [List.foldl_cons, scan_clean h]; exact ih

theorem poisonedAt_clean {s : State} (h : s.flips = []) (g : Nat) : poisonedAt s g = s.poison.contains g := by simp [poisonedAt, h]

/-- The state with its bytes, marks, errors, cores and free values replaced: all that a read with soft errors may do. -/
def reread (s t : State) : State :=
  { s with mem := t.mem, poison := t.poison, flips := t.flips, cores := t.cores, freeCtr := t.freeCtr }

theorem decodeWord_frame (s : State) (p : Nat) : s.decodeWord p = reread s (s.decodeWord p) := by
  simp only [State.decodeWord, State.countErr, State.setCore, reread]
  repeat' split
  all_goals rfl

theorem stored_wf (l : List (Nat × Byte)) (m : Memory) (h : m.wf = true) :
    (l.foldl (fun (m : Memory) (e : Nat × Byte) => m.write e.1 (m.read e.1 ^^^ e.2)) m).wf = true := by
  induction l generalizing m with
  | nil => exact h
  | cons e l ih => exact ih _ (Memory.write_wf m _ _ h)

theorem decodeWord_wf {s : State} (p : Nat) (h : s.mem.wf = true) : (s.decodeWord p).mem.wf = true := by
  simp only [State.decodeWord, State.countErr, State.setCore]
  repeat' split
  all_goals first | exact h | exact stored_wf _ _ h | exact Memory.writeN_wf _ _ _ h

/-- A property of states that every code word keeps is kept by a scan. -/
theorem scan_keeps {P : State → Prop} (k : ∀ t q, P t → P (t.decodeWord q)) {s : State} (h : P s) (p n : Nat) : P (s.scan p n) := by
  unfold State.scan
  split
  · exact h
  next e =>
    clear e
    generalize List.filterMap _ _ = l
    induction l generalizing s with
    | nil => exact h
    | cons q l ih => exact ih (k _ _ h)

theorem scan_wf {s : State} (h : s.mem.wf = true) (p n : Nat) : (s.scan p n).mem.wf = true :=
  scan_keeps (P := fun t => t.mem.wf = true) (fun _ q => decodeWord_wf q) h p n

theorem scan_frame (s : State) (p n : Nat) : s.scan p n = reread s (s.scan p n) :=
  scan_keeps (P := fun t => t = reread s t) (fun t q e => by
    rw [decodeWord_frame t q]
    generalize t.decodeWord q = v
    rw [e]; rfl) rfl p n

theorem scanAll_wf {s : State} (h : s.mem.wf = true) (l : List (Nat × Nat)) : (s.scanAll l).mem.wf = true := by
  unfold State.scanAll
  induction l generalizing s with
  | nil => exact h
  | cons g l ih => exact ih (scan_wf h _ _)

@[simp] theorem scan_ctxs (s : State) (p n : Nat) : (s.scan p n).ctxs = s.ctxs := by rw [scan_frame]; rfl
@[simp] theorem scan_devs (s : State) (p n : Nat) : (s.scan p n).devs = s.devs := by rw [scan_frame]; rfl
@[simp] theorem scan_accesses (s : State) (p n : Nat) : (s.scan p n).accesses = s.accesses := by rw [scan_frame]; rfl
@[simp] theorem scan_station (s : State) (p n : Nat) : (s.scan p n).station = s.station := by rw [scan_frame]; rfl
@[simp] theorem scan_cur (s : State) (p n : Nat) : (s.scan p n).cur = s.cur := by rw [scan_frame]; rfl

end Sys2Proof.Machine
end

