-- ==== Sys2Proof/Tests/Slice0.lean ====
section
/-!
SUPPORT. Sys2Proof/Tests/Slice0.lean: small checks of the model, and a witness for the hypotheses of each statement.
-/
namespace Sys2Proof.Tests
open Sys2Proof Sys2Proof.Machine

/-! ### Well-formed terms -/

/-- R243: each check of the encoding refuses a term. -/
theorem test_ill_formed_refused : ∀ i ∈ ([
    .loopi 0 0 5, .stg .s0 28 1, .stgi .s1 63 1,
    .ldv 768 1 0 0 .e8, .ldvs 775 1 0 2, .accrd 768 1 0 0, .tld 800 1 0,
    .stv 775 1 0 0 .e8, .stvs 775 1 0 2, .accwr 800 1 0 0, .tst 1023 1 0,
    .atom .fadd true 1 2 3 0 0, .atom .add false 1 2 3 4 0] : List Instr), i.wf = false := by decide

theorem test_ill_formed_vectors_refused : ∀ i ∈ ([
    .vadd .v2 .i8 1 2 3 0, .vadd .v0 .f32 1 2 3 0, .vadd .v0 .i8 772 2 3 0, .vadd .v0 .i8 1 775 3 0,
    .vabs .v0 .i8 768 2 0, .vabs .v0 .bf16 1 2 0, .vmulw .v0 .i32 .pair 2 1 1 0, .vmulw .v0 .i8 .quad 2 1 1 0, .vmacw .v0 .i8 .pair 1 2 2 0,
    .vcmp .v0 .f32 .eq 1 2 3 0, .vsra .v0 .n8 1 2 3 0, .vbcst .v2 .i32 1 2 128 0, .vrot .v2 .i8 1 2 512 0,
    .vzip .v2 .i8 1 2 3 0, .vunzip .v2 .i8 2 3 0, .vpack .v2 .i32 .wrap 1 2 0, .vunpack .v2 .i8 1 2 0,
    .vdpack .v2 .i8 1 2 3, .vdpack .v2 .i16 1 2 0, .vtpack .v2 .n8 1 6, .vperm .v0 .i8 1 2 3 0] : List Instr),
      i.wf = false := by decide

theorem test_ill_formed_floats_refused : ∀ i ∈ ([
    .vfadd .v0 .e4m3 .mode 1 2 3 0, .vfmin .v0 .e5m2 1 2 3 0, .vfabs .v0 .i8 1 2 0, .vfcmp .v0 .e4m3 .eq 1 2 3 0,
    .vcvt .v0 .i8 .i16 .mode 1 2 0, .vcvt .v0 .f32 .i4 .mode 8 2 0, .vcvt .v0 .f32 .f16 .mode 1 2 0,
    .vbfix .v0 false .mode 1 2 0, .vbflt .v0 .mode 1 3 0, .vrcp .v0 .mode 1 2 0,
    .wmax .v2 .i8 2 4 2 0, .wmax .v2 .i16 2 4 0 0, .wmed .v2 .i16 2 4 2 0, .wmed .v2 .i16 2 4 17 0, .wsat .v2 .f32 2 4 2 0,
    .wclamp .v2 .i16 1 2 3 0, .adjb .v2 1 2 3 52 0] : List Instr), i.wf = false := by decide

theorem test_ill_formed_commands_refused : ∀ i ∈ ([
    .mcall 64, .mcallT 1023 0, .rent 2, .prepay 1, .renew 63, .sublet 62, .rentq 3, .evpop 1, .jinit 5, .jadd 7, .tbind 2,
    .tsnap 1, .troll 1, .tfork 6,
    .microLoop false 0 0 0, .microLoop false 0 1 4, .microLoop true 0 1 4,
    .ldst .always ⟨0, false⟩ 3 0 0 0, .ldst .always ⟨1, false⟩ 0 0 0 0, .ldst .always ⟨0, false⟩ 0 0 1 0,
    .strm .always ⟨0, false⟩ 0 0 0 0 0 0, .wcfg .always ⟨2, false⟩ 0 0 0, .microZero .always ⟨0, false⟩ 0 0 1 0,
    .drn .always ⟨0, false⟩ 0 0 0 0 1 0 0 0, .drnq .always ⟨0, false⟩ 0 0 0 0 0 0 1 0 0 false,
    .drnx .always ⟨0, false⟩ 0 0 0 3 0 0 0 0 0 false, .drnx .always ⟨0, false⟩ 0 0 0 0 0 0 1 0 0 false,
    .drnx .always ⟨0, false⟩ 0 0 0 1 0 0 0 0 1 false, .drnx .always ⟨0, false⟩ 0 0 0 2 0 0 1 0 0 true] : List Instr),
      i.wf = false := by decide

theorem test_well_formed_accepted : ∀ i ∈ ([
    .loopi 0 1 5, .stg .s0 27 1, .ldv 774 1 0 0 .e8, .stv 773 1 0 0 .e8, .atom .fadd false 1 2 3 0 0, .atom .cas true 1 2 3 4 0,
    .vadd .v1 .i8 774 773 3 0, .vmulw .v0 .i8 .quad 4 1 1 0, .vbcst .v2 .i32 1 2 127 0, .vtpack .v2 .n8 1 8,
    .vcvt .v0 .f32 .e4m3 .mode 8 2 0, .wmed .v2 .i16 2 4 15 0, .adjb .v2 1 2 3 51 0, .mcall 63, .rent 60,
    .drnx .always ⟨0, false⟩ 0 0 0 2 0 0 2 0 0 true] : List Instr), i.wf = true := by decide

/-! ### Words written out from the encoding tables -/

/-- R234, R235, R239: 32-bit words of the B, S and M slots. -/
theorem test_words_of_32_bits : ∀ p ∈ ([
    (0x09FFFFF0, .ptg 0 (-16)), (0x10000000, .br 0 0), (0x11400000, .br 1 1), (0x2F980000, .call 60 3), (0x37800000, .ret 60),
    (0x40003003, .loopi 0 3 3), (0x3038A300, .mul .s0 7 5 6), (0x60280003, .li .s0 5 3), (0x60300004, .li .s0 6 4),
    (0x622C1234, .lih .s0 5 0x1234 2), (0x38412500, .divs .s0 8 9 10), (0x80086003, .anyk .s0 1 3 .l128),
    (0x9203C00A, .csrw .s0 0x00A 30), (0xA2101000, .stgi .s0 2 4096)] : List (Nat × Instr)),
    decodeSlot (p.2.slot.getD .B) p.1 = some p.2 := by decide

theorem test_words_of_the_m_slot : ∀ p ∈ ([(0x100A0190, .mcallT 2 400), (0x205C0000, .mcfg .d9p3 true true), (0x30000000, .mloadCode),
    (0x30040000, .mloadTable), (0x40000000, .mhalt)] : List (Nat × Instr)), decodeSlot .M p.1 = some p.2 := by decide

/-- R236, R74: 48-bit words of the A slot. -/
theorem test_words_of_the_a_slot : ∀ p ∈ ([(0x240A50000000, .ldv 10 20 0 0 .e8), (0x501051100000, .atom .add false 16 20 17 0 0),
    (0x529051148200, .atom .cas false 16 20 17 18 8)] : List (Nat × Instr)), decodeTableWord 48 p.1 = some p.2 := by decide

/-- R237, R288, R302, R308, R312, R313: 48-bit words of the vector slots. -/
theorem test_words_of_the_vector_slots : ∀ p ∈ ([
    (0x012C0C0A0300, .vadd .v0 .i32 771 10 12 0), (0x0340A0290A88, .vaddsat .v0 .n8 40 41 42 2),
    (0x14200C140542, .vcmp .v0 .i32 .lt 3 20 21 0), (0x0601000A02C1, .vmulw .v0 .i8 .quad 64 10 11 0),
    (0x4380781F0800, .vfma .v0 .f32 .mode 30 31 32 0), (0x498008050181, .vfcmp .v0 .f32 .lt 2 5 6 0),
    (0x4B80B02816C0, .vcvt .v0 .e4m3 .f32 .rtz 44 40 0), (0x4C80F0321040, .vbfix .v0 true .rne 60 50 0)] : List (Nat × Instr)),
    decodeSlot .V0 p.1 = some p.2 := by decide

theorem test_words_of_the_permute_slot : ∀ p ∈ ([
    (0x2110F03D0F80, .vperm .v2 .i16 60 61 62 0), (0x270140460080, .vdpack .v2 .i8 80 70 2),
    (0x708320640100, .wmax .v2 .f32 200 100 4 0), (0x75C4B0FA3242, .adjb .v2 300 250 201 50 0)] : List (Nat × Instr)),
    decodeSlot .V2 p.1 = some p.2 := by decide

/-- R240 to R242: 16-bit words of the Y slot. -/
theorem test_words_of_the_y_slot : ∀ p ∈ ([(0x0500, .rent 16), (0x0D40, .renew 20), (0x1180, .sublet 24), (0x1490, .vacate 9),
    (0x2540, .evpop 20), (0x2920, .fence .quad .rel), (0x2C00, .realign), (0x4100, .jinit 16), (0x49E0, .jdone 30), (0x4DE0, .jwait 30),
    (0x6680, .tsnap 40), (0x8050, .trap 5), (0x8401, .eretSkip), (0x8800, .halt)] : List (Nat × Instr)),
    decodeTableWord 16 p.1 = some p.2 := by decide

/-- R319 to R327: 64-bit words of the micro-ops. -/
theorem test_words_of_the_micro_ops : ∀ p ∈ ([(0x0, .microEnd .always), (0x0C00000000000000, .ldst .always ⟨0, false⟩ 0 0 0 0),
    (0x0C04002000000000, .ldst .always ⟨0, false⟩ 1 0 0 131072), (0x1000000000000000, .swap .always),
    (0x1400010200000000, .strm .always ⟨0, false⟩ 16 1 0 0 0 0),
    (0x2402000401E14000, .drnq .always ⟨0, false⟩ 1 0 0 2 0 15 0 2 4 false)] : List (Nat × Instr)),
    decodeTableWord 64 p.1 = some p.2 := by decide

/-- R126, R243: a zero word, a reserved opcode and a reserved bit are refused. -/
theorem test_words_refused : decodeSlot .S0 0 = none ∧ decodeSlot .S1 0xFE000000 = none ∧ decodeSlot .B 0x50000000 = none ∧
    decodeSlot .V0 0x2110F03D0F80 = none ∧ decodeSlot .Y 0x8402 = none ∧ decodeSlot .M 0x40000001 = none ∧
    decodeMicro 0xFC00000000000000 = none := by decide


/-! ### A small machine: one device, eight stalls, two contexts -/

def st1 : Stall := { id := 1, len := 256, paid := 100, level := 1, core := 0, acct := 3, rate := 32, sync := true, phys := 0, base := 0 }
def st2 : Stall := { id := 2, len := 256, paid := 100, level := 0, core := 0, acct := 3, rate := 96, phys := 2 ^ 23 }
def st3 : Stall := { id := 3, len := 64, paid := 100, level := 2, core := 0, acct := 3, rate := 32, phys := 2 ^ 23 + 2 ^ 22 }
def st4 : Stall := { id := 4, len := 1024, paid := 100, level := 3, core := 0, acct := 3, rate := 4, phys := 2 ^ 40 }
def st5 : Stall := { id := 5, len := 64, paid := 2, level := 1, core := 0, acct := 3, rate := 32, phys := 16384 }
def st6 : Stall := { id := 6, len := 256, paid := 100, level := 1, core := 1, acct := 3, rate := 32, phys := 2 ^ 24 }
def st7 : Stall := { id := 7, len := 256, paid := 100, level := 1, core := 0, acct := 3, rate := 32, shared := true, phys := 32768 }
def dev1 : Device :=
  { en := true, accts := [(3, 1000000)], stalls := [(1, st1), (2, st2), (3, st3), (4, st4), (5, st5), (6, st6), (7, st7)] }
def c0 : Ctx := { run := .ready, launch := 9, dev := 1, acct := 3, tstart := 3000, bundle := 50, pc := 100 }
def own0 : Owner := { key := 0, launch := 9, dev := 1 }
def s0 : State :=
  { State.reset with station := 3000, cur := 0, nextId := 77, devs := [(1, dev1)], seen := [(1, dev1)], ctxs := [(0, c0), (2, { c0 with bundle := 7 })] }

/-- The small machine with x registers of context 0. -/
def withX (xs : List (Nat × Word)) : State := s0.setCtx 0 { c0 with x := xs }
/-- A change of context 0. -/
def me (s : State) (f : Ctx → Ctx) : State := s.setCtx 0 (f s.me)
/-- A change of the device. -/
def devM (s : State) (f : Device → Device) : State := { s with devs := [(1, f (s.dev 1))], seen := [(1, f (s.dev 1))] }
/-- Bytes written. -/
def wr (s : State) (p n v : Nat) : State := { s with mem := s.mem.writeN p (natToBytes n v) }
/-- x4 the address of an offset in a stall. -/
def at4 (id off : Nat) : State := withX [(4, stallAddr id off), (5, 0x1122334455667788), (6, 64)]
def run (i : Instr) (s : State) : State := match exec i s with
  | .next t => t
  | _ => s
def later (s : State) (n : Nat) : State := { s with station := s.station + n }

/-! ### Checks of the vocabulary of the statements -/

def decOutside (s : State) (f : AccessForm) : Decidable (outside s f) := by unfold outside; infer_instance
def decReachable (s : State) (f : AccessForm) : Decidable (reachable s f) := by unfold reachable; infer_instance
def decAdmitted (s : State) (f : AccessForm) : Decidable (admitted s f) := by
  have := decOutside s f; have := decReachable s f; unfold admitted; infer_instance
def decTainted (s : State) (a : Word) (i : Nat) : Decidable (tainted s a i) := by unfold tainted; infer_instance
def decClear (s : State) (f : AccessForm) (r w : Bool) : Decidable (clear s f r w) := by
  have := decAdmitted s f; have := decTainted s f.ea; unfold clear; infer_instance
/-- The claim that a decision procedure decides. -/
theorem decided {p : Prop} (d : Decidable p) (h : d.decide = true) : p := of_decide_eq_true h
theorem refuted {p : Prop} (d : Decidable p) (h : d.decide = false) : ¬p := of_decide_eq_false h
theorem isClear {s : State} {f : AccessForm} {r w : Bool} (h : (decClear s f r w).decide = true) : clear s f r w := decided _ h

/-! ### The hypotheses of the statements are met: scalars, near storage -/

theorem wit_MultipliesAndDivides : ((0 : Word) = 0 ∧ (BitVec.ofInt 64 (-2 ^ 63)).toInt = -2 ^ 63 ∧ (BitVec.ofInt 64 (-1)).toInt = -1) ∧
    ((7 : Word) ≠ 0 ∧ ¬((BitVec.ofInt 64 (-2 ^ 63)).toInt = -2 ^ 63 ∧ (7 : Word).toInt = -1)) ∧
    ¬((6 : Word).toInt = -2 ^ 63 ∧ (BitVec.ofInt 64 (-1)).toInt = -1) := by decide

theorem wit_ScalarAluResults_and_the_scalar_forms : quietFor s0 (.x 3) ∧ quietFor s0 (sPort .s0) ∧ quietFor s0 (.c 1) := by
  unfold quietFor; decide

theorem wit_ControlRegisters :
    (csrAssigned (0xFFF : BitVec 12).toNat = false) ∧
    (csrAssigned 0x400 = true ∧ ringNat s0.me.ring < csrRing 0x400) ∧
    (csrAssigned 0x008 = true ∧ csrRing 0x008 ≤ ringNat s0.me.ring) ∧
    (csrAssigned 0x034 = true ∧ csrRing 0x034 ≤ ringNat s0.me.ring ∧
      pmDenied (me s0 fun c => { c with pmev := [(0, 9)] }) (me s0 fun c => { c with pmev := [(0, 9)] }).me 0 = true) ∧
    s0.me.pend = [] ∧ s0.me.ring = .user := by decide

/-- Two writes of one x register that are due, a third that is not: the higher slot is the one to prevail. -/
theorem wit_LandingTakesOneWrite : let p := mkPend c0 .S0 0 (.x 3) (ones 64) 7
    let q := mkPend c0 .A 0 (.x 3) (ones 64) 8
    let r := mkPend c0 .S1 2 (.x 3) (ones 64) 9
    let s := me s0 fun c => { c with pend := [p, q, r] }
    s.me.run = .ready ∧ (∀ p ∈ s.me.pend, p.tgt = .x 3 → p.mask = ones 64) ∧ q ∈ s.me.pend ∧ q.land ≤ s.me.bundle ∧
      (∀ z ∈ s.me.pend, z.tgt = .x 3 → z.land ≤ s.me.bundle →
        z = q ∨ z.land < q.land ∨ (z.land = q.land ∧ (z.slot < q.slot ∨ (z.slot = q.slot ∧ z.seq < q.seq)))) ∧
      s0.me.run = .ready ∧ ∀ p ∈ s0.me.pend, p.tgt = .x 3 → s0.me.bundle < p.land := by decide

theorem wit_TransfersAndTheirEffect : let s := me s0 fun c => { c with c := [(2, true)], xfers := [⟨50, 400⟩] }
    quietFor s (.t 1) ∧ s.me.cr 2 = true ∧ s.me.cr 1 = false ∧ s.me.run = .ready ∧
      s.me.xfers.find? (fun x => x.at_ == s.me.bundle) = some ⟨50, 400⟩ ∧
      s0.me.run = .ready ∧ (∀ x ∈ s0.me.xfers, x.at_ ≠ s0.me.bundle) := by unfold quietFor; decide

/-- Code of two bundles of one 32-bit syllable each, at byte 0. -/
def codeS : State := me (s0.setCore 0 { hcode := literalBundle .S0 0x02000000 ++ literalBundle .S0 0x02000000 }) fun c =>
  { c with ring := .driver, pc := 0, x := [(4, 3)] }

theorem wit_LoopsOpen : let hn := nextHead codeS.myCode codeS.me.pc
    (codeS.me.pc + BitVec.ofNat 64 (2 * 2)).toNat < hn.toNat ∧
    hn.toNat ≤ (codeS.me.pc + BitVec.ofNat 64 (2 * 3)).toNat ∧ (codeS.me.xr 4).toNat % 2 ^ 32 ≠ 0 ∧ (codeS.me.xr 5).toNat % 2 ^ 32 = 0 := by decide

theorem wit_StepRunsDecodedInstruction : ({ s0 with bootStage := 2 } : State).bootStage ≠ 0 ∧ (∀ e ∈ s0.inputs, e.2 ≠ .packageReset) ∧
    ({ s0 with bootStage := 2, inputs := [(9, .packageReset)] } : State).inputs = [] ++ (9, .packageReset) :: [] ∧ s0.bootStage = 0 ∧ s0.todo = [] ∧
    ({ s0 with todo := [(0, .bundleIssue)] } : State).todo = [(0, .bundleIssue)] ∧ (Instr.add .s0 0 0 0).slot = some .S0 ∧
    decodeSlot .S0 0x02000000 = some (.add .s0 0 0 0) ∧
    fetch (codeS.core (keyCore 0)) (codeS.ctx 0).ring (codeS.ctx 0).pc = .bundle [(.S0, 0x02000000)] := by decide

def badBundle : State := codeS.setCore 0 { hcode := literalBundle .S0 0xFE000000 }
def trapBundle : State := codeS.setCore 0 { hcode := literalBundle .Y 0x8050 }

def holdBundle : State := codeS.setCore 0 { hcode := literalBundle .Y (encode .realign) }

theorem wit_BundleCommitsAtomically :
    (fetch (codeS.core 0) (codeS.ctx 0).ring 0 = .bundle [(.S0, 0x02000000)] ∧
      slotFault (codeS.bundleBase 0) (.S0, 0x02000000) = none ∧ slotHold (codeS.bundleBase 0) (.S0, 0x02000000) = none) ∧
    (fetch (badBundle.core 0) (badBundle.ctx 0).ring 0 = .bundle [(.S0, 0xFE000000)] ∧
      slotFault (badBundle.bundleBase 0) (.S0, 0xFE000000) = some (0x02, 0)) ∧
    (fetch (trapBundle.core 0) (trapBundle.ctx 0).ring 0 = .bundle [(.Y, 0x8050)] ∧
      slotFault (trapBundle.bundleBase 0) (.Y, 0x8050) = some (0x41, 5)) ∧
    (fetch (holdBundle.core 0) (holdBundle.ctx 0).ring 0 = .bundle [(.Y, encode .realign)] ∧
      slotFault (holdBundle.bundleBase 0) (.Y, encode .realign) = none ∧
      slotHold (holdBundle.bundleBase 0) (.Y, encode .realign) = some .realign) := by decide

theorem wit_LiteralBundleFetched : (0x02000000 : Nat) ≠ 0 ∧ 0x02000000 < 2 ^ (16 * Slot.S0.parcels) ∧
    codeBadOf (codeS.core 0) .driver = [] ∧
    ((codeOf (codeS.core 0) .driver).drop 6).take (2 + 2 * Slot.S0.parcels) = literalBundle .S0 0x02000000 := by decide

/-- The holder issues; the holder holds and the next context issues; nobody is ready; `realign` holds context 2 at a boundary. -/
theorem wit_PathHolderIssues : let held := fun (s : State) => s.setCore 0 { s.core 0 with path := 0, free := false }
    let gone := fun (s : State) => (me s fun c => { c with run := .idle }).setCtx 2 { c0 with run := .idle }
    (codeS.cur = 4 * 0 ∧ ((held codeS).core 0).path = 0 ∧ ((held codeS).core 0).free = false ∧ passesBy 0 (held codeS) [] (held codeS) ∧
      ∃ t, attempt (held codeS) (4 * 0 + 0) = .issues t) ∧
    (∃ u, attempt (held holdBundle) 0 = .holds u ∧ passesBy 0 (held holdBundle) [0] u) ∧
    ((gone codeS).core 0).free = true ∧ (gone codeS).station % 1024 ≠ 0 ∧ passesBy 0 (gone codeS) [1, 2, 3, 0] (gone codeS) ∧
    (let s : State := { codeS.setCtx 2 { c0 with hold := some ⟨.realign, 2990, false⟩ } with station := 3072 }
     (s.core 0).free = true ∧ s.station % 1024 = 0 ∧ (s.ctx 2).hold = some ⟨.realign, 2990, false⟩) :=
  ⟨⟨by decide, by decide, by decide, rfl, _, rfl⟩, ⟨_, rfl, .inr ⟨_, rfl, rfl⟩⟩, by decide, by decide,
    .inl ⟨rfl, .inl ⟨rfl, .inl ⟨rfl, .inl ⟨rfl, rfl⟩⟩⟩⟩, by decide⟩

/-- A ring in which every landing is allowed, a counter whose event is allowed, and another context. -/
theorem wit_ControlRegisters_landings : let s := devM (me s0 fun c => { c with ring := .driver, pmev := [(0, 9)] }) fun d => { d with pmallow := [(0, BitVec.ofNat 64 (2 ^ 9))] }
    let s := { s with prior := s.devs }
    s.me.pend = [] ∧ (∀ n ∈ [0x008, 0x010, 0x01A, 0x02B, 0x034, 0x400, 0x408, 0x410, 0x419, 0x41A], csrAssigned n = true ∧ csrRing n ≤ ringNat s.me.ring) ∧
      pmDenied s s.me 0 = false ∧ (1 : Nat) ≠ 4 * 0 + 0 ∧ (5 : Nat) < 2 ^ 64 := by decide

/-- A next head that is a bundle, one that is an idle head of run 1 and one of run 5. -/
def callS (run : List Byte) : State := codeS.setCore 0 { hcode := literalBundle .S0 0x02000000 ++ run ++ literalBundle .S0 0x02000000 }

theorem wit_TransfersAndTheirEffect_links :
    (match headAt (callS []).myCode (nextHead (callS []).myCode 0) with | .idle _ => false | _ => true) = true ∧
    headAt (callS [0, 0xC0]).myCode (nextHead (callS [0, 0xC0]).myCode 0) = .idle 1 ∧
    headAt (callS [4, 0xC0]).myCode (nextHead (callS [4, 0xC0]).myCode 0) = .idle 5 := by decide

/-- Two loops that end at the pc: the inner one, of the higher LBEG, is exhausted, so that the outer one is reached. -/
def edgeC : Ctx := { c0 with lend := [(0, 100), (1, 100)], lbeg := [(0, 20), (1, 40)], lcnt := [(0, BitVec.ofNat 64 (2 ^ 63 + 3)), (1, BitVec.ofNat 64 (2 ^ 63))] }

theorem wit_LoopsOpen_edges : (meetsEdge edgeC 0 ∧ meetsEdge edgeC 1 ∧ takenFirst edgeC 1 0 ∧ ¬takenFirst edgeC 0 1 ∧
      loopCount edgeC 1 = 0 ∧ loopCount edgeC 0 = 3) ∧
    (∀ n, n < 4 → loopAct { edgeC with lcnt := [] } n = false) ∧
    (let s := callS []
     fetch (s.core 0) .driver 0 = .bundle [(.S0, 0x02000000)] ∧ (s.me.countEv 0x01 1).run ≠ .ended ∧ (s.me.countEv 0x01 1).redirected = false ∧
      ((me s fun c => { c with run := .ended }).me.countEv 0x01 1).run = .ended ∧ ((me s fun c => { c with redirected := true }).me.countEv 0x01 1).redirected = true) ∧
    (let s := (codeS.setCore 0 { hcode := [4, 0xC0, 0, 0xC0] })
     fetch (s.core 0) (s.ctx 0).ring (s.ctx 0).pc = .idle 5 ∧ (s.ctx 0).redirected = false ∧ (s.ctx 0).idleRun = 0 ∧
      fetch (s.core 0) .driver 2 = .idle 1 ∧ (me s fun c => { c with idleRun := 2 }).me.idleRun = 2 ∧
      (me s fun c => { c with returned := true, idleRem := 3 }).me.idleRem ≠ 0) := by
  unfold meetsEdge takenFirst
  decide

/-! #### Near accesses -/

def poisonS : State := { at4 1 60 with poison := [1] }

theorem wit_NearChecksInOrder : let f := fun (id off : Nat) => (⟨stallAddr id off, 8, 1, true, 1, List.range 8⟩ : AccessForm)
    accessForm (at4 1 128) (.ldd 1 4 0) = some (.A, f 1 128) ∧
    (f 1 0).ea.getLsbD 63 = true ∧ (5 : Word).getLsbD 63 = false ∧
    outside (at4 9 0) (f 9 0) ∧ outside (at4 1 16377) (f 1 16377) ∧ ¬outside (at4 1 16376) (f 1 16376) ∧
    (¬outside (at4 2 0) (f 2 0) ∧ ¬reachable (at4 2 0) (f 2 0)) ∧
    (¬outside (at4 5 0) (f 5 0) ∧ reachable (at4 5 0) (f 5 0) ∧
      ¬((stallAt (at4 5 0) (f 5 0).ea).st = .active ∧ (at4 5 0).tick < (stallAt (at4 5 0) (f 5 0).ea).paid)) ∧
    admitted poisonS (f 1 60) ∧ (∀ i ∈ [0, 1, 2, 3], ¬tainted poisonS (f 1 60).ea i) ∧ tainted poisonS (f 1 60).ea 4 := by
  unfold admitted outside reachable tainted
  refine ⟨rfl, ?_, ?_, ?_, ?_, ?_, ?_, ?_, ?_⟩ <;> decide

/-- One operation of each access that needs another form; the last byte of a stall that it may take. -/
theorem wit_LoadsAndStoresIssue :
    clear (at4 1 16383) ⟨stallAddr 1 16383, 1, 1, true, 1, [0]⟩ true false ∧
    clear (at4 1 16382) ⟨stallAddr 1 16382, 2, 1, true, 1, List.range 2⟩ true false ∧
    clear (at4 6 16380) ⟨stallAddr 6 16380, 4, 1, true, 1, List.range 4⟩ true false ∧
    clear (at4 1 16376) ⟨stallAddr 1 16376, 8, 1, true, 1, List.range 8⟩ true false ∧
    clear (at4 1 16256) ⟨stallAddr 1 16256, 128, 1, true, 1, List.range 128⟩ true false ∧
    clear (at4 3 3584) ⟨stallAddr 3 3584, 512, 2, false, 512, List.range 512⟩ true false ∧
    clear (at4 1 15872) ⟨stallAddr 1 15872, 512, 1, false, 1, List.range 512⟩ true false :=
  ⟨isClear (by decide +kernel), isClear (by decide +kernel), isClear (by decide +kernel), isClear (by decide +kernel), isClear (by decide +kernel), isClear (by decide +kernel), isClear (by decide +kernel)⟩

theorem wit_LoadsAndStoresIssue_stores :
    clear (at4 1 16383) ⟨stallAddr 1 16383, 1, 1, true, 1, []⟩ false true ∧
    clear (at4 1 16382) ⟨stallAddr 1 16382, 2, 1, true, 1, []⟩ false true ∧
    clear (at4 7 16380) ⟨stallAddr 7 16380, 4, 1, true, 1, []⟩ false true ∧
    clear (at4 6 16376) ⟨stallAddr 6 16376, 8, 1, true, 1, []⟩ false true ∧
    clear (at4 1 16256) ⟨stallAddr 1 16256, 128, 1, true, 1, []⟩ false true ∧
    clear (at4 3 3584) ⟨stallAddr 3 3584, 512, 2, false, 512, []⟩ false true ∧
    (let s := (at4 3 3584).setCore 0 { tack := { locks := [{ cmd := 5, own := own0, first := [3], stalls := [3] }] } }
     ∀ l ∈ (s.core 0).tack.locks, l.own.dev = 1 → ∀ i ∈ l.stalls, (s.stall 1 i).range.hi ≤ 2 ^ 23 ∨ 2 ^ 23 + 512 ≤ (s.stall 1 i).range.lo) :=
  ⟨isClear (by decide +kernel), isClear (by decide +kernel), isClear (by decide +kernel), isClear (by decide +kernel), isClear (by decide +kernel), isClear (by decide +kernel), by decide⟩

def maskS (id off : Nat) : State := me (at4 id off) fun c => { c with k := [(2, 0x11)] }

theorem wit_PredicatedAccessesIssue :
    clear (maskS 1 64) ⟨stallAddr 1 64, 512, 1, true, 1, activeBytes ((maskS 1 64).me.kr 2) 1⟩ true false ∧
    clear (maskS 1 64) ⟨stallAddr 1 64, 512, 1, true, 1, activeBytes ((maskS 1 64).me.kr 2) 4⟩ true false ∧
    clear (maskS 6 15872) ⟨stallAddr 6 15872, 512, 1, true, 1, []⟩ false true ∧
    clear (maskS 2 512) ⟨stallAddr 2 512, 512, 0, false, 512, activeBytes ((maskS 2 512).me.kr 2) 4⟩ true false ∧
    clear (maskS 2 15872) ⟨stallAddr 2 15872, 512, 0, false, 512, []⟩ false true ∧ (LaneW.e16, 2) ∈ [(LaneW.e8, 1), (.e16, 2), (.e32, 4)] :=
  ⟨isClear (by decide +kernel), isClear (by decide +kernel), isClear (by decide +kernel), isClear (by decide +kernel), isClear (by decide +kernel), by decide⟩

theorem wit_StridedAndAtomicAccessesIssue : let s := at4 1 128
    let at_ := fun j => stallAddr 1 128 + s.me.xr 6 * BitVec.ofNat 64 j
    (∀ j, j < 8 → admitted s ⟨at_ j, 64, 1, true, 1, []⟩ ∧ ∀ i, i < 64 → ¬tainted s (at_ j) i) ∧
      watchHits s.me true false ((List.range 8).map fun j => (at_ j, 64)) = [] ∧
      watchHits s.me false true ((List.range 8).map fun j => (at_ j, 64)) = [] ∧
      clear s ⟨stallAddr 1 128, 8, 1, false, 8, List.range 8⟩ true true ∧
      clear s ⟨stallAddr 1 132, 4, 1, false, 4, List.range 4⟩ true true :=
  ⟨fun j hj => ⟨decided (decAdmitted _ _) (by revert j; decide), fun i hi => refuted (decTainted _ _ _) (by revert j i; decide)⟩, by decide, by decide,
    isClear (by decide +kernel), isClear (by decide +kernel)⟩

def acc (op : AccOp) (due : Nat) : Access := { id := 70, key := 0, agent := 0, born := 2990, due := due, ord := 1, op := op }
def onWay (op : AccOp) (due : Nat) : State := { s0 with accesses := [acc op due] }

theorem wit_NearAccessesPerform :
    (∀ op due, (onWay op due).accesses.find? (fun x => x.id == 70) = some (acc op due)) ∧
    s0.station < (acc (.store [] false) 3001).due ∧ (acc (.store [] false) 3000).due ≤ s0.station ∧
    (∀ e ∈ ([(6, 8)] : List Host.Cell), e.1 ≠ 5) ∧
    (acc (.atom 8 true .add 1 0 [mkPend c0 .A 8 (.x 5) (ones 64) (ones 64)]) 3000).op =
      .atom 8 true .add 1 0 [mkPend c0 .A 8 (.x 5) (ones 64) (ones 64)] ∧
    (mkPend c0 .A 8 (.x 5) (ones 64) (ones 64)).tgt ≠ .flags :=
  ⟨fun _ _ => rfl, by decide, by decide, by decide, rfl, by decide⟩

/-- A watchpoint of loads and stores at the address, with TRAP and without. -/
def watched (ctl : Word) : State := me (at4 1 128) fun c => { c with waddr := [(0, stallAddr 1 128)], wctl := [(0, ctl)] }

theorem wit_WatchpointsMeetAccesses : let a := stallAddr 1 128
    (admitted (watched 7) ⟨a, 8, 1, true, 1, List.range 8⟩ ∧ (∀ i ∈ List.range 8, ¬tainted (watched 7) a i) ∧
      watchHits (watched 7).me true false [(a, 8)] ≠ [] ∧
      ∃ w ∈ watchHits (watched 7).me true false [(a, 8)], ((watched 7).me.wctl.get 0 w).getLsbD 2 = true) ∧
    (admitted (watched 3) ⟨a, 8, 1, true, 1, []⟩ ∧ watchHits (watched 3).me false true [(a, 8)] ≠ [] ∧
      ∀ w ∈ watchHits (watched 3).me false true [(a, 8)], ((watched 3).me.wctl.get 0 w).getLsbD 2 = false) := by
  unfold admitted outside reachable tainted; decide

theorem wit_StagingAndScaleRegisters : quietFor s0 (.ds 0) ∧ quietFor s0 (.ds 7) ∧ quietFor s0 (.gs 0) ∧ quietFor s0 (.gs 7) ∧
    (∀ n ∈ [0, 7], n < 8) ∧ (∀ n ∈ [8, 15], 8 ≤ n ∧ n < 16) ∧ (∀ n ∈ [16, 23], 16 ≤ n ∧ n < 24) ∧ (∀ n ∈ [24, 27], 24 ≤ n ∧ n < 28) ∧
    (∀ n ∈ [28, 63], 28 ≤ n) := by unfold quietFor; decide

/-- The byte at offset 0 of stall 1 holds two turned bits, of byte 0 and of bytes 0 and 1. -/
def spoilt (fs : List Host.Cell) : State := { at4 1 0 with flips := fs }

theorem wit_NearChecksInOrder_mark : let f : AccessForm := ⟨stallAddr 1 0, 8, 1, true, 1, List.range 8⟩
    (admitted (spoilt [(0, 3)]) f ∧ List.range 8 = [] ++ 0 :: [1, 2, 3, 4, 5, 6, 7] ∧ tainted (spoilt [(0, 3)]) f.ea 0) ∧
    (stallAt (spoilt [(0, 3)]) f.ea).phys % 64 = 0 ∧ (stallAt (spoilt [(0, 3)]) f.ea).len ≤ 2 ^ 40 := by
  unfold admitted outside reachable tainted; decide

/-- A load whose word meets an error that cannot be corrected only when it performs, its first 8 bytes sound. -/
theorem wit_NearAccessesPerform_late : let a := acc (.load [(8, 16)] .raw []) 3000
    let s := { spoilt [(16, 1), (17, 1)] with accesses := [a] }
    s.accesses.find? (fun x => x.id == 70) = some a ∧ a.due ≤ s.station ∧ a.named = [] ∧ uncorrectable s (8 + 8) = true ∧
      (∀ i, i < 8 → uncorrectable s (8 + i) = false) ∧ 8 + 16 < 2 ^ 40 ∧ (s.ctx a.key).run = .ready ∧ (s.ctx a.key).async.length < 16 := by decide

theorem wit_NearAccessesPerform_bits : let one := fun (i : Nat) => (i / 8, (BitVec.ofNat 8 (2 ^ (i % 8)) : Byte))
    (3 / 8 = 5 / 8 ∧ (spoilt [(3 / 8, (one 3).2 ^^^ (one 5).2)]).flips = [(0, 40)]) ∧ 3 / 8 ≠ 63 / 8 ∧
    (spoilt [one 3, one 63]).flips = [(0, 8), (7, 128)] := by decide

/-- The list of hits that a decision lists. -/
theorem hitList_of {c : Ctx} {rd wr : Bool} {ps : List (Word × Nat)} {hs : List Nat} (h : hs.Pairwise (· < ·))
    (m : ∀ n, n < 4 → (n ∈ hs ↔ meets c rd wr ps n)) (b : ∀ n ∈ hs, n < 4) : hitList c rd wr ps hs :=
  ⟨h, fun n => ⟨fun e => (m n (b n e)).1 e, fun e => (m n e.1).2 e⟩⟩
def decMeets (c : Ctx) (rd wr : Bool) (ps : List (Word × Nat)) (n : Nat) : Decidable (meets c rd wr ps n) :=
  if h : n < 4 ∧ c.watchOff = false ∧ ((rd = true ∧ (c.wctl.get 0 n).getLsbD 0 = true) ∨ (wr = true ∧ (c.wctl.get 0 n).getLsbD 1 = true)) then
    if g : ∃ g ∈ ps, ∃ i, i < g.2 ∧ (g.1.toNat + i) / 2 ^ ((c.wctl.get 0 n).toNat / 2 ^ 12 % 16 + 3) =
        (c.waddr.get 0 n).toNat / 2 ^ ((c.wctl.get 0 n).toNat / 2 ^ 12 % 16 + 3) then .isTrue ⟨h.1, h.2.1, h.2.2, g⟩
    else .isFalse fun e => g e.2.2.2
  else .isFalse fun e => h ⟨e.1, e.2.1, e.2.2.1⟩
theorem hitsZero {c : Ctx} {rd wr : Bool} {ps : List (Word × Nat)}
    (h : ∀ n, n < 4 → (decMeets c rd wr ps n).decide = decide (n = 0)) : hitList c rd wr ps [0] :=
  hitList_of (by simp) (fun n hn => by
    have e := h n hn
    have d : meets c rd wr ps n ↔ n = 0 := by
      rw [← @decide_eq_true_iff _ (decMeets c rd wr ps n), e, decide_eq_true_iff]
    simp [d]) (by simp)

/-- A load of one piece, a store, a read of ACC, and the chunks of `ldvs` and `stvs` meet watchpoint 0 alone, with TRAP and without. -/
theorem wit_WatchpointsMeetAccesses_hits : let s := fun k => watched k
    let r := me (at4 2 512) fun c => { c with waddr := [(0, stallAddr 2 1016)], wctl := [(0, 1)] }
    let chunks := (List.range 8).map fun j => (stallAddr 1 128 + (64 : Word) * BitVec.ofNat 64 j, 64)
    hitList (s 7).me true false [(stallAddr 1 128, 8)] [0] ∧ hitList (s 3).me false true [(stallAddr 1 128, 8)] [0] ∧
    hitList r.me true false [(stallAddr 2 512, 512)] [0] ∧ accessForm r (.accrd 5 4 0 0) = some (.A, ⟨stallAddr 2 512, 512, 0, false, 512, activeBytes (r.me.kr 0) 4⟩) ∧
    hitList (s 7).me true false chunks [0] ∧ hitList (s 3).me false true chunks [0] ∧
    (∃ w ∈ [0], ((s 7).me.wctl.get 0 w).getLsbD 2 = true) ∧ ¬∃ w ∈ [0], ((s 3).me.wctl.get 0 w).getLsbD 2 = true :=
  ⟨hitsZero (by decide +kernel), hitsZero (by decide +kernel), hitsZero (by decide +kernel), rfl, hitsZero (by decide +kernel),
    hitsZero (by decide +kernel), by decide, by decide⟩

theorem wit_WatchpointsMeetAccesses_admitted : (let s := watched 3
      ∀ j, j < 8 → admitted s ⟨stallAddr 1 128 + BitVec.ofNat 64 (64 * j), 64, 1, true, 1, []⟩) ∧
    (let r := at4 2 512
     admitted r ⟨stallAddr 2 512, 512, 0, false, 512, []⟩ ∧ (r.core r.myCore).tack.locks = []) := by
  unfold admitted outside reachable; decide

/-! #### The vector slots -/

/-- The conditions on the writes under way and on the destination that stand in `VectorWrites`, for every vector statement. -/
theorem wit_VectorWrites : quietFor s0 (.v 5) ∧ quietFor s0 (vPort .v0) ∧ quietFlags s0 ∧ quietFor s0 (.k 3) ∧ quietFor s0 (.k 0) ∧
    (767 : VCode).toNat < 768 ∧ (5 : VCode).toNat ≠ 774 ∧ quietFor s0 (.v 767) := by
  have h : ∀ p ∈ s0.me.pend, False := by decide
  refine ⟨fun p m => (h p m).elim, fun p m => (h p m).elim, fun p m => (h p m).elim, fun p m => (h p m).elim, fun p m => (h p m).elim,
    by decide, by decide, fun p m => (h p m).elim⟩

theorem wit_VectorLaneResults : Fmt.i8.isInt = true ∧ Fmt.i8.signed = true ∧ Fmt.n32.isInt = true ∧ Fmt.n4.isInt = true := by decide

theorem wit_VectorComparesBitsAndSelect : Fmt.i4.isInt = true ∧ (3 : KNum) ≠ 0 ∧ (7 : Nat) < 2 ^ Fmt.i4.width ∧ 3 < Fmt.i4.width := by decide

theorem wit_WideningMultiplies : Fmt.i8.isInt = true ∧ (764 : VCode).toNat < 768 ∧ Fmt.i8.width * 4 ≤ 32 ∧ Fmt.n16.width * 2 ≤ 32 ∧
    (Widen.quad, 4) ∈ [(Widen.pair, 2), (.quad, 4)] := by decide

theorem wit_VectorReductions : Fmt.i8.isInt = true ∧ (∃ j, j < Fmt.i8.lanes ∧ (c0.kr 0).getLsbD j = true) ∧
    ¬∃ j, j < Fmt.i8.lanes ∧ (c0.kr 3).getLsbD j = true :=
  ⟨rfl, ⟨0, by decide, by decide +kernel⟩, fun ⟨j, h, e⟩ =>
    absurd e ((by decide +kernel : ∀ j, j < 512 → ¬(c0.kr 3).getLsbD j = true) j h)⟩

theorem wit_VectorPermutes : (511 : BitVec 10).toNat < Fmt.i8.lanes ∧ (127 : BitVec 10).toNat < Fmt.f32.lanes := by decide

theorem wit_PacksAndUnpacks : Fmt.i16.isInt = true ∧ Fmt.i16.width ≤ 16 ∧ Fmt.n4.isInt = true ∧ Fmt.n4.width ≤ 16 := by decide

theorem wit_WeightPacking : (Fmt.i8 = .i8 ∨ Fmt.i8 = .n8) ∧ (Fmt.n8 = .i8 ∨ Fmt.n8 = .n8) ∧ (2 : BitVec 10).toNat ≤ 2 ∧
    (-128 : Int) ≤ 255 ∧ (255 : Int) ≤ 255 := by decide

theorem wit_RoundingIsExact : Fmt.e4m3.isFloat = true ∧ (0 : Nat) < 464 ∧ (0 : Nat) < 1 ∧ finiteCode .e4m3 0x7E ∧ fsign .e4m3 0x7E = false ∧
    ¬finiteCode .e4m3 0x7F := by unfold finiteCode; decide

/-- Codes of f32: one, a negative, both zeros, both infinities, a quiet and a signalling NaN, the least positive. -/
theorem wit_FloatArithmetic : (Fmt.f32 = .f32 ∨ Fmt.f32 = .f16 ∨ Fmt.f32 = .bf16) ∧ (0x3F800000 : Nat) < 2 ^ Fmt.f32.width ∧
    (∀ x ∈ [0x3F800000, 0xC0400000, 0, 2 ^ 31, 1], finiteCode .f32 x ∧ isNaN .f32 x = false) ∧
    isInf .f32 0x7F800000 = true ∧ isNaN .f32 0x7F800000 = false ∧ isZero .f32 0 = true ∧ isInf .f32 0x3F800000 = false ∧
    (∀ x ∈ [0x7FC00000, 0xFF800001], isNaN .f32 x = true) := by unfold finiteCode; decide

theorem wit_FloatSelectsComparesAndSums : Fmt.e5m2.isFloat = true ∧ Fmt.f16.isFloat = true ∧ Fmt.f16.arith = true ∧
    (0x8000 : Nat) < 2 ^ Fmt.f16.width ∧ isNaN .f16 0 = false ∧ isNaN .f16 0x8000 = false ∧
    (fval .f16 0x8000 = fval .f16 0 ∧ fsign .f16 0x8000 = true ∧ fsign .f16 0 = false) ∧ ¬(fval .f16 0x3C00 < fval .f16 0) := by decide

theorem wit_Conversions : (Fmt.f32.isFloat = true ∧ Fmt.f32 ≠ .e4m3 ∧ max Fmt.f32.width Fmt.e4m3.width ≤ 4 * min Fmt.f32.width Fmt.e4m3.width) ∧
    (Fmt.i8.isInt = true ∧ Fmt.f32.isFloat = true ∧ isNaN .f32 0x7FC00000 = true ∧ isInf .f32 0xFF800000 = true ∧ finiteCode .f32 0x42FF0000) ∧
    (Fmt.n32.isInt = true ∧ Fmt.bf16.isFloat = true ∧ max Fmt.bf16.width Fmt.n32.width ≤ 4 * min Fmt.bf16.width Fmt.n32.width) := by
  unfold finiteCode; decide

/-- Block 0 holds a one, block 1 a NaN, block 2 an infinity; the scale of block 3 is 255. -/
def blocks : State := me s0 fun c => { c with v := [(1, BitVec.ofNat 4096 (0x3F800000 + 0x7FC00000 * 2 ^ 1024 + 0x7F800000 * 2 ^ 2048)),
  (2, BitVec.ofNat 4096 (255 * 2 ^ 24))] }

theorem wit_BlockFixedTransforms : (∀ i ∈ [0, 32, 64, 96], (blocks.me.kr 0).getLsbD i = true) ∧
    finiteCode .f32 (srcCode .f32 1 blocks.me 0) ∧ isNaN .f32 (srcCode .f32 1 blocks.me 32) = true ∧ isInf .f32 (srcCode .f32 1 blocks.me 64) = true ∧
    lane (blocks.me.vr 2) 8 3 = 255 ∧ lane (blocks.me.vr 2) 8 0 ≠ 255 ∧
    ¬(∃ i, (32 * 0 ≤ i ∧ i < 32 * 0 + 32 ∧ (blocks.me.kr 0).getLsbD i = true) ∧ isNaN .f32 (srcCode .f32 1 blocks.me i) = true) := by
  unfold finiteCode
  refine ⟨by decide +kernel, by decide +kernel, by decide +kernel, by decide +kernel, by decide +kernel, by decide +kernel, ?_⟩
  intro ⟨i, ⟨_, h, _⟩, hn⟩
  exact absurd hn ((by decide +kernel : ∀ i, i < 32 → isNaN .f32 (srcCode .f32 1 blocks.me i) ≠ true) i h)

theorem wit_SpecialFunctions :
    (isNaN .f32 0x3F800000 = false ∧ isInf .f32 0x3F800000 = false ∧ isZero .f32 0x3F800000 = false ∧ fsign .f32 0x3F800000 = false) ∧
    (isNaN .f32 0xC0000000 = false ∧ isInf .f32 0xC0000000 = false ∧ isZero .f32 0xC0000000 = false ∧ fsign .f32 0xC0000000 = true) ∧
    isNaN .f32 0x7F800001 = true ∧ fval .f32 0x3F800000 = 1 * 2 ^ 149 ∧ (fval .f32 0x3F800000).natAbs = 2 ^ 149 ∧
    2 ^ 298 ≤ (fval .f32 0x7F7FFFFF).natAbs * (fval .f32 0x3F800000).natAbs ∧ (fval .f32 0x7F7FFFFF).natAbs * (fval .f32 1).natAbs < 2 ^ 298 := by
  decide +kernel

/-- Lane 0 of v1 to v3 holds 5, 9, 9; of v1 in f32 a NaN for lane 1. -/
def trio : Ctx := { c0 with v := [(1, 5 + 0x7F800001 * 2 ^ 32), (2, 9), (3, 9)] }

theorem wit_WitnessReductions : Fmt.i16.witness = true ∧ Fmt.f32.witness = true ∧ 0 < (3 : BitVec 7).toNat ∧ Fmt.i16.isInt = true ∧
    (∃ j, j < 3 ∧ Fmt.f32.isFloat = true ∧ isNaN .f32 (lane (trio.vr (1 + j)) 32 1) = true) ∧
    (∀ j, j < 3 → ¬(Fmt.f32.isFloat = true ∧ isNaN .f32 (lane (trio.vr (1 + j)) 32 0) = true)) ∧
    (rankOf .i16 5 < rankOf .i16 9 ∧ ¬rankOf .i16 9 < rankOf .i16 9) ∧
    (∃ j, j < 3 ∧ clampTo .i16 (32767 + rankOf .i16 5) ≠ 32767 + rankOf .i16 5) := by
  refine ⟨rfl, rfl, by decide +kernel, rfl, ⟨0, by decide +kernel⟩, by decide +kernel, by decide +kernel, ⟨0, by decide +kernel⟩⟩

/-- A fresh header of `wmax` over three registers of i16 lanes, generation 5, and the expectation. -/
def adjS (gen n d : Nat) : State := me s0 fun c => { c with
  v := [(9, BitVec.ofNat 4096 (5 * 2 ^ 48 + 256 * 2 ^ 32 + 3 * 2 ^ 24 + d * 2 ^ 20 + 2 ^ 16))], x := [(7, BitVec.ofNat 64 (gen + 2 ^ 16 + n * 2 ^ 20))] }

theorem wit_AdjointBroadcast : let h := fun s : State => (s.me.vr 9).toNat % 2 ^ 64
    let e := fun s : State => (s.me.xr 7).toNat
    (h (adjS 5 3 1) / 2 ^ 20 % 16 = Fmt.i16.code ∧ h (adjS 5 3 1) % 2 ^ 16 = 0 ∧ h (adjS 5 3 1) / 2 ^ 41 % 2 ^ 7 = 0 ∧ h (adjS 5 3 1) / 2 ^ 16 % 16 = 1 ∧
      h (adjS 5 3 1) / 2 ^ 32 % 2 ^ 9 = Fmt.i16.lanes ∧ h (adjS 5 3 1) / 2 ^ 48 = e (adjS 5 3 1) % 2 ^ 16 ∧
      e (adjS 5 3 1) / 2 ^ 16 % 16 = 1 ∧ h (adjS 5 3 1) / 2 ^ 24 % 2 ^ 8 = e (adjS 5 3 1) / 2 ^ 20 % 2 ^ 7) ∧
    h (adjS 6 3 1) / 2 ^ 48 ≠ e (adjS 6 3 1) % 2 ^ 16 ∧
    (768 < 766 + e (adjS 5 3 1) / 2 ^ 20 % 2 ^ 7) ∧ ¬(768 < 20 + e (adjS 5 3 1) / 2 ^ 20 % 2 ^ 7) := by decide +kernel

/-! #### The system unit -/

/-- x16 to x19. -/
def x16 (a b c d : Nat) : State := withX [(16, BitVec.ofNat 64 a), (17, BitVec.ofNat 64 b), (18, BitVec.ofNat 64 c), (19, BitVec.ofNat 64 d)]
def adn (id off : Nat) : Nat := 2 ^ 63 + id * 2 ^ 48 + off
/-- A child of stall 1, charged to another account. -/
def st9 : Stall := { id := 9, len := 8, paid := 50, level := 1, core := 0, acct := 4, rate := 32, parent := 1, phys := 64, st := .overstay }
def withChild (a b c d : Nat) : State := devM (x16 a b c d) fun v => { v with stalls := v.stalls.set {} 9 st9 }
def decNamed (s : State) (a : Word) (y : Stall) : Decidable (named s a y) := by unfold named; infer_instance

theorem wit_RentalOperations_payments : (17 : XNum).toNat % 2 ≠ 0 ∧ (16 : XNum).toNat % 2 = 0 ∧
    (operandReg (x16 5 0 0 0) 16 0).getLsbD 63 = false ∧
    ((operandReg (x16 (adn 10 0) 0 0 0) 16 0).getLsbD 63 = true ∧ ((x16 (adn 10 0) 0 0 0).stall 1 10).id = 0) ∧
    (named (withChild (adn 9 0) 10 0 0) (operandReg (withChild (adn 9 0) 10 0 0) 16 0) st9 ∧ (withChild 0 0 0 0).me.ring = .user ∧
      st9.acct ≠ (withChild 0 0 0 0).me.acct ∧ st9.st ≠ .active) ∧
    (named (x16 (adn 1 0) 10 0 0) (operandReg (x16 (adn 1 0) 10 0 0) 16 0) st1 ∧ ¬(s0.me.ring = .user ∧ st1.acct ≠ s0.me.acct) ∧
      st1.id = addrStall (operandReg (x16 (adn 1 0) 10 0 0) 16 0) ∧ st1.st = .active) ∧
    ¬(∃ y, named (x16 (adn 10 0) 0 0 0) (operandReg (x16 (adn 10 0) 0 0 0) 16 0) y) :=
  ⟨by decide, by decide, by decide, by decide, ⟨decided (decNamed _ _ _) (by decide), by decide, by decide, by decide⟩,
    ⟨decided (decNamed _ _ _) (by decide), by decide, by decide, by decide⟩, fun ⟨_, _, _, h, n⟩ => n (h ▸ by decide)⟩

/-- Each clause of `rent`: the terms of x16, x17 and x18, and the lowest free id 8 with the first free granule of its level. -/
theorem wit_RentalOperations_rent : (17 : XNum).toNat % 4 ≠ 0 ∧ (16 : XNum).toNat % 4 = 0 ∧
    (6 ≤ (operandReg (x16 6 64 10 0) 16 0).toNat % 8) ∧
    ((operandReg (x16 (1 + 32 + 2 ^ 32) 64 5 0) 16 0).toNat.testBit 5 = true ∧ (operandReg (x16 (1 + 32 + 2 ^ 32) 64 5 0) 16 0).toNat % 8 < 3) ∧
    (operandReg (x16 1 0 10 0) 16 1).toNat = 0 ∧ (operandReg (x16 1 64 0 0) 16 2).toNat % 2 ^ 32 = 0 ∧
    (2 ^ 34 < (operandReg (x16 3 (2 ^ 35) 10 0) 16 1).toNat) ∧
    (1 ≤ 8 ∧ 8 ≤ 32767 ∧ ((x16 1 64 10 0).dev 1 |>.stall 8).id = 0 ∧ ∀ j, j < 8 → 1 ≤ j → ((x16 1 64 10 0).dev 1 |>.stall j).id ≠ 0) ∧
    (∀ u ∈ nearUsed (x16 1 64 10 0), u.hi % 64 = 0) ∧
    (320 + 64 ≤ nearGranules 1 ∧ ∀ u ∈ nearUsed (x16 1 64 10 0),
      u.hi ≤ nearBase 0 1 + 64 * 320 ∨ nearBase 0 1 + 64 * (320 + 64) ≤ u.lo) ∧
    ((x16 1 64 10 0).dev 1).accts.get 0 3 ≥ 10 * ((x16 1 64 10 0).dev 1).rates.get 0 1 * 64 ∧ ((x16 1 64 10 0).dev 1).accts.get 0 3 < 2 ^ 63 ∧
    ((devM (x16 1 64 10 0) fun d => { d with accts := [(3, -1)] }).dev 1).accts.get 0 3 < 0 := by decide

theorem wit_RentalOperations_rent_far : let s := { x16 3 64 10 0 with poolHbm := [40, 24] }
    3 ≤ (operandReg s 16 0).toNat % 8 ∧ (operandReg s 16 1).toNat ≤ 2 ^ 34 ∧ (operandReg s 16 1).toNat ≤ s.poolHbm.sum := by decide

/-- Each clause of `sublet`: the end of the parent, an offset that is not a multiple of 32 at ACC, an expired parent. -/
theorem wit_RentalOperations_sublet : let p := fun s => operandReg s 16
    (p (x16 5 0 1 10) 0).getLsbD 63 = false ∧
    (named (x16 (adn 1 0) 200 56 (10 + 3 * 2 ^ 32)) (p (x16 (adn 1 0) 200 56 (10 + 3 * 2 ^ 32)) 0) st1 ∧ ¬(st1.level = 0) ∧
      ¬(st1.len < (p (x16 (adn 1 0) 200 56 (10 + 3 * 2 ^ 32)) 1).toNat + (p (x16 (adn 1 0) 200 56 (10 + 3 * 2 ^ 32)) 2).toNat) ∧ st1.st = .active ∧
      st1.children < 255 ∧ (p (x16 (adn 1 0) 200 56 (10 + 3 * 2 ^ 32)) 3).toNat / 2 ^ 32 % 256 = s0.me.acct) ∧
    (st1.len < (p (x16 (adn 1 0) 200 57 (10 + 3 * 2 ^ 32)) 1).toNat + (p (x16 (adn 1 0) 200 57 (10 + 3 * 2 ^ 32)) 2).toNat) ∧
    (named (x16 (adn 2 0) 31 32 (10 + 3 * 2 ^ 32)) (p (x16 (adn 2 0) 31 32 (10 + 3 * 2 ^ 32)) 0) st2 ∧ st2.level = 0 ∧ 31 % 32 ≠ 0) ∧
    (named (withChild (adn 9 0) 0 8 (10 + 3 * 2 ^ 32)) (p (withChild (adn 9 0) 0 8 (10 + 3 * 2 ^ 32)) 0) st9 ∧ st9.st ≠ .active ∧ ¬(st9.len < 0 + 8)) ∧
    (p (x16 (adn 1 0) 0 8 (10 + 4 * 2 ^ 32)) 3).toNat / 2 ^ 32 % 256 ≠ s0.me.acct ∧ s0.me.ring = .user :=
  ⟨by decide, ⟨decided (decNamed _ _ _) (by decide), by decide, by decide, by decide, by decide, by decide⟩, by decide,
    ⟨decided (decNamed _ _ _) (by decide), by decide, by decide⟩, ⟨decided (decNamed _ _ _) (by decide), by decide, by decide⟩,
    by decide, by decide⟩

def pop1 : State := me (withX [(16, 5)]) fun c => { c with evq := [2 ^ 200 + 5, 7], evres := 3 }
def access (op : AccOp) (due born : Nat) : Access := { id := 70, key := 0, agent := 0, born := born, due := due, ord := 1, op := op }
def cmd0 : Cmd := { id := 12, own := own0, group := false, code := 1, low := 0, timed := false, rkey := 0, cookie := 1, seq := 1, st := [], gfmt := 0,
                    accepted := 2000, tstart := 1 }

theorem onTheWay (b : Bool) : earlierOwn { s0 with accesses := [access (.store [] b) 3001 2999] } (access (.store [] b) 3001 2999) :=
  ⟨List.mem_singleton_self _, by cases b <;> decide⟩

theorem wit_QueuesFencesAndWakes : s0.me.evq = [] ∧ pop1.me.evq ≠ [] ∧ pop1.me.evq = (2 ^ 200 + 5) :: [7] ∧ (16 : XNum).toNat % 4 = 0 ∧
    (18 : XNum).toNat % 4 ≠ 0 ∧ (∀ l ∈ (pop1.core pop1.myCore).tack.locks, l.own ≠ pop1.owner ∨ l.record ≠ some (2 ^ 200 + 5)) ∧
    FenceKind.full ≠ .acq ∧ uncommitted (me s0 fun c => { c with sbuf := [(1, [])] }) ∧
    uncommitted { s0 with accesses := [access (.store [] true) 3001 2999] } ∧
    storesLate { s0 with accesses := [access (.store [] false) 3001 2999] } ∧
    (∃ id c, (id, some c) ∈ ({ s0 with cmds := [(12, some cmd0)] } : State).cmds ∧ c.own.key = s0.cur ∧ c.own.launch = s0.me.launch ∧
      c.accepted < s0.station ∧ c.stage ≠ .posted) ∧
    (s0.me.sbuf = [] ∧ (∀ a ∈ s0.accesses, False) ∧ (∀ e ∈ s0.cmds, False)) ∧
    (2047 / 1024 < s0.tick ∧ ¬(2048 / 1024 < s0.tick) ∧ s0.tick = 2) ∧
    ((devM s0 fun d => { d with en := false }).me.dev = 1) ∧ ((devM s0 fun d => { d with en := false }).dev 1).en = false ∧
    ((devM s0 fun d => { d with tokens := 0 }).dev 1).en = true ∧ ((devM s0 fun d => { d with tokens := 0 }).dev 1).tokens = 0 ∧
    (let d := (devM s0 fun d => { d with tokens := 1, subSize := 4095, subHead := 4095 }).dev 1
    d.en = true ∧ 0 < d.tokens ∧ d.subHead ≤ d.subSize ∧ d.subSize < 4096 ∧ d.subHead ≠ 5 % (d.subSize + 1)) :=
  ⟨by decide, by decide, by decide, by decide, by decide, by decide, by decide, .inl (by decide), .inr ⟨_, onTheWay true, [], rfl⟩,
    ⟨_, onTheWay false, by decide, [], false, rfl⟩, ⟨12, cmd0, by decide⟩, by decide, by decide,
    by decide, by decide, by decide, by decide, by decide⟩

/-- HBM and LOFT without room, TIER without room in either; room and an overdrawn account. -/
theorem wit_RentalOperations_rent_far_room : let s := fun l => { x16 l 64 10 0 with poolHbm := [40], poolLoft := [40] }
    let broke := devM { x16 3 64 10 0 with poolHbm := [40, 24] } fun d => { d with accts := [(3, -1)] }
    (3 ≤ (operandReg (s 3) 16 0).toNat % 8 ∧ (operandReg (s 5) 16 0).toNat % 8 = 5 ∧ (operandReg (s 4) 16 0).toNat % 8 = 4 ∧
      ¬(64 ≤ (s 3).poolHbm.sum) ∧ ¬(64 ≤ (s 5).poolLoft.sum) ∧ ¬((64 + 1023) / 1024 - 40 / 1024 ≤ ((s 4).poolHbm.map (· / 1024)).sum)) ∧
    (64 ≤ broke.poolHbm.sum ∧ (broke.dev 1).accts.get 0 3 < 0) := by decide

/-! #### Job-control blocks, launches, traps -/

/-- A block at offset 64 of stall 1: EXPECTED, DONE, STATE and the bits above. -/
def jcb (exp done st hi n : Nat) : State := wr (x16 (adn 1 64) n 0 0) 64 64 (exp + done * 2 ^ 32 + st * 2 ^ 64 + hi)
def decBlock (s : State) (a : Word) (y : Stall) : Decidable (blockAt s a y) := by unfold blockAt; infer_instance
def decSettled (s : State) : Decidable (settled s) := by unfold settled; infer_instance
def decRoom (c : Ctx) : Decidable (hasRoom c) := by unfold hasRoom; infer_instance

theorem wit_JobControlAndLaunch_blocks : let w := fun s => bytesToNat (State.mem s |>.readN 64 64)
    (settled (jcb 0 0 0 0 3) ∧ blockAt (jcb 0 0 0 0 3) ((jcb 0 0 0 0 3).me.xr 16) st1 ∧ hasRoom (jcb 0 0 0 0 3).me ∧ (jcb 0 0 0 0 3).cur < 256 ∧
      (∀ e ∈ (jcb 0 0 0 0 3).armed, e.1 ≠ 64) ∧ (jcb 0 0 0 0 3).me.hold = none) ∧
    (w (jcb 0 0 0 0 3) / 2 ^ 64 % 4 = 0 ∧ w (jcb 3 1 1 0 3) / 2 ^ 64 % 4 = 1 ∧ w (jcb 3 3 2 0 0) / 2 ^ 64 % 4 = 2) ∧
    (w (jcb 3 1 1 0 3) % 2 ^ 32 = 3 ∧ w (jcb 3 1 1 0 3) / 2 ^ 32 % 2 ^ 32 = 1 ∧ (w (jcb 3 1 1 0 3)).testBit 256 = false ∧
      (w (jcb (2 ^ 32 - 1) 0 1 (2 ^ 256) 1)).testBit 256 = true ∧ w (jcb (2 ^ 32 - 1) 0 1 (2 ^ 256) 1) % 2 ^ 32 + 1 = 2 ^ 32) ∧
    (w (jcb 3 2 1 0 3) / 2 ^ 32 % 2 ^ 32 + 1 = w (jcb 3 2 1 0 3) % 2 ^ 32) ∧ (w (jcb 3 3 1 0 3) / 2 ^ 32 % 2 ^ 32 = w (jcb 3 3 1 0 3) % 2 ^ 32) ∧
    ¬hasRoom (me s0 fun c => { c with evres := 64 }).me ∧
    ({ jcb 3 2 1 0 3 with armed := [(64, own0)] } : State).armed.find? (fun e => e.1 == 64) = some (64, own0) ∧
    (let s := me (jcb 3 1 1 0 3) fun c => { c with sbuf := [(1, [])] }
     blockAt s (s.me.xr 16) st1 ∧ uncommitted s ∧ jcbWord s 64 / 2 ^ 64 % 4 = 1 ∧ jcbWord s 64 / 2 ^ 32 % 2 ^ 32 ≠ jcbWord s 64 % 2 ^ 32) ∧
    (let s := { jcb 3 1 1 0 3 with accesses := [access (.store [] false) 3001 2999] }
     blockAt s (s.me.xr 16) st1 ∧ storesLate s ∧ s.me.sbuf = [] ∧ jcbWord s 64 / 2 ^ 64 % 4 = 1) :=
  ⟨⟨decided (decSettled _) (by decide), decided (decBlock _ _ _) (by decide), decided (decRoom _) (by decide), by decide, by decide, by decide⟩,
    by decide +kernel, by decide +kernel, by decide +kernel, by decide +kernel, refuted (decRoom _) (by decide), by decide,
    ⟨decided (decBlock _ _ _) (by decide), .inl (by decide), by decide +kernel, by decide +kernel⟩,
    ⟨decided (decBlock _ _ _) (by decide), ⟨_, ⟨List.mem_singleton_self _, by decide⟩, by decide, [], false, rfl⟩, rfl, by decide +kernel⟩⟩

/-- The address checks: not a stall, an end of the stall passed, a block that is not aligned, a stall of another level or without SYNC,
one that is not held. -/
theorem wit_JobControlAndLaunch_addresses :
    ((x16 5 0 0 0).me.xr 16).getLsbD 63 = false ∧ (stallAt (x16 (adn 12 0) 3 0 0) (stallAddr 12 0)).id = 0 ∧
    64 * (stallAt s0 (stallAddr 1 16384)).len < addrOffset (stallAddr 1 16384) + 64 ∧ addrOffset (stallAddr 1 8) % 64 ≠ 0 ∧
    ((stallAt s0 (stallAddr 2 0)).level ≠ 1 ∧ addrOffset (stallAddr 2 0) + 64 ≤ 64 * (stallAt s0 (stallAddr 2 0)).len) ∧
    ((stallAt s0 (stallAddr 7 0)).level = 1 ∧ (stallAt s0 (stallAddr 7 0)).sync = false) ∧
    (let t := devM s0 fun d => { d with stalls := d.stalls.set {} 1 { st1 with paid := 2 } }
    (stallAt t (stallAddr 1 0)).level = 1 ∧ (stallAt t (stallAddr 1 0)).sync = true ∧ (stallAt t (stallAddr 1 0)).paid ≤ t.tick) := by decide

/-- A launch record at the start of stall 1: its image, with code at offset 64, in stall 3, account 3,
one level of one context, in paddock 1, which holds core 0. -/
def launchS : State := wr (wr { x16 (adn 1 0) 5 0 0 with paddocks := [(0, 1)] } 0 32 (adn 3 0 + (3 * 2 ^ 40 + 2 ^ 28 + 2 ^ 16) * 2 ^ 64 + 2 ^ 32 * 2 ^ 192)) (2 ^ 23 + 2 ^ 22) 64 (64 + 4 * 2 ^ 32)
def launchF (i o : Nat) : AccessForm := ⟨stallAddr i o, 256, 1, false, 256, List.range 256⟩
/-- The record as it is read. -/
def recL : LaunchRec :=
  { kimg := stallAddr 3 0, mode := false, prio := 0, snap := false, nlev := 1, nstall := 0, paddock := 1, waitlim := 0, acct := 3, group := 0, resv := false,
    donej := 0, levels := [{ extent := 1, scope := 0, domain := 0 }], args := List.replicate 8 0, deps := [0, 0], entries := [] }

theorem launchS_record : parseRecord (launchS.mem.readN 0 256) = recL := by decide +kernel
theorem launchS_image : imageOk (launchS.mem.readN (2 ^ 23 + 2 ^ 22) 64) 4096 = true := by decide +kernel

theorem launchS_ok : recordOk launchS 1 recL = true := by
  have hx : (launchS.dev 1).stall (addrStall recL.kimg) = st3 := by decide
  have hi : imageOk (launchS.mem.readN st3.phys 64) (64 * st3.len) = true := launchS_image
  simp only [recordOk, hx, hi]
  decide +kernel

theorem launchS_clean (j : Nat) : ¬tainted launchS (stallAddr 1 0) j := by
  intro h
  have e : launchS.poison = [] := rfl
  have f : launchS.flips = [] := rfl
  unfold tainted poisonedAt at h
  rw [e, f] at h
  exact absurd h (by simp)

theorem wit_JobControlAndLaunch_launch :
    outside launchS (launchF 1 16384) ∧ outside launchS (launchF 1 128) ∧ (¬outside launchS (launchF 6 0) ∧ ¬reachable launchS (launchF 6 0)) ∧
    (¬outside launchS (launchF 5 0) ∧ reachable launchS (launchF 5 0) ∧ ¬(launchS.tick < (stallAt launchS (stallAddr 5 0)).paid)) ∧
    (admitted launchS (launchF 1 0) ∧ settled launchS ∧ ∀ j, j < 256 → ¬tainted launchS (stallAddr 1 0) j) ∧
    (me launchS fun c => { c with sbuf := [(1, [])] }).me.sbuf ≠ [] ∧
    parseRecord (launchS.mem.readN 0 256) = recL ∧ recL.acct = launchS.me.acct ∧ (launchS.dev 1).en = true ∧
    (deviceLaunches launchS 1).length = 0 ∧ recordOk launchS 1 recL = true ∧
    (∀ d ∈ recL.deps, d = 0) ∧
    (parseRecord ((x16 (adn 1 0) 5 0 0).mem.readN 0 256)).acct ≠ s0.me.acct ∧ s0.me.ring = .user :=
  ⟨decided (decOutside _ _) (by decide +kernel), decided (decOutside _ _) (by decide +kernel), ⟨refuted (decOutside _ _) (by decide +kernel), refuted (decReachable _ _) (by decide +kernel)⟩,
    ⟨refuted (decOutside _ _) (by decide +kernel), decided (decReachable _ _) (by decide +kernel), by decide⟩,
    ⟨decided (decAdmitted _ _) (by decide +kernel), decided (decSettled _) (by decide +kernel), fun _ _ => launchS_clean _⟩,
    by decide, launchS_record, by decide, by decide, by decide, launchS_ok, by simp [recL], by decide +kernel, by decide⟩

/-- A handler, a write and two transfers under way. -/
def trapS (r : CRing) : State := (me (devM s0 fun d => { d with dhimg := adn 1 0 }) fun c =>
  { c with ring := r, xfers := [⟨51, 400⟩, ⟨52, 601⟩], pend := [mkPend c0 .S0 3 (.x 3) (ones 64) 7] }).setCore 0 { hcode := [1, 2, 3, 4] }

theorem wit_TrapsAndReturns : (trapS .user).me.run = .ready ∧ (trapS .user).me.ring = .user ∧
    ((trapS .user).dev 1).dhimg ≠ 0 ∧ ((trapS .user).core 0).hcode ≠ [] ∧
    (let s := me (trapS .user) fun c => { c with async := [⟨2000, 0x20, 77⟩] }
    s.me.async = [⟨2000, 0x20, 77⟩] ∧ s.me.trapReq = none ∧ s.me.hold = none ∧ 2000 < s.station) ∧
    (let c : Async := ⟨2000, 0x20, 77⟩
     let l : List Async := [⟨2001, 0x10, 5⟩, ⟨2000, 0x22, 6⟩, c]
     c ∈ l ∧ ∀ d ∈ l, d.cycle < 3000 ∧ (d = c ∨ c.cycle < d.cycle ∨ (c.cycle = d.cycle ∧ c.code < d.code))) ∧
    (s0.me.ring = .user ∧ (s0.dev 1).dhimg = 0) ∧ (trapS .driver).me.ring = .driver ∧
    (trapS .user).me.xfers.find? (fun f => f.at_ == 50 + 1) = some ⟨51, 400⟩ ∧
    (s0.me.sbuf = [] ∧ (∀ a ∈ s0.accesses, a.key ≠ s0.cur) ∧ (s0.core 0).eng.queue = [] ∧ (s0.core 0).tack.queue = [] ∧
      (s0.core 0).tack.running = none ∧ s0.cmds = []) ∧
    (∃ l, ({ s0 with launches := [(9, some { id := 9, dev := 1, record := parseRecord [], recAddr := 0, reporter := none, live := 1 })] } : State).launch
      9 = some l ∧ l.id = 9 ∧ l.live ≤ 1) :=
  ⟨by decide, by decide, by decide, by decide, by decide, by decide, by decide, by decide, by decide, by decide, _, rfl, rfl, by decide⟩

theorem wit_TrapsAndReturns_no_control_register_written : ∀ p ∈ (trapS .user).me.pend, ∀ m, p.tgt ≠ .csr m := by
  intro p hp m
  have h : ∀ p ∈ (trapS .user).me.pend, p.tgt = .x 3 := by decide
  rw [h p hp]; exact Tgt.noConfusion

/-- `eret` back to the idle head at 0 with IDLEREM 5, and to the end of loop 2; `halt` with a command of the context that has no record. -/
theorem wit_TrapsAndReturns_returns :
    (let s := me ((trapS .driver).setCore 0 { code := [4, 0xC0, 4, 0xC0] }) fun c => { c with idleRem := 5, lend := [(2, 0)], trapD := { c.trapD with cause := BitVec.ofNat 64 (2 ^ 30) } }
     s.me.ring = .driver ∧ headAt (codeOf (s.core 0) .user) 0 = .idle 5 ∧ 1 < s.me.idleRem ∧
       s.me.trapD.cause.getLsbD (28 + 2) = true ∧ s.me.lend.get 0 2 = 0 ∧
       (∀ j, j < 4 → j ≠ 2 → s.me.trapD.cause.getLsbD (28 + j) = false)) ∧
    (∃ id c, (id, some c) ∈ ({ s0 with cmds := [(12, some cmd0)] } : State).cmds ∧ c.own.key = s0.cur ∧ c.own.launch = s0.me.launch ∧
      c.accepted < s0.station ∧ c.stage ≠ .posted) :=
  ⟨by decide, 12, cmd0, by decide⟩

theorem clean {s : State} {a : Word} {n : Nat} (e : s.poison = []) (f : s.flips = []) : sound s a n := by
  intro j _ h
  unfold tainted poisonedAt at h
  rw [e, f] at h
  exact absurd h (by simp)

/-- A block that is sound, and one whose granule is poisoned; a launch record of which the third granule is. -/
theorem wit_JobControlAndLaunch_poison : (sound (jcb 3 1 1 0 3) ((jcb 3 1 1 0 3).me.xr 16) 64 ∧ (jcb 3 1 1 0 3).flips = []) ∧
    (let s := { jcb 3 1 1 0 3 with poison := [1] }
     blockAt s (s.me.xr 16) st1 ∧ tainted s (s.me.xr 16) 0 ∧ sound s (s.me.xr 16) 0) ∧
    (let s := { launchS with poison := [2] }
     admitted s (launchF 1 0) ∧ tainted s (stallAddr 1 0) 128 ∧ sound s (stallAddr 1 0) 128) ∧
    sound launchS (stallAddr 1 0) 256 ∧ launchS.flips = [] ∧
    ((trapS .user).flips = [] ∨ ∀ a ∈ (trapS .user).accesses, a.key ≠ (trapS .user).cur ∨ a.agent ≠ 0) :=
  ⟨⟨clean rfl rfl, rfl⟩, ⟨decided (decBlock _ _ _) (by decide), decided (decTainted _ _ _) (by decide), fun j h => absurd h (Nat.not_lt_zero j)⟩,
    ⟨decided (decAdmitted _ _) (by decide +kernel), decided (decTainted _ _ _) (by decide), fun j h => refuted (decTainted _ _ _) (by revert j; decide +kernel)⟩,
    clean rfl rfl, rfl, .inl rfl⟩

/-! #### Micro-ops -/

def rt0 : Routine := { own := own0, idx := 1, snap := [stallAddr 1 0, stallAddr 2 0, 3, 7, stallAddr 2 2048, 0xFFFFFFFF, stallAddr 1 8192, 1], start := 2000,
                       pc := 5, issued := 2990, liens := [1, 2] }
/-- With two open loops: the inner one in its last run, its stage predicates 0110. -/
def rtL : Routine := { rt0 with loops := [⟨2, 3, 4, 3, [false, true, true, false]⟩, ⟨1, 3, 4, 1, [true, false, false, false]⟩] }
def inEng (e : Engine) : State := s0.setCore 0 { eng := e }
def eng0 (r : Routine) : Engine := { routine := some r }

def decSeq (s : State) (r : Routine) : Decidable (sequences s r) := by unfold sequences; infer_instance

theorem wit_SequencerMicroOps : (myEng s0).routine = none ∧ sequences (inEng (eng0 rt0)) rt0 ∧ sequences (inEng (eng0 rtL)) rtL ∧
    (predicateOn rt0 .always ∧ predicateOn rt0 .sp0 ∧ ¬predicateOn rt0 .sp1 ∧ ¬predicateOn rtL .sp0 ∧ predicateOn rtL .sp1) ∧
    (rt0.snap.getD 7 0).toNat % 2 ^ 16 = 1 ∧ (rt0.snap.getD 1 0).toNat % 2 ^ 16 = 0 ∧ rtL.loops.length < 4 ∧ rt0.loops = [] ∧
    (∃ l rest, rtL.loops = l :: rest ∧ l.total ≤ l.run + 1 ∧ rest.head?.isSome = true) ∧
    (∃ l rest, rtL.loops.drop 1 = l :: rest ∧ l.run + 1 < l.total ∧ 0 < l.body) ∧
    (eng0 rt0).loader = none ∧ (eng0 rt0).stream = none ∧ ({ eng0 rt0 with loader := some ⟨0, 0, false, 0, none⟩ } : Engine).loader ≠ none ∧
    ((s0.ctx rt0.own.key).launch = rt0.own.launch ∧ (s0.ctx rt0.own.key).run = .ready ∧ (s0.ctx rt0.own.key).evq.length + (s0.ctx rt0.own.key).evres < 64) ∧
    allIdle (eng0 rt0) ∧ ¬allIdle { eng0 rt0 with loader := some ⟨0, 0, false, 0, none⟩ } ∧ okOrPoison rt0.bad = 0 ∧ okOrPoison (some 64) = 6 := by
  unfold allIdle drainIdle
  refine ⟨rfl, decided (decSeq _ _) (by decide), decided (decSeq _ _) (by decide), ⟨trivial, ?_, ?_, ?_, ?_⟩, by decide, by decide, by decide, rfl, ⟨_, _, rfl, by decide, rfl⟩,
    ⟨_, _, rfl, by decide, by decide⟩, rfl, rfl, nofun, by decide, ⟨⟨rfl, rfl, rfl⟩, rfl, rfl, rfl⟩, nofun, rfl, rfl⟩ <;> simp [predicateOn, rt0, rtL]

theorem wit_four_loops : 4 ≤ ({ rt0 with loops := rtL.loops ++ rtL.loops } : Routine).loops.length := by decide

def decLocked (s : State) (r : Routine) (l : Nat) (a : Word) (n : Nat) : Decidable (lockedFor s r l a n) := by unfold lockedFor; infer_instance
def decAcc (s : State) (r : Routine) (p : BitVec 3) (k : Int) (n : Nat) : Decidable (accLocked s r p k n) := by
  have := decLocked s r; unfold accLocked; infer_instance
def onStep : Sys2Proof.Step := ⟨0, true⟩
def offStep : Sys2Proof.Step := ⟨0, false⟩

/-- A descriptor at offset 8192 of stall 1: base offset 512, 512 bytes, four counts of 1. -/
def descS : State := wr (inEng (eng0 rt0)) 8192 64 (adn 1 512 + 512 * 2 ^ 64 + (1 + 2 ^ 16 + 2 ^ 32 + 2 ^ 48) * 2 ^ 128)
def win0 : Window := { wbase := adn 1 0, len := 512, cnt := [2, 2, 1, 1], str := [512, 2048, 0, 0] }
def streamS : State := inEng { eng0 rt0 with window := win0 }

/-- Addresses are formed from P0 to P7; the last places of the locked stalls, and the first beyond them. -/
theorem wit_LoadAndStreamMicroOps :
    (sequences descS rt0 ∧ predicateOn rt0 .always ∧ stepOpen rt0 offStep ∧ ¬stepOpen rt0 onStep ∧ stepOpen rtL onStep) ∧
    (lockedFor descS rt0 1 (nearOf rt0 offStep 0 0 0) (512 * 103) → False) ∧
    lockedFor (devM descS fun d => { d with stalls := d.stalls.set {} 1 { st1 with len := 824 } }) rt0 1 (nearOf rt0 offStep 0 0 0) (512 * 103) ∧
    (lockedFor descS rt0 1 (nearOf rt0 offStep 6 0 0) 64 ∧ addrOffset (nearOf rt0 offStep 6 0 0) % 64 = 0 ∧
      bytesToNat ((descS.mem.readN 8192 64).drop 8 |>.take 2) = 512 ∧ bytesToNat ((descS.mem.readN 8192 64).drop 10 |>.take 6) = 0 ∧
      bytesToNat ((descS.mem.readN 8192 64).drop 16 |>.take 2) = 1 ∧
      lockedFor descS rt0 1 (BitVec.ofNat 64 (bytesToNat ((descS.mem.readN 8192 64).take 8))) 512) ∧
    (win0.len ≠ 0 ∧ (∀ i, i < 4 → lockedFor streamS rt0 1 (BitVec.ofNat 64 win0.wbase + BitVec.ofInt 64 0 + BitVec.ofInt 64 (windowOffset win0 i)) 512) ∧
      accLocked streamS rt0 1 4 4 ∧ ¬accLocked streamS rt0 1 5 4) ∧
    ({ eng0 rt0 with stream := some ⟨2000, 5, 0, 0, 0, 1, 1⟩ } : Engine).stream ≠ none :=
  ⟨⟨decided (decSeq _ _) (by decide), trivial, by unfold stepOpen; decide, by unfold stepOpen; decide, by unfold stepOpen; decide⟩,
    refuted (decLocked _ _ _ _ _) (by decide), decided (decLocked _ _ _ _ _) (by decide),
    ⟨decided (decLocked _ _ _ _ _) (by decide), by decide, by decide +kernel, by decide +kernel, by decide +kernel,
      decided (decLocked _ _ _ _ _) (by decide +kernel)⟩,
    ⟨by decide, fun i h => decided (decLocked _ _ _ _ _) (by revert i; decide), decided (decAcc _ _ _ _ _) (by decide), refuted (decAcc _ _ _ _ _) (by decide)⟩,
    nofun⟩

/-- P0 the accumulators, P1 the destination, P2 the rounding word: row 5, z = 5; P3 one with a reserved bit set. -/
def rtD : Routine := { rt0 with snap := [stallAddr 2 0, stallAddr 1 0, 0x50005, 0x4000000, stallAddr 2 100, 1, 2, 3] }
def drainS : State := inEng (eng0 rtD)

theorem wit_DrainMicroOps : (sequences drainS rtD ∧ predicateOn rtD .always ∧ stepOpen rtD offStep ∧ ¬stepOpen rtD onStep ∧ drainIdle (myEng drainS)) ∧
    ¬drainIdle { eng0 rtD with drain := some { kind := .raw, rows := 1, acc := 0 } } ∧
    (accLocked drainS rtD 0 7 1 ∧ lockedFor drainS rtD 1 (nearOf rtD offStep 1 0 0) 2048 ∧ ¬lockedFor drainS rtD 1 (nearOf rtD offStep 1 0 0) (2048 * 9) ∧
      lockedFor drainS rtD 1 (nearOf rtD offStep 1 0 0) (512 * 32)) ∧
    ((rtD.snap.getD 2 0).toNat / 2 ^ 26 = 0 ∧ accLocked drainS rtD 0 ((rtD.snap.getD 2 0).toNat / 2 ^ 16 % 2 ^ 10 : Nat) 1 ∧ (rtD.snap.getD 3 0).toNat / 2 ^ 26 ≠ 0) ∧
    addrOffset (rtD.snap.getD 4 0) % 2048 ≠ 0 ∧
    (((drainS.core 0).rt.get 0 0).toNat / 8 % 2 ^ 29 = 0 ∧ ((drainS.setCore 0 { drainS.core 0 with rt := [(1, 256)] }).core 0 |>.rt.get 0 1).toNat / 8 % 2 ^ 29 ≠ 0) :=
  ⟨⟨decided (decSeq _ _) (by decide), trivial, by unfold stepOpen; decide, by unfold stepOpen; decide, ⟨rfl, rfl, rfl⟩⟩, nofun,
    ⟨decided (decAcc _ _ _ _ _) (by decide), decided (decLocked _ _ _ _ _) (by decide), refuted (decLocked _ _ _ _ _) (by decide),
      decided (decLocked _ _ _ _ _) (by decide)⟩,
    ⟨by decide, decided (decAcc _ _ _ _ _) (by decide), by decide⟩, by decide, by decide, by decide⟩

/-! #### Engine steps -/

def decOn (s : State) (o : Owner) : Decidable (onCore s o) := by unfold onCore; infer_instance
def decNames (l : List Word) (v : Word) : Decidable (names l v) := by unfold names; infer_instance
def own1 : Owner := { own0 with key := 1 }
def callE (snap : List Word) (timed : Bool) (t : Nat) : MEntry := .call own0 1 snap timed t 2000 50
/-- A queue, a routine, and 32 micro-ops at 17 in the routine table for routine 1. -/
def engS (q : List MEntry) (r : Option Routine) (w : Nat) : State := me (inEng { queue := q, routine := r, table := [(1, w)] }) fun c => { c with evres := 2, evq := [9] }
def addS (mfmt : Nat) : State := inEng { eng0 rt0 with adds := [⟨3000, 2 ^ 23, List.replicate 512 5, true⟩, ⟨3001, 2 ^ 23, List.replicate 512 5, false⟩], mfmt := mfmt }
def mlS : MLoad := { own := own0, table := false, src := 512, first := 3, count := 5, done := 5, start := 2800, lien := 1 }

theorem wit_EngineEvents_adds : (myEng (addS 16)).adds = ⟨3000, 2 ^ 23, List.replicate 512 5, true⟩ :: [⟨3001, 2 ^ 23, List.replicate 512 5, false⟩] ∧ (myEng (addS 0)).adds = (myEng (addS 16)).adds ∧
    (3000 = s0.station ∧ s0.station < 3001 ∧ (List.replicate 512 (5 : Int)).length = 512) ∧ 16 / 16 % 2 = 1 ∧ 0 / 16 % 2 = 0 ∧
    onCore (addS 16) rt0.own :=
  ⟨by unfold addS; rfl, by unfold addS; rfl, ⟨rfl, by decide, List.length_replicate⟩, rfl, rfl, ⟨rfl, rfl⟩⟩

theorem wit_EngineEvents_start : (engS [callE [stallAddr 1 5, 3] false 0] none (32 * 1024 + 17)).me.async.length < 16 ∧
    (let s := engS [callE [stallAddr 1 5, 3] true 3000, .cfg 3 2500] none (32 * 1024 + 17)
    (myEng s).queue = .call own0 1 [stallAddr 1 5, 3] true 3000 2000 50 :: [.cfg 3 2500] ∧ callReady s 0 own0 [stallAddr 1 5, 3] 2000 50 = true ∧
      3000 = s.station ∧ onCore s own0 ∧ ((myEng s).table.get 0 1) / 2 ^ 10 % 2 ^ 6 = 32 ∧ names [stallAddr 1 5, 3] (stallAddr 1 5) ∧
      nearFault s 1 [0, 1] (stallAddr 1 5) = none ∧ nearFault s 1 [0, 1] (stallAddr 12 0) = some 1 ∧ nearFault s 1 [0, 1] (stallAddr 3 0) = some 5 ∧
      nearFault s 1 [0, 1] (stallAddr 5 0) = some 2) ∧
    (33 * 1024 + 17) / 2 ^ 10 % 2 ^ 6 ≠ 32 :=
  ⟨by decide, ⟨rfl, by decide, rfl, ⟨rfl, rfl⟩, by decide, decided (decNames _ _) (by decide), by decide, by decide, by decide, by decide⟩, by decide⟩

theorem wit_EngineEvents_missed : (let s := engS [callE [] true 2999, .cfg 3 2500] none 0
    coreGoes s ∧ onCore s own0 ∧ s.me.async.length < 16 ∧ (2000 : Nat) < s.station ∧ (myEng s).routine = none ∧ (myEng s).mload = none ∧
      2999 ≤ s.station ∧ 2999 ≠ s.station) ∧
    (let s := engS [.cfg 3 2500, callE [] true 3000] none 0
    (myEng s).queue = [.cfg 3 2500] ++ .call own0 1 [] true 3000 2000 50 :: [] ∧ [MEntry.cfg 3 2500] ≠ [] ∧ 3000 = s.station) :=
  ⟨⟨⟨rfl, rfl⟩, ⟨rfl, rfl⟩, by decide, by decide, rfl, rfl, by decide, by decide⟩, rfl, nofun, rfl⟩

theorem wit_EngineEvents_end :
    (let s := engS [callE [] true 2000, .cfg 3 2500] (some { rt0 with ending := some (.engine 7) }) 0
    (myEng s).routine = some { rt0 with ending := some (.engine 7) } ∧ onCore s own0 ∧ allIdle (myEng s)) ∧
    (let s := engS [callE [] true 2000] (some { rt0 with ending := some .timing }) 0
    (myEng s).routine = some { rt0 with ending := some .timing } ∧ allIdle (myEng s)) ∧
    (let s := engS [callE [] true 2000, .halt own0 2600, .halt own1 2700] (some { rt0 with marked := some 2600 }) 0
    (myEng s).routine = some { rt0 with marked := some 2600 } ∧ 2600 < s.station ∧ drainIdle (myEng s)) ∧
    (let s := engS [.halt own0 2600, .cfg 3 2500] none 0
    (myEng s).routine = none ∧ (myEng s).queue = .halt own0 2600 :: [.cfg 3 2500] ∧ 2600 < s.station) :=
  ⟨⟨rfl, ⟨rfl, rfl⟩, ⟨rfl, rfl, rfl⟩, rfl, rfl, rfl⟩, ⟨rfl, ⟨rfl, rfl, rfl⟩, rfl, rfl, rfl⟩, ⟨rfl, by decide, ⟨rfl, rfl, rfl⟩⟩, rfl, rfl, by decide⟩

/-- An `mload` of code: the address and the parameter word. -/
def loadE (table : Bool) (v : Word) (p : Nat) : State := engS [.load own0 table [v, BitVec.ofNat 64 p] 2500, .cfg 3 2600] none 0

theorem wit_EngineEvents_drain_slot :
    (let s := engS [.cfg 19 2500, .halt own0 2600] none 0
    (myEng s).routine = none ∧ allIdle (myEng s) ∧ coreGoes s ∧ (myEng s).queue = .cfg 19 2500 :: [.halt own0 2600] ∧ 2500 < s.station) ∧
    (let s := loadE true (stallAddr 1 16) (60 + 4 * 2 ^ 16)
    allIdle (myEng s) ∧ coreGoes s ∧ onCore s own0 ∧ (60 + 4 * 2 ^ 16) / 2 ^ 16 % 2 ^ 11 = 4 ∧ 60 + 4 ≤ 64 ∧ nearFault s 1 [1] (stallAddr 1 16) = none ∧
      lienRoom (s.dev 1) [1] = true) ∧
    (64 < 60 + (60 + 5 * 2 ^ 16) / 2 ^ 16 % 2 ^ 11) ∧ (3 / 2 ^ 16 % 2 ^ 11 = 0) ∧ ((3 + 2 ^ 10 + 5 * 2 ^ 16) / 2 ^ 10 % 2 ^ 6 ≠ 0) ∧
    nearFault (loadE false (stallAddr 2 16) (3 + 5 * 2 ^ 16)) 1 [1] (stallAddr 2 16) = some 5 ∧
    (64 * st1.len < addrOffset (stallAddr 1 (16384 - 32)) + 5 * 8 ∧ addrOffset (stallAddr 1 (16384 - 40)) + 5 * 8 ≤ 64 * st1.len) ∧
    (let s := me (inEng { queue := [.load own0 false [] 2500], mload := some mlS }) fun c => { c with evres := 1 }
    (myEng s).mload = some mlS ∧ mlS.count ≤ mlS.done ∧ onCore s mlS.own) :=
  ⟨⟨rfl, ⟨⟨rfl, rfl, rfl⟩, rfl, rfl, rfl⟩, ⟨rfl, rfl⟩, rfl, by decide⟩,
    ⟨⟨⟨rfl, rfl, rfl⟩, rfl, rfl, rfl⟩, ⟨rfl, rfl⟩, ⟨rfl, rfl⟩, by decide, by decide, by decide, by decide⟩, by decide, by decide, by decide, by decide, by decide,
    rfl, by decide, ⟨rfl, rfl⟩⟩

/-! #### Steps of D and G commands -/

/-- A command of context 0 with its staging registers, at the head of its queue, and what the cache holds. -/
def cmdOf (group : Bool) (code : Nat) (st : List Nat) : Cmd := { cmd0 with group := group, code := code, tstart := 1500, st := st.map (BitVec.ofNat 64) }
def pageE (key tgt perm : Nat) : TEntry := { dev := 1, page := key, target := tgt, perm := perm, big := false }
def cmdS (c : Cmd) (tc : List TEntry) : State := { me s0 (fun d => { d with dq := [12], gq := [12], evres := 1 }) with cmds := [(12, some c)], tcache := [(0, tc)] }
def decHead (s : State) (c : Cmd) : Decidable (atHead s c) := by have := decOn s c.own; unfold atHead; infer_instance
def decCmd (s : State) (n : Nat) (c : Cmd) : Decidable (isCmd s n c) := by unfold isCmd; infer_instance
/-- A copy of 300 bytes from the far stall 4 to stall 1, and the entry for its page. -/
def copyC : Cmd := cmdOf false 1 [adn 1 512, adn 4 100, 300, 0, 0, 0, 0, 1400]
def copyS : State := cmdS copyC [pageE (stallPage 4 0) (2 ^ 40) 7]

theorem wit_CommandsReachTheirStart_head : isCmd copyS 12 copyC ∧ onCore copyS copyC.own ∧ (copyS.ctx copyC.own.key).async.length < 16 ∧ atHead copyS copyC ∧
    copyC.stage = .queued ∧ copyC.waits = [] ∧ cmdBad copyS copyC = false ∧ cmdZero copyC = false ∧ tableReady copyS copyC = true ∧
    commandsGo copyS copyC ∧ badReady copyS { copyC with st := (copyC.st.set 2 (2 ^ 25)) } = true ∧
    cmdBad copyS { copyC with st := (copyC.st.set 2 (2 ^ 25)) } = true ∧ cmdZero { copyC with st := copyC.st.set 2 0 } = true :=
  ⟨decided (decCmd _ _ _) (by decide), ⟨rfl, rfl⟩, by decide, decided (decHead _ _) (by decide), rfl, rfl, by decide, by decide, by decide, ⟨rfl, .inl rfl⟩, by decide, by decide, by decide⟩

/-- Start cycles: before the acceptance, passed while at the head, now with a part that is not ready; and an accepted `gtt` that is late. -/
theorem wit_CommandsReachTheirStart_timed :
    (let c := { copyC with timed := true, st := copyC.st.set 7 400 }
    statedStart c ≤ c.accepted ∧ c.accepted < s0.station) ∧
    (let c := { copyC with timed := true }
    c.accepted < statedStart c ∧ statedStart c < s0.station ∧ atHead (cmdS c []) c) ∧
    (let c := { copyC with timed := true, st := copyC.st.set 7 1500 }
    c.accepted < statedStart c ∧ statedStart c = s0.station ∧ cmdBad (cmdS c []) c = false ∧ cmdZero c = false ∧ cmdReady (cmdS c []) c = false) ∧
    (let c := { copyC with timed := true, st := (copyC.st.set 7 1500).set 2 (2 ^ 25 + 5) }
    statedStart c = s0.station ∧ cmdBad (cmdS c []) c = true ∧ badReady (me (cmdS c []) fun d => { d with dq := [11, 12] }) c = false) ∧
    (let c := cmdOf true 9 [adn 1 0, 2, 0]
    c.group = true ∧ c.code = 9 ∧ c.accepted < s0.station ∧ statedStart c ≤ s0.station) :=
  ⟨by decide, ⟨by decide, by decide, decided (decHead _ _) (by decide)⟩, by decide, by decide, by decide⟩

/-- Each page of the copy is found; the same without the entry; a page without the permission; an address that no stall holds; and the
one page of the copy, left after a walk. -/
theorem wit_CommandsReachTheirStart_translation :
    ((withSteps copyS copyC).tsteps = some [.page (stallPage 4 0) (stallAddr 4 100) 7] ∧
      ∃ e, translationOf copyS copyC (stallPage 4 0) = some e ∧ Nat.land 7 e.perm = 7) ∧
    translationOf (cmdS copyC []) copyC (stallPage 4 0) = none ∧
    (let c := cmdOf false 1 [adn 1 512, 0x1234F000, 5, 0, 0, 0, 0, 0]
    (withSteps (cmdS c []) c).tsteps = some [.page 0x1234 0x1234F000 1] ∧
      ∃ e, translationOf (cmdS c [pageE 0x1234 55 6]) c 0x1234 = some e ∧ Nat.land 1 e.perm ≠ 1) ∧
    (let c := cmdOf false 1 [adn 1 512, adn 12 5, 5, 0, 0, 0, 0, 0]
    ∃ r a post, (withSteps (cmdS c []) c).tsteps = some ([] ++ .stop r a :: post)) :=
  ⟨⟨by decide, _, rfl, rfl⟩, by decide, ⟨by decide, _, rfl, by decide⟩, _, _, _, rfl⟩

def walkV : Walk := { id := 70, die := 0, dev := 1, page := stallPage 4 0, active := true }
def walkC : Cmd := { copyC with waits := [70], tsteps := some [.page (stallPage 4 0) (stallAddr 4 100) 7] }
def walkS : State := { cmdS walkC [] with walks := [walkV] }
theorem isWalk (j : Nat) (d : Cmd) (h : walkS.cmd j = some d) : j = 12 ∧ d = walkC := by
  by_cases e : j = 12
  · subst e; exact ⟨rfl, (Option.some.inj h).symm⟩
  · have n : walkS.cmd j = none := by
      simpa [walkS, cmdS, State.cmd, me, FMap.get] using Ne.symm e
    exact absurd (n.symm.trans h) nofun


theorem wit_CommandsReachTheirStart_walks : isCmd walkS 12 walkC ∧ atHead walkS walkC ∧ walkC.waits = [walkV.id] ∧
    (∀ j d, walkS.cmd j = some d → d.id = j ∧ (j ≠ 12 → walkV.id ∉ d.waits)) ∧ walkC.tsteps = some [.page walkV.page (stallAddr 4 100) 7] ∧
    (∀ g ∈ walkS.tcache.get [] 0, g.dev ≠ walkV.dev) ∧ walkC.got = [] ∧ Nat.land 7 7 = 7 ∧
    (let e : TEntry := { dev := 1, page := 512, target := 0, perm := 7, big := true }
     e.page = 700 / 512 * 512 ∧ (700 + 5) / 512 = 700 / 512) ∧ walkS.walks.find? (fun u => u.id == walkV.id && u.active) = some walkV ∧
    pageMoving walkS walkV.dev walkV.page = false ∧ (∃ e, walkPage walkS 1 (stallPage 4 0) = some e) ∧ walkPage walkS 1 7 = none ∧
    ({ copyC with stage := .running } : Cmd).stage = .running :=
  ⟨decided (decCmd _ _ _) (by decide), decided (decHead _ _) (by decide), rfl,
    fun j d h => ⟨by rw [(isWalk j d h).1, (isWalk j d h).2]; rfl, fun n => absurd (isWalk j d h).1 n⟩, rfl, by decide, rfl, rfl, by decide,
    by decide, by decide, ⟨_, rfl⟩, by decide, rfl⟩

/-- The copy when it is translated and may start, and one of its requests at each of its stages. -/
def readyC : Cmd := { copyC with stage := .translated }
def reqX (st : XSt) (src dst : Loc) : Xfer :=
  { id := 90, cmd := 12, job := 12, own := own0, core := 0, bytes := 4, src := some src, dst := some dst, st := st, srcAddr := stallAddr 4 100, dstAddr := stallAddr 1 512,
    born := 2990, data := [1, 2, 3, 4] }
def reqS (st : XSt) (src dst : Loc) : State := { cmdS { copyC with stage := .running } [] with xfers := [reqX st src dst] }

theorem wit_TransfersMoveTheirBytes_start : cmdBad copyS readyC = false ∧ cmdZero readyC = false ∧ cmdReady copyS readyC = true ∧
    stampFail copyS readyC = none ∧ onCore copyS readyC.own ∧ readyC.accepted < copyS.station ∧ atHead copyS readyC ∧
    (∃ r a, stampFail copyS { readyC with held := [(4, 5), (1, 0)] } = some (r, a)) :=
  ⟨by decide, by decide, by decide, by decide, ⟨rfl, rfl⟩, by decide, decided (decHead _ _) (by decide), _, _, rfl⟩

/-- Two requests that one packet reads, of four bytes each. -/
def pairX (st : XSt) (src dst : Loc) : List Xfer :=
  [{ reqX st src dst with tag := true, issued := 60, packet := (0, 8) },
    { reqX st src dst with id := 91, tag := true, issued := 60, off := 4, packet := (4, 8), src := some (.far (2 ^ 40 + 104)), dst := some (.near 516) }]

theorem wit_TransfersMoveTheirBytes_requests :
    (let s : State := { reqS .toRead (.far (2 ^ 40 + 100)) (.near 512) with xfers := pairX .toRead (.far (2 ^ 40 + 100)) (.near 512) }
    let x := s.xfers.getD 0 (reqX .toRead (.near 0) (.near 0))
    s.xfers.find? (fun y => y.id == x.id) = some x ∧ x.job = 12 ∧ x.src = some (.far (2 ^ 40 + 100)) ∧ packetOf s x = s.xfers ∧
      (x.tag = true ∧ x.part.1 = 0 ∧ blockBusy s x (2 ^ 40 + 100) = false ∧ shareWaits s x.own.dev (2 ^ 40 + 100) = false) ∧
      ∀ y ∈ packetOf s x, y.atom = none ∧ y.ref = none ∧ y.src ≠ none) ∧
    (let x := { reqX .toRead (.far (2 ^ 40 + 104)) (.near 512) with tag := true, atom := some (.add, false, 5, 0) }
    let s : State := { reqS .toRead (.far 0) (.near 0) with xfers := [x] }
    packetOf s x = [x] ∧ x.ref = none ∧ x.bytes = 4) ∧
    (let x := { reqX .haveData (.near 512) (.far (2 ^ 40 + 100)) with tag := true }
    let s : State := { reqS .haveData (.near 0) (.far (2 ^ 40 + 100)) with xfers := [x] }
    packetOf s x = [x] ∧ blockBusy s x (2 ^ 40 + 100) = false ∧ shareWaits s x.own.dev (2 ^ 40 + 100) = false ∧ x.data.length = x.bytes ∧ x.part.1 = 0) ∧
    (let s := reqS .toRead (.far (2 ^ 40 + 100)) (.near 512)
    wantsTag s (reqX .toRead (.far (2 ^ 40 + 100)) (.near 512)) = true ∧ tagsUsed s 0 < 2048) ∧
    (let s : State := { reqS .readDone (.far (2 ^ 40 + 100)) (.near 512) with xfers := pairX .readDone (.far (2 ^ 40 + 100)) (.near 512) }
    let x := s.xfers.getD 0 (reqX .toRead (.near 0) (.near 0))
    x.born < s.station ∧ x.st = .readDone ∧ x.tag = true ∧ x.packet.1 = 0 ∧ ((packetOf s x).map (·.id)).Nodup ∧
      ∀ y ∈ packetOf s x, y.st = .readDone ∧ y.atom = none ∧ y.dst ≠ none) ∧
    (let x := reqX .written (.near 512) (.far (2 ^ 40 + 100))
    x.born < s0.station ∧ x.wpacket.1 = 0 ∧ copyC.code ≠ 7 ∧ (x.agent = 2 ∧ x.ref = none ∧ x.atom = none) ∧
      ∀ y ∈ (reqS .written (.near 512) (.far (2 ^ 40 + 100))).xfers, y.job = 12 → y.id ≠ x.id → y.st = .done) ∧
    (let x := reqX .toRead (.near 512) (.near 1024)
    let s := reqS .toRead (.near 512) (.near 1024)
    x.src = some (.near 512) ∧ x.dst ≠ none ∧ blockOpen s x = true) ∧
    (let x := reqX .haveData (.far (2 ^ 40 + 100)) (.near 512)
    let s := reqS .haveData (.far (2 ^ 40 + 100)) (.near 512)
    writeBusy s x 512 = false ∧ overlapBusy s x = false ∧ blockOpen s x = true ∧ x.dst = some (.near 512) ∧ x.data.length = x.bytes) := by
  refine ⟨by decide +kernel, by decide +kernel, by decide +kernel, by decide +kernel, by decide +kernel, by decide +kernel, by decide +kernel, by decide +kernel⟩

/-- An internal error of a command that no message is coming to. -/
theorem wit_CommandsReachTheirStart_error : (∀ r ∈ copyS.recvs, r.cmd = 12 → nothingComes copyS r.id) ∧ tableYields copyS copyC = false :=
  ⟨nofun, by decide +kernel⟩


/-! #### Group commands and the tack room -/

/-- The group commands of the witnesses: `adec` of a page, `aplan`, `amerge`, `kvinv`, `kfork`, `gsend`, `grecv`, `gred`, `gtt`. -/
def groupC : Nat → Cmd
  | 1 => cmdOf true 1 [adn 1 0, adn 4 0, adn 1 1024, adn 1 2048, 64 * 2 ^ 32, 77 + 3 * 2 ^ 32, 2 ^ 32 * 0x3F800000, 0]
  | 2 => cmdOf true 2 [adn 1 4096, adn 1 6144, 3 + 2 * 2 ^ 16, 0, 0, 0, 0, 0]
  | 3 => { cmdOf true 3 [adn 1 2048, adn 1 8192, 320, 2, 0, 0, 0, 0] with low := 1 }
  | 4 => cmdOf true 4 [adn 1 1024, 2, 0, 0, 0, 0, 0, 0]
  | 5 => { cmdOf true 5 [adn 4 0, 0, 0, 0, 0, 0, 0, 0] with low := 1 }
  | 6 => cmdOf true 6 [adn 1 0, 2 + 7 * 2 ^ 48 + 99 * 2 ^ 32, 500, 0, 0, 0, 0, 0]
  | 7 => cmdOf true 7 [adn 1 0, 7 * 2 ^ 48 + 99 * 2 ^ 32, 500, 30, 0, 0, 0, 0]
  | 8 => cmdOf true 8 [adn 1 0, adn 1 4096, 25, 2 * 2 ^ 8 + 2 ^ 32, 0, 0, 0, 0]
  | _ => cmdOf true 9 [adn 1 10240, 5, 12, 0, 0, 0, 0, 0]
/-- A group of two members behind switch 5, at the base of the device's group table. -/
def groupS (n : Nat) : State :=
  wr (devM (cmdS { groupC n with stage := .translated } []) fun d => { d with grpbase := stallAddr 1 12288 }) 12352 64 (5 + 2 * 2 ^ 16 + 7 * 2 ^ 48)
def decHas (s : State) (n : Nat) : Decidable (atHead s { groupC n with stage := .translated }) := decHead _ _

theorem wit_GroupCommandsRun_start (n : Nat) (h : n ∈ [1, 2, 3, 5, 6, 7, 8, 9]) : let c := { groupC n with stage := .translated }
    isCmd (groupS n) 12 c ∧ c.group = true ∧ onCore (groupS n) c.own ∧ c.accepted < (groupS n).station ∧ cmdBad (groupS n) c = false ∧
      gttLate (groupS n) c = false ∧ atHead (groupS n) c ∧ c.timed = false ∧ cmdZero c = false ∧ cmdReady (groupS n) c = true ∧ stampFail (groupS n) c = none ∧
      c.code = n ∧ ((groupS n).ctx 0).async.length < 16 ∧ (∀ m ∈ (groupS n).msgs, m.recv ≠ none) := by
  simp only [List.mem_cons, List.not_mem_nil, or_false] at h
  rcases h with rfl | rfl | rfl | rfl | rfl | rfl | rfl | rfl <;> refine ⟨decided (decCmd _ _ _) (by decide +kernel), by decide, ⟨rfl, rfl⟩, by decide, by decide +kernel, by decide +kernel,
    decided (decHas _ _) (by decide +kernel), by decide, by decide, by decide +kernel, by decide +kernel, by decide, by decide, by decide⟩

theorem wit_GroupCommandsRun_kvinv_zero_and_failure : let c := { groupC 4 with stage := .translated }
    cmdBad (groupS 4) c = false ∧ cmdZero c = false ∧ cmdReady (groupS 4) c = true ∧ kvinvFail (groupS 4) c = none ∧
      kvinvFail (groupS 4) { c with st := c.st.set 0 (stallAddr 5 0) } ≠ none ∧ cmdZero (groupC 6) = false ∧
      cmdZero { groupC 6 with st := (groupC 6).st.set 2 0 } = true ∧ stampFail (groupS 6) { groupC 6 with held := [(1, 5)] } ≠ none ∧ commandsGo (groupS 4) c ∧
      (∀ j d, (groupS 4).cmd j = some d → resolvedNamed c d = false) :=
  ⟨by decide +kernel, by decide +kernel, by decide +kernel, by decide +kernel, by decide +kernel, by decide +kernel, by decide +kernel, by decide +kernel, ⟨rfl, .inl rfl⟩,
    fun j d h => by
      by_cases e : j = 12
      · subst e; rw [← Option.some.inj h]; decide +kernel
      · have n : (groupS 4).cmd j = none := by simpa [groupS, wr, devM, cmdS, State.cmd, me, FMap.get] using Ne.symm e
        exact absurd (n.symm.trans h) nofun⟩

/-- A table of one entry, good, and each fault of a table. -/
def tableS (hdr entry : Nat) : State := wr (wr (groupS 9) 10240 8 hdr) 10304 32 entry
theorem wit_GroupCommandsRun_gtt : ((groupS 9).dev 1 |>.stall 1).sync = true ∧ ((groupS 9).dev 1 |>.stall 7).sync = false ∧
    (let s := tableS (1 + 2000 * 2 ^ 16 + 3 * 2 ^ 32 + 4 * 2 ^ 48) (100 + 2 ^ 32 + 2 * 2 ^ 40 + 7 * 2 ^ 48 + 55 * 2 ^ 64 + adn 1 0 * 2 ^ 128 + 200 * 2 ^ 192)
    bytesToNat (s.mem.readN 10240 2) = 1 ∧ addrOffset (stallAddr 1 10240) + 64 + 32 * 1 ≤ 64 * st1.len ∧ ttOk (s.mem.readN 10240 (64 + 32 * 1)) = true) ∧
    bytesToNat ((groupS 9).mem.readN 10240 2) = 0 ∧ 1024 ≤ 1024 ∧ 64 * st1.len < 10240 + 64 + 32 * 1024 := by decide +kernel

/-- The page that the `adec` reads: its header as it has been read, one with a wrong check, and the rows that follow. -/
def pageC : Cmd := { groupC 1 with stage := .running, resolved := [stallAddr 4 0], when_ := 2999 }
def hdrOf (v : Nat) : List Byte := natToBytes 64 v
def goodHdr : Nat := 77 * 2 ^ 416 + 3 * 2 ^ 368 + 64 * 2 ^ 327
def pageS (step v : Nat) : State := { cmdS { pageC with step := step } [] with
  xfers := [{ id := 90, cmd := 12, job := 12, own := own0, core := 0, agent := 3, bytes := 64, src := some (.far (2 ^ 40)), dst := none, opnd := 1
              srcAddr := stallAddr 4 0, st := .done, data := hdrOf v }] }
theorem wit_GroupCommandsRun_page :
    (isCmd (pageS 0 0) 12 { pageC with step := 0 } ∧ pageC.next < pageC.resolved.length ∧ pageC.when_ < s0.station ∧
      (((pageS 0 0).core 0).pre = none ∧ ((pageS 0 0).core 0).halted = none ∧ (pageS 0 0).shed = .running) ∧ mergeRunning (pageS 0 0) 0 = false) ∧
    (allDone (pageS 2 goodHdr) 12 ∧ allDone (pageS 2 0) 12 ∧
      headerOk pageC ((pageC.st.getD 4 0).toNat % 2 ^ 32 / 64 + pageC.next) pageC.resolved[pageC.next + 1]? (readBytes (pageS 2 goodHdr) 12) = true ∧
      headerOk pageC ((pageC.st.getD 4 0).toNat % 2 ^ 32 / 64 + pageC.next) pageC.resolved[pageC.next + 1]? (readBytes (pageS 2 0) 12) = false ∧
      pageTokens pageC 0 (readBytes (pageS 2 goodHdr) 12) ≠ [] ∧ pageTokens { pageC with st := pageC.st.set 4 0 } 0 (readBytes (pageS 2 goodHdr) 12) = []) :=
  ⟨⟨decided (decCmd _ _ _) (by decide +kernel), by decide, by decide, ⟨rfl, rfl, rfl⟩, by decide +kernel⟩,
    fun x h _ => by rw [List.mem_singleton.mp h], fun x h _ => by rw [List.mem_singleton.mp h], by decide +kernel, by decide +kernel, by decide +kernel, by decide +kernel⟩

theorem wit_GroupCommandsRun_result : (({ pageC with next := 1 } : Cmd).next = pageC.resolved.length ∧ pageC.step = 0 ∧ pageC.when_ < s0.station) ∧
    (let c := { groupC 2 with stage := .running, when_ := 2999, step := 2 }
    planOf (planLengths c (natToBytes 12 (100 + 300 * 2 ^ 32 + 5 * 2 ^ 64))) ((c.st.getD 2 0).toNat / 2 ^ 16 % 2 ^ 7) ≠ [] ∧
      planOf (planLengths c (natToBytes 12 0)) ((c.st.getD 2 0).toNat / 2 ^ 16 % 2 ^ 7) = []) ∧
    (({ pageC with step := 1 } : Cmd).code ∈ [1, 2, 3] ∧ pageC.start < s0.station ∧ (groupC 4).waits = [] ∧ (groupC 4).code = 4 ∧ (groupC 5).code = 5) ∧
    (∀ p : Loc, let x : Xfer := { id := 90, cmd := 12, job := 12, own := own0, core := 0, agent := 3, bytes := 64, src := some p, dst := none, ref := some true
                                  packet := (0, 64), tag := true }
     let s : State := { cmdS { groupC 5 with stage := .running } [] with xfers := [x] }
     s.xfers.find? (fun y => y.id == x.id) = some x ∧ packetOf s x = [x] ∧ blockOpen s x = true ∧ x.part.1 = 0 ∧ x.atom = none) := by
  refine ⟨by decide +kernel, by decide +kernel, by decide +kernel, fun p => ⟨rfl, rfl, rfl, rfl, rfl⟩⟩

def tackC (code : Nat) (regs : List Nat) : TCmd := { id := 12, code := code, own := own0, accepted := 2000, regs := regs.map (BitVec.ofNat 64) }
def slotB : TSlot := { dev := 1, stall := 3, ring := stallAddr 4 1024, seqid := 77, layer := 3 }
def tackS (c : TCmd) (run : Bool) : State := (me s0 fun d => { d with evres := 1 }).setCore 0 { tack :=
  { slots := [(5, some slotB)], queue := if run then [] else [c], running := if run then some c else none } }

theorem wit_TackCommandsRun :
    (tackReady (tackS (tackC 1 [5, adn 3 0, adn 4 1024, 77]) false) 0 = some (tackC 1 [5, adn 3 0, adn 4 1024, 77]) ∧
      onCore (tackS (tackC 1 [5, adn 3 0, adn 4 1024, 77]) false) own0) ∧
    (∃ ids, tackStalls (tackS (tackC 2 [5, 10]) false) 0 { tackC 2 [5, 10] with start := 3000 } = .ok ids) ∧
    (∃ e, tackStalls (tackS (tackC 1 [5, adn 1 0, adn 4 1024, 77]) false) 0 { tackC 1 [5, adn 1 0, adn 4 1024, 77] with start := 3000 } = .error e) ∧
    slotOf (tackS (tackC 2 [5, 10]) false) 0 1 5 = some slotB ∧ slotOf (tackS (tackC 2 [6, 10]) false) 0 1 6 = none ∧
    ((((tackS { tackC 2 [5, 10] with start := 2990, entry := some 7 } true).core 0).tack.running = some { tackC 2 [5, 10] with start := 2990, entry := some 7 }) ∧
      (2990 < s0.station) ∧ slotB.seqid < 2 ^ 32 ∧ slotB.layer < 2 ^ 16) ∧ chooseEntry (tackS (tackC 3 [5, 10]) false) slotB 10 = none ∧
    (let c := { tackC 2 [5, 10] with image := List.replicate 4160 0 }
     c.done + 4096 < c.image.length ∧ ({ c with done := 4096 } : TCmd).image.length ≤ 4096 + 4096) :=
  ⟨⟨by decide, rfl, rfl⟩, ⟨_, rfl⟩, ⟨_, rfl⟩, by decide, by decide, ⟨rfl, by decide, by decide, by decide⟩, by decide +kernel, by rw [List.length_replicate]; decide, by rw [List.length_replicate]; decide⟩

/-- Entry 0 of the ring, complete, of the slot's sequence and layer. -/
def ringS : State := wr (tackS (tackC 3 [5, 10]) false) (2 ^ 40 + 1024 + 0) 64 (8 + 77 * 2 ^ 64 + 3 * 2 ^ 96 + 2 * 2 ^ 112)
theorem wit_TackCommandsRun_entry : chooseEntry ringS slotB 10 = some 0 := by decide +kernel

/-! #### Tick boundaries and the fabric -/

/-- At the boundary of tick 3. -/
def tickS : State := { s0 with station := 3072, ctxs := [(0, { c0 with run := .resuming, sbuf := [(5, [(3, 9)])], sdue := [(2, [(10, 1)]), (3, [(10, 2), (11, 3)])],
                                                                       hold := some { why := .realign, since := 2050 } })] }
def stallS (y : Stall) : State := { tickS with devs := [(1, { dev1 with stalls := dev1.stalls.set {} y.id y, grace := 2 })] }
def scrubR : Scrub := { id := 9, due := 3000, phys := 16, len := 20 }
def returnR : Returning := { id := 8, due := 3, phys := 100, len := 20, level := 4, need := [64, 0, 0, 0] }
def tierP (page heat : Nat) (hbm : Bool) : TierPage := { dev := 1, id := 4, page := page, heat := heat, hbm := hbm, die := 0 }
def tierS (pool : Nat) (l : List TierPage) : State := { tickS with tier := l, poolHbm := [pool, 0, 0, 0], migctl := [(0, { en := true, epoch := 3, promote := 64, demote := 8 })] }
def decPro (s : State) (n : Nat) (p : TierPage) : Decidable (mayPromote s n p) := by unfold mayPromote; infer_instance
def decDem (s : State) (n : Nat) (p : TierPage) : Decidable (mayDemote s n p) := by unfold mayDemote; infer_instance

theorem wit_BoundarySteps : boundary tickS ∧ (tickS.ctx tickS.cur).sdue ≠ [] ∧
    (tickS.ctx tickS.cur).hold = some { why := .realign, since := 2050 } ∧ 2050 / 1024 < tickS.tick ∧ tickS.tick = 3 ∧
    (∀ e ∈ ([(11, 3)] : List Host.Cell), e.1 ≠ 10) ∧
    (let x := (stallS { st1 with paid := 3 }).stall 1 1
    x.id ≠ 0 ∧ x.st = .active ∧ x.paid ≤ 3 ∧ x.liens = 0 ∧ x.vac = false) ∧
    (let s := stallS { st1 with parent := 7, paid := 100 }
    (s.stall 1 1).parent ≠ 0 ∧ (s.stall 1 1).st = .active ∧ (s.stall 1 7).st = .active) ∧
    (let x := (stallS { st1 with paid := 3, st := .overstay, liens := 2 }).stall 1 1
    x.st = .overstay ∧ 0 < x.liens ∧ x.paid ≤ 3) ∧
    (let s := stallS { st1 with paid := 1, st := .lapsed }
    (s.stall 1 1).st = .lapsed ∧ (s.stall 1 1).paid + (s.dev 1).grace ≤ s.tick ∧ (s.stall 1 1).parent = 0 ∧ ∀ e ∈ (s.dev 1).stalls, e.2.parent ≠ 1) ∧
    ({ tickS with scrubs := [scrubR] } : State).scrubs.find? (fun q => q.id == 9) = some scrubR ∧ scrubR.due ≤ tickS.station ∧
    ({ tickS with returning := [returnR] } : State).returning.find? (fun q => q.id == 8) = some returnR ∧ returnR.due ≤ tickS.tick ∧
    (let a := access (.store [(3, 9)] true) 3073 3000
     a.born < tickS.station ∧ a.agent = 0 ∧ ∀ b ∈ ({ tickS with accesses := [access (.store [] false) 3073 3000] } : State).accesses,
       b.op = .store [] false) ∧
    (let x := (stallS { st1 with st := .lapsed, vac := true }).stall 1 1
     x.st = .lapsed ∧ x.vac = true ∧ x.liens = 0 ∧ x.id = 1) ∧
    (let s : State := { tickS with rows := [(5, 2)] }
     s.rows.get 0 (5 : BitVec 48).toNat = 1 + 1 ∧ s.rows.get 0 (6 : BitVec 48).toNat = 0) ∧
    ((tierS 0 []).migctl.get {} 0).epoch ≠ 0 ∧ 3 % ((tierS 0 []).migctl.get {} 0).epoch = 0 := by
  unfold boundary; decide

theorem wit_BoundarySteps_migration : let s := tierS 1024 [tierP 0 64 false, tierP 1 64 false, tierP 2 8 true, tierP 3 9 true]
    ((s.migctl.get {} 0).en = true ∧ (s.migctl.get {} 0).pause = false ∧ s.moves.get none 0 = none ∧ mayPromote s 0 (tierP 0 64 false) ∧
      (∀ q ∈ s.tier, mayPromote s 0 q → q ≠ tierP 0 64 false → q.heat < 64 ∨ (q.heat = 64 ∧ (q.dev = 1 ∧ q.id = 4 ∧ 0 < q.page)))) ∧
    1024 ≤ s.poolHbm.getD 0 0 ∧ s.poolHbm.length = 4 ∧ (tierS 1023 s.tier).poolHbm.getD 0 0 < 1024 ∧ mayDemote (tierS 1023 s.tier) 0 (tierP 2 8 true) ∧
      ¬mayDemote (tierS 1023 s.tier) 0 (tierP 3 9 true) ∧ ({ s with moves := [(0, some { cand := (1, 4, 0), swap := none })] } : State).moves.get none 0 =
        some { cand := (1, 4, 0), swap := none } :=
  ⟨⟨by decide, by decide, by decide, decided (decPro _ _ _) (by decide), by unfold mayPromote; decide⟩, by decide, by decide, by decide,
    decided (decDem _ _ _) (by decide), refuted (decDem _ _ _) (by decide), by decide⟩

/-- A header of a message of 300 bytes in four fragments and one of parity, from package 7. -/
def hdr0 : FragHdr := { crc := 0, dhash := 0, gseq := 0, mid := 40, src := 7, dst := 0, tag := 99, inst := 0, len := 300, fidx := 1, k := 4, m := 1, path := 1, cls := 2,
                        att := 0, rt := 0, kind := 0, resv := 0 }
def send0 : Send := { id := 80, cmd := 12, own := own0, mid := 40, hdr := hdr0, data := [], whole := false, left := [0, 1, 2, 3, 4], src := some (stallAddr 1 0) }
/-- The send in the state, of a command of the code, which runs. -/
def sendS (code : Nat) (x : Send) : State := { cmdS { groupC code with stage := .running } [] with sends := [x], losstmo := 1 }
def decServes (s : State) (n : Nat) (c : Cmd) : Decidable (serves s n c) := by
  have := decCmd s n c; have := decOn s c.own; unfold serves; infer_instance

theorem wit_MessagesAreSent : (sendS 6 send0).sends.find? (fun y => y.id == send0.id) = some send0 ∧ (sendS 6 send0).sends.find? (fun y => y.mid == send0.mid) = some send0 ∧
    send0.left = 0 :: [1, 2, 3, 4] ∧ fabricRuns (sendS 6 send0) ∧ send0.src ≠ none ∧ send0.data.length ≤ send0.hdr.len ∧ send0.quiet = false ∧
    send0.hdr.kind = 0 ∧ serves (sendS 6 send0) 12 { groupC 6 with stage := .running } ∧ serves (sendS 8 send0) 12 { groupC 8 with stage := .running } ∧
    ({ send0 with hdr := { hdr0 with rt := 1 } } : Send).hdr.rt = 1 ∧ hdr0.att = 0 ∧ 4 ≤ hdr0.k :=
  ⟨by decide, by decide, rfl, .inl rfl, by decide, by decide, rfl, rfl, decided (decServes _ _ _) (by decide +kernel), decided (decServes _ _ _) (by decide +kernel),
    rfl, rfl, by decide⟩

def recvG : Recv := { id := 86, cmd := 12, own := own0, src := 5, tag := 1, inst := 3, kind := 2, cap := 300, dst := .far (2 ^ 40 + 512), addr := stallAddr 4 512,
                      from_ := 2, wait := 0 }
/-- A send whose bytes are to be read, one that has read them, one that needs none, and the fabric stopped. -/
def readX : Xfer := { id := 90, cmd := 12, job := 80, own := own0, core := 0, agent := 3, bytes := 75, src := some (.near 0), dst := none, st := .done
                      srcAddr := stallAddr 1 0, data := List.replicate 75 5 }
theorem wit_MessagesAreSent_fragments :
    (send0.data.length < send0.need 0 ∧ send0.src = some (stallAddr 1 0) ∧ (∀ y ∈ (sendS 6 send0).xfers, y.job ≠ send0.id) ∧
      ((sendS 6 send0).shed = .running ∨ (sendS 6 send0).shed = .entering)) ∧
    (let s : State := { sendS 6 send0 with xfers := [readX] }
     (∃ y ∈ s.xfers, y.job = send0.id) ∧ (∀ y ∈ s.xfers, y.job = send0.id → y.st = .done) ∧
      (send0.data ++ readBytes s send0.id).length ≤ send0.hdr.len) ∧
    (let x := { send0 with data := List.replicate 300 5, whole := true }
     ¬x.data.length < x.need 4 ∧ x.data.length ≤ x.hdr.len) ∧
    ¬(({ s0 with shed := .shed } : State).shed = .running ∨ ({ s0 with shed := .shed } : State).shed = .entering) := by decide +kernel

/-- No message is on its way to a receive; and the table's receives. -/
theorem wit_noneComes : noneComes s0 { groupC 6 with stage := .running } ∧ ∀ e ∈ ([(3, 86)] : List (Nat × Nat)), nothingComes s0 e.2 :=
  ⟨fun _ h => absurd h List.not_mem_nil, fun _ _ => ⟨fun _ h => absurd h List.not_mem_nil, fun _ h => absurd h List.not_mem_nil⟩⟩

theorem wit_MessagesAreSent_deadlines :
    (let x := { send0 with left := [] }
    x.held = none ∧ x.left = [] ∧ boundaryAfter { sendS 6 x with station := 4096 } x.lastTick 4) ∧
    (let x := { send0 with held := some 1 }
    x.held = some 1 ∧ boundaryAfter { sendS 6 x with station := 5120 } 1 4) ∧
    (let x := { send0 with hdr := { hdr0 with kind := 1 } }
    (sendS 8 x).sends.find? (fun y => y.cmd == x.cmd && y.hdr.kind == 1) = some x ∧ (groupC 8).code = 8) ∧
    orderedGred { sendS 8 send0 with recvs := [recvG] } 1 1 3 = some { groupC 8 with stage := .running } ∧
    (let g : SwitchResult := { dev := 1, group := 1, hdr := { hdr0 with mid := 44, kind := 2 }, data := [] }
     let s : State := { sendS 6 send0 with results := [g] }
     s.results.find? (fun y => y.hdr.mid == 44) = some g ∧ (∀ y ∈ s.sends, y.mid ≠ 44) ∧ 4 ≤ g.hdr.k)  := by unfold boundaryAfter; decide

def payload : List Byte := List.replicate 128 5
/-- The header bytes with the check code of the payload. -/
def sealed (h : FragHdr) : List Byte := (fragBytes h payload).take 32
def recv0 : Recv := { id := 85, cmd := 12, own := own0, src := 7, tag := 99, inst := 0, kind := 0, cap := 300, dst := .far (2 ^ 40 + 512), addr := stallAddr 4 512,
                      from_ := 2, wait := 1 }
def msg0 : Msg := { id := 81, dev := 1, hdr := hdr0, first := 2, frags := [(0, payload)] }

theorem wit_MessagesAreReceived_arrival : fragGood (sealed hdr0) payload = true ∧ fragGood ((sealed hdr0).set 3 9) payload = false ∧
    fragFits (parseHdr (sealed hdr0)) payload = true ∧ (parseHdr (sealed hdr0)).src = 7 ∧ (parseHdr (sealed hdr0)).mid = 40 ∧
    (parseHdr (sealed hdr0)).kind = 0 ∧ 1 < (parseHdr (sealed hdr0)).k ∧ (parseHdr (sealed hdr0)).fidx < 4 ∧
    fragGood (sealed { hdr0 with len := 100, k := 1, m := 0, fidx := 0 }) payload = true ∧
    (parseHdr (sealed { hdr0 with len := 100, k := 1, m := 0, fidx := 0 })).k = 1 := by decide +kernel

theorem wit_MessagesAreReceived_receive : s0.retired = [] ∧ s0.msgs = [] ∧ s0.recvs = [] ∧ tableFor s0 1 hdr0 = none ∧ yardUsed s0 1 + payload.length ≤ 2 ^ 23 ∧
    (recv0.id ≠ 0 ∧ recv0.own.dev = 1 ∧ recv0.src = hdr0.src ∧ recv0.tag = hdr0.tag ∧ hdr0.len ≤ recv0.cap ∧ 1 * fragSize 300 4 ≤ 300) ∧
    tableFor { s0 with recvs := [recv0] } 1 hdr0 = none := by decide +kernel

def msgS (m : Msg) : State := { cmdS { groupC 7 with stage := .running } [] with msgs := [m], recvs := [recv0], losstmo := 1 }

theorem wit_MessagesAreReceived_ends :
    (let m := { msg0 with recv := some 85, doneAt := some 3000, full := some 2900 }
    (msgS m).msgs.find? (fun y => y.id == 81) = some m ∧ (msgS m).recvs.find? (fun y => some y.id == m.recv) = some recv0 ∧ 3000 ≤ (msgS m).station) ∧
    serves (msgS msg0) recv0.cmd { groupC 7 with stage := .running } ∧
    (msg0.full = none ∧ boundaryAfter { msgS msg0 with station := 3072 } msg0.first 1 ∧ msg0.recv ≠ some 0 ∧ msg0.recv = none ∧ hdr0.rt = 0 ∧ recv0.own = (groupC 7).own) ∧
    (boundaryAfter { msgS msg0 with station := 4096 } (2900 / 1024) 2) ∧
    (msgS msg0).msgs.find? (fun y => y.hdr.src == hdr0.src && y.hdr.mid == hdr0.mid && y.hdr.kind == 0 && (y.full.isNone || y.recv.isNone)) = some msg0 ∧
    (recv0.wait ≠ 0 ∧ recv0.msg = none ∧ boundaryAfter { msgS msg0 with station := 3072 } recv0.from_ recv0.wait) ∧
    (let r : Reduction := { id := 60, dev := 1, group := 1, gseq := 3, first := 2, came := [7] }
    let s := { groupS 8 with reductions := [r], losstmo := 1, station := 3072 }
    s.reductions.find? (fun y => y.id == r.id) = some r ∧ r.st = .collecting ∧ boundaryAfter s r.first 1 ∧
      ∃ d ∈ ((groupOf s 1 1).getD (0, [])).2, d ∉ r.came) :=
  ⟨by decide, decided (decServes _ _ _) (by decide +kernel), by unfold boundaryAfter; decide, by unfold boundaryAfter; decide, by decide,
    by unfold boundaryAfter; decide, by unfold boundaryAfter; decide +kernel⟩

/-! #### Timetables and the yardmaster -/

def ttSend : TTEntry := { stamp := 100, kind := 1, cls := 2, peer := 7, tag := 55, consume := 0, addr := stallAddr 1 0, len := 200 }
def ttRecv : TTEntry := { ttSend with kind := 2, consume := 900, addr := stallAddr 1 64 }
def table0 : Timetable := { cmd := 12, own := own0, stall := 1, entries := [ttSend, ttRecv], length := 2000, period := 3, count := 4, first := 12, tick := 5 }
/-- The timetable on core 0 at a station. -/
def ttS (T : Timetable) (station : Nat) : State :=
  { (cmdS { groupC 9 with stage := .running } []).setCore 0 { gtt := some T } with station := station }

theorem wit_TimetablesRun :
    (((ttS table0 5120).core 0).gtt = some table0 ∧ coreGoes (ttS table0 5120) ∧ table0.running = false ∧ table0.inst < table0.count ∧
      (ttS table0 5120).station = (5 + 0 * 3) * 1024) ∧
    (let T := { table0 with running := true, inst := 1, recvs := [(1, 90)] }
    T.entries[0]? = some ttSend ∧ (ttS T 5220).station = (T.tick + (T.inst - 1) * T.period) * 1024 + ttSend.stamp ∧ onCore (ttS T 5220) own0 ∧
      ((ttS T 5220).ctx 0).async.length < 16 ∧
      (let y := ((ttS T 5220).view 1).stall 1
      addrOffset ttSend.addr + 200 ≤ 64 * y.len ∧ y.level < 3 ∧ y.core / 4 = 0 ∧ y.st = .active ∧ (ttS T 5220).tick < y.paid ∧
        lienRoom ((ttS T 5220).dev 1) [y.id] = true) ∧ (5 : Word).getLsbD 63 = false ∧
      T.entries[1]? = some ttRecv ∧ (ttS T 6020).station = 5120 + ttRecv.consume ∧ (1, 90) ∈ T.recvs ∧
      (ttS T 7120).station = 5120 + T.length) ∧
    (let T := { table0 with running := true, inst := 4, ran := 4 }
    T.count ≤ T.inst ∧ (ttS T 16336).station = (5 + 3 * 3) * 1024 + T.length ∧ isCmd (ttS T 16336) 12 { groupC 9 with stage := .running }) :=
  ⟨⟨rfl, ⟨rfl, rfl⟩, rfl, by decide, rfl⟩, ⟨rfl, rfl, ⟨rfl, rfl⟩, by decide, by decide, by decide, rfl, rfl, by decide, rfl⟩, by decide, rfl,
    decided (decCmd _ _ _) (by decide +kernel)⟩

/-- The launch of the record that `launchS` holds, alone in the queue, at the boundary of tick 3; its device has a reservation on paddock 1. -/
def launch0 : Launch := { id := 5, dev := 1, record := recL, recAddr := stallAddr 1 0, reporter := none, stage := .eligible }
def yardS (l : Launch) (r : Resv) : State :=
  { launchS with station := 3072, cur := 5, launches := [(5, some l)], pwrCap := 1, devs := [(1, { dev1 with resv := [(1, r)] })], pkgid := 2,
                 ctxs := [(0, { c0 with launch := 5 })] }

theorem wit_LaunchesAreScheduled_budgets : boundary (yardS launch0 {}) ∧ (yardS launch0 {}).shed = .running ∧ FMap.wf {} (yardS launch0 {}).devs = true ∧
    ({ yardS launch0 {} with launches := [] } : State).launches = [] ∧
    (∀ r ∈ [({ pending := some (2, 8) } : Resv), { budget := 1, period := 2, pending := some (0, 9) }, { budget := 2, period := 8, deadline := 3 },
      { budget := 2, period := 8, deadline := 4, left := 1 }], ((yardS launch0 r).dev 1).resv.get {} 1 = r ∧ r ≠ {}) := by
  unfold boundary; decide

theorem launch0_image : kernelImage (yardS launch0 {}) launch0 = some (st3, { code := 64, codeLen := 4, dict := 0, dictN := 0, micro := 0, microN := 0, table := 0 }) := by
  decide +kernel

theorem wit_LaunchesAreScheduled_placement : let r : Resv := { budget := 2, period := 8, deadline := 9, left := 1 }
    (yardS launch0 r).launches = [(launch0.id, some launch0)] ∧ launch0.record.paddock < 16 ∧ launch0.record.fabric = false ∧ launch0.gang = 0 ∧
    launch0.record.entries = [] ∧ launch0.dev < 64 ∧ ((yardS launch0 r).dev 1).en = true ∧
    0 < ((((yardS launch0 r).dev 1).resv.get {} 1).settle 3 (decide ((yardS launch0 r).holders.get none 1 = some 1))).left ∧
    needsMove (yardS launch0 r) 1 1 = false ∧ (yardS launch0 r).pwrAvg ≤ (yardS launch0 r).pwrCap ∧
    (placeWave (yardS launch0 r) 1 recL (freeFor (yardS launch0 r) 1 1)).isSome = true ∧
    placeWave ((yardS launch0 r).setCore 0 { owner := 9 }) 1 recL (freeFor ((yardS launch0 r).setCore 0 { owner := 9 }) 1 1) = none ∧ settledFar (yardS launch0 r) := by
  refine ⟨rfl, by decide, by decide, rfl, rfl, by decide, by decide, by decide, by decide +kernel, by decide, by decide +kernel, by decide +kernel, rfl, rfl⟩

theorem one_launch (s : State) (l : Launch) (h : s.launches = [(l.id, some l)]) : isLaunch s l := by
  unfold isLaunch State.launch
  rw [h]
  constructor
  · simp [FMap.get]
  · intro j d hd
    by_cases e : l.id = j
    · subst e; simp [FMap.get] at hd; rw [hd]
    · simp [FMap.get, e] at hd

/-- The launch as the first of the members 2 and 7 of the group 1, and as a copy of one of package 7. -/
def homeL : Launch := { launch0 with gang := 2 * 2 ^ 32 + 5, record := { recL with group := 1, levels := [{ extent := 2, scope := 0, domain := 5 }] } }
def copyL : Launch := { launch0 with gang := 7 * 2 ^ 32 + 5 }
def gangS (l : Launch) : State :=
  wr (devM (yardS l {}) fun d => { d with grpbase := stallAddr 1 12288 }) 12352 64 (5 + 2 * 2 ^ 16 + 2 * 2 ^ 32 + 7 * 2 ^ 48)

theorem wit_LaunchesAreScheduled_gangs :
    (let l := { launch0 with stage := .loading, placed := 2, leaves := [(0, [1])], far := [(0, 4)] }
    isLaunch (yardS l {}) l ∧ (l.leaves.map Prod.fst).Nodup ∧ l.placed < 3 ∧ l.gang = 0 ∧ l.far.find? (fun f => f.1 == 0) = some (0, 4)) ∧
    (let l := { copyL with stage := .gang, gangTick := some 3 }
    isLaunch (yardS l {}) l ∧ l.gangTick = some 3) ∧
    (let l := { copyL with stage := .loading, placed := 2 }
    isLaunch (yardS l {}) l ∧ l.gang ≠ 0 ∧ l.gang / 2 ^ 32 ≠ (yardS l {}).pkgid ∧ gangLaunch (yardS l {}) l.gang = some l) ∧
    homeLaunch (gangS homeL) homeL.gang = some homeL ∧ ((groupOf (gangS homeL) 1 1).getD (0, [])).2 = [2, 7] ∧
    (let l : Launch := { homeL with waves := 2, gang := 7 * 2 ^ 32 + 5, leaves := [(0, [1])], record := { homeL.record with levels := [⟨4, 0, 5⟩] } }
     digitMoves ((gangS l).vacateNear l) l = true ∧ l.gang / 2 ^ 32 ≠ (gangS l).pkgid ∧ l.leaves ≠ []) ∧
    (∃ m ∈ [2, 7], m ≠ 2 ∧ m ∉ homeL.gone) ∧ ({ homeL with waves := 2 } : Launch).wave + 1 < 2 ∧ (gangS homeL).shed = .running ∧
    (∃ m ∈ [2, 7], m ≠ 2 ∧ m ∉ homeL.came) ∧ (∀ m ∈ [2, 7], m = 7 ∨ m ∈ ({ homeL with came := [2] } : Launch).came) :=
  ⟨⟨one_launch _ _ rfl, by decide, by decide, rfl, by decide⟩, ⟨one_launch _ _ rfl, rfl⟩, ⟨one_launch _ _ rfl, by decide, by decide, by decide⟩,
    by decide +kernel, by decide +kernel, by decide +kernel, by decide, by decide, rfl, by decide, by decide⟩

theorem wit_LaunchesAreScheduled_copies : (launchS.dev 1).fabdom = 0 ∧ (1 : Nat) ≠ 0 ∧ accepts launchS 1 (parseRecord (launchS.mem.readN 0 256)) ∧
    (launchS.dev 1).fabdom ≠ 1 := by
  refine ⟨by decide, by decide, ?_, by decide⟩
  rw [launchS_record]
  exact ⟨by decide, by decide, launchS_ok, by simp [recL]⟩

/-- A launch whose last leaf has halted, with one wave and with two. -/
def endL (waves : Nat) : Launch := { launch0 with stage := .running, endAt := some 3000, waves := waves }

theorem wit_LaunchesAreScheduled_ends :
    (isLaunch (yardS (endL 1) {}) (endL 1) ∧ 3000 < (yardS (endL 1) {}).station ∧ (endL 1).waves ≤ (endL 1).wave + 1 ∧ (endL 1).near = [] ∧
      (endL 1).stage ≠ .ended ∧ (endL 1).record.donej = 0) ∧
    ((endL 2).wave + 1 < (endL 2).waves ∧ (endL 2).stage = .running) ∧
    (let l := { endL 1 with record := { recL with donej := stallAddr 1 64 } }
    let s := wr (yardS l {}) 64 12 (3 + 1 * 2 ^ 32 + 2 ^ 64)
    (∃ y, jcbStall s 1 l.record.donej = .ok y ∧ jcbState (jcbWord s (y.phys + 64)) = 1 ∧ jcbDone (jcbWord s (y.phys + 64)) + 1 < jcbExpected (jcbWord s (y.phys + 64))) ∧
      l.far = []) ∧
    (let l := { endL 1 with gang := 7 * 2 ^ 32 + 5, units := [(0, 0, 0, 0)] }
    isHome (yardS l {}) l = false ∧ l.units ≠ []) :=
  ⟨⟨one_launch _ _ rfl, by decide, by decide, rfl, nofun, rfl⟩, ⟨by decide, rfl⟩, ⟨⟨st1, by decide +kernel⟩, rfl⟩, by decide, nofun⟩

/-- Core 0 owned by the launch, with a request to give way since tick 2. -/
def preS (l : Launch) : State := { (yardS l {}).setCore 0 { owner := 5, pre := some 2 } with cur := 0 }

theorem wit_LaunchesAreScheduled_cores :
    (let s := { (yardS { launch0 with stage := .ended } {}).setCore 0 { owner := 5 } with cur := 0 }
    s.myCore = 0 ∧ (s.core 0).owner ≠ 0 ∧ coreQuiet s 0 = true ∧ (s.launch (s.core 0).owner).map (·.stage) = some .ended) ∧
    (let l := { launch0 with record := { recL with snap := true, waitlim := 1 } }
    ((preS l).core (preS l).myCore).pre = some 2 ∧ (preS l).launch 5 = some l ∧ l.record.snap = true ∧ 2 + l.record.waitlim ≤ (preS l).tick) ∧
    (let s := me (preS { launch0 with stage := .preempting }) fun _ => { c0 with launch := 5 }
    preHalts s 0 = true) ∧
    (let s := (me (preS { launch0 with stage := .preempting }) fun _ => { c0 with launch := 5 }).setCore 0
       { owner := 5, pre := some 2, leanTo := some { core := 0, launch := 8, dev := 2, ctxs := [], engine := {}, mp := [], rt := [], sc := [] } }
    preHalts s 0 = true ∧ (s.core 0).leanTo.isSome = true) ∧
    (let s := { (me (yardS { endL 1 with endAt := some 3000 } {}) fun c => { c with run := .ended, launch := 5 }).setCore 0 { owner := 5 } with cur := 0 }
    coreQuiet s 0 = true ∧ (s.launch 5).map (·.stage) = some .running ∧
      ∀ i, i < 4 → (s.ctx (4 * 0 + i)).launch = 5 → (s.ctx (4 * 0 + i)).alive = false) := by decide

def savedC : SavedCore := { core := 0, launch := 5, dev := 1, ctxs := [(0, { c0 with run := .saved })], engine := {}, mp := [], rt := [], sc := [] }
def savedL : Launch := { launch0 with stage := .saved, units := [(0, 0, 0, 0)] }
def savedS : State := { (yardS savedL {}).setCore 0 { leanTo := some savedC } with holders := [(1, some 1)] }

theorem wit_LaunchesAreScheduled_resume : isLaunch savedS savedL ∧ savedL.id = savedS.cur ∧ resumable savedS savedL = true ∧
    savedL.units = [(0, 0, 0, 0)] ∧ savedOf savedS 0 5 = some savedC ∧ (savedC.ctxs.map Prod.fst).Nodup ∧
    settledFar savedS ∧ ({ savedC with acc := [(2 ^ 23, [1, 2], [])] } : SavedCore).acc = [(2 ^ 23, [1, 2], [])] :=
  ⟨one_launch _ _ rfl, rfl, by decide +kernel, rfl, by decide +kernel, by decide, ⟨rfl, rfl⟩, rfl⟩

/-- A boundary of a shed, no launch that has ended, and an overflow whose one state does not move. -/
theorem wit_LaunchesAreScheduled_shed : let o : SavedCore := { core := 0, launch := 8, dev := 2, ctxs := [], engine := {}, mp := [], rt := [], sc := [] }
    let s := { yardS launch0 {} with shed := .entering, overflow := [o] }
    boundary s ∧ s.shed ≠ .running ∧ fabricRuns s ∧ ¬fabricRuns { s with shed := .shed } ∧ launch0.endAt = none ∧ (∀ x ∈ s.overflow, x.transit = false) := by
  unfold boundary fabricRuns; decide

/-- The home with a member whose share runs on, and with all of them over; the last report where its own share is over, and between waves. -/
theorem wit_LaunchesAreScheduled_home : let l : Launch := { homeL with stage := .running, endAt := some 3000, waves := 1 }
    (isLaunch (gangS l) l ∧ isHome (gangS l) l = true ∧ l.gang ≠ 0 ∧ l.endAt = some 3000 ∧ 3000 < (gangS l).station ∧ l.waves ≤ l.wave + 1 ∧
      (gangMembers (gangS l) l = [2, 7]) ∧ (∃ m ∈ [2, 7], m ≠ (gangS l).pkgid ∧ m ∉ l.gone) ∧
      (∀ m ∈ [2, 7], m = (gangS l).pkgid ∨ m ∈ ({ l with gone := [7] } : Launch).gone) ∧ l.record.donej = 0 ∧ noSlot (gangS l) l) ∧
    (let k := { l with stage := .ended, gone := [2] }
     homeLaunch (gangS k) k.gang = some k ∧ fabricRuns (gangS k) ∧ (∀ m ∈ [2, 7], m = 7 ∨ m ∈ k.gone) ∧ k.stage = .ended) ∧
    (let k := { l with stage := .between, waves := 2, gone := [2] }
     homeLaunch (gangS k) k.gang = some k ∧ (∀ m ∈ [2, 7], m = 7 ∨ m ∈ k.gone) ∧ k.stage ≠ .ended ∧ k.wave + 1 < k.waves) ∧
    (endL 2).record.fabric = false ∧ digitMoves ((yardS (endL 2) {}).vacateNear (endL 2)) (endL 2) = false := by
  unfold noSlot fabricRuns
  exact ⟨⟨one_launch _ _ rfl, by decide +kernel, by decide, rfl, by decide, by decide, by decide +kernel, by decide, by decide, rfl, by decide⟩,
    ⟨by decide +kernel, by decide, by decide, rfl⟩, ⟨by decide +kernel, by decide, by decide, by decide⟩, rfl, by decide +kernel⟩

/-- A core whose launch has its last wave, one of whose leaves was the core's. -/
theorem wit_LaunchesAreScheduled_release : let l := { endL 1 with endAt := none, leaves := [(0, [1])] }
    let s := { (me (yardS l {}) fun c => { c with run := .ended, launch := 5 }).setCore 0 { owner := 5 } with cur := 0 }
    boundary s ∧ (s.core 0).owner ≠ 0 ∧ coreQuiet s 0 = true ∧ s.launch 5 = some l ∧ l.waves ≤ l.wave + 1 ∧ l.stage = .running ∧
      (∃ e ∈ l.leaves, keyCore e.1 = s.myCore) ∧ ∀ i, i < 4 → (s.ctx (4 * s.myCore + i)).launch = l.id → (s.ctx (4 * s.myCore + i)).alive = false := by
  unfold boundary; decide

/-- An overflow of 2^34 bytes, a lean-to whose device holds no paddock, and an empty overflow at the resume. -/
theorem wit_LaunchesAreScheduled_overflow : let hyp2 : Device := { en := true, stalls := [(2, { st1 with id := 2, len := 2 ^ 28, level := 3, phys := 2 ^ 40, core := 0 })] }
    let s := { preS { launch0 with stage := .preempting } with devs := [(1, dev1), (64, hyp2)], ltovf := stallAddr 2 0 }
    overflowOk s = true ∧ overflowOk (preS launch0) = false ∧ s.holders.get none (s.paddocks.get 0 0) ≠ some 2 ∧ s.mem.wf = true ∧
      ((preS launch0).core 0).leanTo = none ∧ overflowOk savedS = false ∧ savedS.overflow = [] := by decide +kernel

/-! #### WAKE, timed slots, outside writes, boot and shed -/

/-- The hypervisor's device, whose stall 1 holds the time-triggered table and the attestation report. -/
def hyp1 : Device := { en := true, stalls := [(1, { st1 with phys := 2 ^ 25 })] }
/-- `launchS` at a boundary, the record of its stall 1 in entry 0 of the table, with the entry's flags and progress; and a ring of four records there. -/
def slotS (flags : Nat) (e : TTSlot) : State :=
  { wr { launchS with devs := [(1, { dev1 with subring := stallAddr 1 0, subSize := 3, tokens := 2, burst := 4, rate := 1 }), (64, hyp1)],
                      launches := [(5, some launch0)], station := 3072, ttbase := stallAddr 1 0 } (2 ^ 25) 32
      (adn 1 0 + 1000 * 2 ^ 128 + 2 ^ 160 + flags * 2 ^ 176) with ttSlots := [(0, e)] }
def slotBs (flags : Nat) : List Byte := natToBytes 32 (adn 1 0 + 1000 * 2 ^ 128 + 2 ^ 160 + flags * 2 ^ 176)

/-- The key of the entry (its bytes 8 to 19). -/
def slotKey : Nat := 1000 * 2 ^ 64
theorem slot_key : ∀ f ∈ [0, 1, 3], bytesToNat (((slotBs f).drop 8).take 12) = slotKey := by decide

theorem slot_reached (now : Nat) : slotsReached (slotBs 1) now = now / 1000 + 1 ∧ slotsReached (slotBs 3) now = now / 1000 + 1 ∧
    slotsReached (slotBs 0) now = now / 1000 + 1 := by
  have h : ∀ f ∈ [0, 1, 3], bytesToNat (((slotBs f).drop 8).take 8) = 0 ∧ bytesToNat (((slotBs f).drop 16).take 4) = 1000 := by decide
  have := h 0; have := h 1; have := h 3
  simp_all [slotsReached]

theorem slot_entry : slotEntry (slotS 1 {}) 0 = some (2 ^ 25, slotBs 1) ∧ slotEntry (slotS 3 {}) 0 = some (2 ^ 25, slotBs 3) ∧
    slotEntry (slotS 0 {}) 0 = some (2 ^ 25, slotBs 0) := by decide +kernel

/-- The slots of the entry that have come before the last one at the boundary of tick 3. -/
def before3 : Nat := Config.wallClock 6 / 1000

theorem slotS_record : parseRecord (recordAt (slotS 1 { key := slotKey, done := before3 }) 1 (stallAddr 1 0)) = recL := by decide +kernel

theorem slotS_ok : recordOk (slotS 1 { key := slotKey, done := before3 }) 1 recL = true := by decide +kernel

theorem slotS_ok3 : recordOk (slotS 3 { key := slotKey, done := before3 + 1, deferred := true }) 1 recL = true := by decide +kernel

theorem wit_WakesAndTimedSlots_wake : ((s0.dev 9).en = false) ∧ (({ dev1 with tokens := 0 } : Device).en = true) ∧
    (let s := slotS 1 { key := slotKey, done := before3 }
    let d := s.dev 1
    d.en = true ∧ 0 < d.tokens ∧ d.subSize < 4096 ∧ d.subHead ≤ d.subSize ∧
      (∃ bs, ringRecord s 1 d.subHead = (d.subring + BitVec.ofNat 64 (256 * d.subHead), bs) ∧ parseRecord bs = recL ∧ recordOk s 1 (parseRecord bs) = true ∧
        (deviceLaunches s 1).length < 512) ∧
      (d.subHead + 1) % (d.subSize + 1) = 1 % 2 ^ 32 % (d.subSize + 1) ∧ d.subHead ≠ 1 % 2 ^ 32 % (d.subSize + 1)) ∧
    (let m : Device := { dev1 with wakeAgain := true, burst := 4, rate := 1, wakeTail := 7 }
    m.wakeAgain = true ∧ m.en = true ∧ 0 < min m.burst (m.tokens + m.rate) ∧ m.subSize < 4096 ∧ m.subHead ≤ m.subSize) ∧ dev1.wakeAgain = false := by
  refine ⟨by decide, by decide, ⟨by decide, by decide, by decide, by decide, ⟨recordAt (slotS 1 { key := slotKey, done := before3 }) 1 (stallAddr 1 0), ?_, slotS_record, ?_, ?_⟩, by decide, by decide⟩,
    by decide, by decide⟩
  · decide +kernel
  · rw [slotS_record]; exact slotS_ok
  · decide

theorem wit_WakesAndTimedSlots_slots :
    (let e : TTSlot := { key := slotKey, done := before3 }
    let s := slotS 1 e
    slotEntry s 0 = some (2 ^ 25, slotBs 1) ∧ boundary s ∧ s.shed = .running ∧ s.ttSlots.get {} 0 = e ∧ ((slotBs 1).getD 22 0).toNat % 2 = 1 ∧
      ((slotBs 1).getD 22 0).toNat / 2 % 2 = 0 ∧ ((slotBs 0).getD 22 0).toNat % 2 = 0 ∧
      slotsReached (slotBs 1) (boundaryTime s) = e.done + 1 ∧ ¬(e.launch ≠ 0 ∧ (s.launch e.launch).any (fun l => !isOver s l) = true) ∧
      BitVec.ofNat 64 (bytesToNat ((slotBs 1).take 8)) = stallAddr 1 0 ∧ bytesToNat (((slotBs 1).drop 20).take 2) = 1 ∧
      accepts s 1 (parseRecord (recordAt s 1 (stallAddr 1 0)))) ∧
    (let e : TTSlot := { key := slotKey, done := before3, launch := 5 }
    let s := slotS 1 e
    slotEntry s 0 = some (2 ^ 25, slotBs 1) ∧ boundary s ∧ (e.launch ≠ 0 ∧ (s.launch e.launch).any (fun l => !isOver s l) = true) ∧
      slotsReached (slotBs 1) (boundaryTime s) = e.done + 1 ∧ e.missed = 0 ∧ e.deferred = false ∧ s.hypq.addr = 0) ∧
    (let e : TTSlot := { key := slotKey, done := before3, launch := 5 }
    let s := slotS 3 e
    slotEntry s 0 = some (2 ^ 25, slotBs 3) ∧ boundary s ∧ (e.launch ≠ 0 ∧ (s.launch e.launch).any (fun l => !isOver s l) = true) ∧ ((slotBs 3).getD 22 0).toNat / 2 % 2 = 1 ∧
      slotsReached (slotBs 3) (boundaryTime s) = e.done + 1 ∧ e.missed = 0 ∧ e.deferred = false) ∧
    (let e : TTSlot := { key := slotKey, done := before3 + 1, deferred := true }
    let s := slotS 3 e
    slotEntry s 0 = some (2 ^ 25, slotBs 3) ∧ boundary s ∧ slotsReached (slotBs 3) (boundaryTime s) ≤ e.done ∧ e.deferred = true ∧
      ¬(e.launch ≠ 0 ∧ (s.launch e.launch).any (fun l => !isOver s l) = true) ∧ accepts s 1 (parseRecord (recordAt s 1 (stallAddr 1 0)))) := by
  refine ⟨⟨by decide +kernel, by unfold boundary; decide, by decide, rfl, by decide, by decide, by decide, ?_, by decide, by decide, by decide, ?_⟩,
    ⟨by decide +kernel, by unfold boundary; decide, by decide, ?_, rfl, rfl, rfl⟩,
    ⟨by decide +kernel, by unfold boundary; decide, by decide, by decide, ?_, rfl, rfl⟩,
    ⟨by decide +kernel, by unfold boundary; decide, ?_, rfl, by decide, ?_⟩⟩
  · exact (slot_reached _).1
  · rw [slotS_record]; exact ⟨by decide, by decide, slotS_ok, by simp [recL]⟩
  · exact (slot_reached _).1
  · exact (slot_reached _).2.1
  · exact Nat.le_of_eq (slot_reached _).2.1
  · have : parseRecord (recordAt (slotS 3 { key := slotKey, done := before3 + 1, deferred := true }) 1 (stallAddr 1 0)) = recL := by decide +kernel
    rw [this]; exact ⟨by decide, by decide, slotS_ok3, by simp [recL]⟩

/-- A context of the selected device stopped toward HYP, alone and last of its launch. -/
def stopS : State := { (me launchS fun c => { c with run := .stopHyp, launch := 5, trapH := { cause := 2 ^ 28, pc := 41 } }) with
  vdsel := 1, launches := [(5, some { launch0 with live := 1 })] }

theorem wit_OutsideWritesReachRegisters :
    ((2 ^ 63 : Word).getLsbD 63 = true ∧ (1000 : Word).getLsbD 63 = false) ∧
    ((devM s0 fun d => { d with ptinv := [(8, []), (1, [])] }).dev 1).ptinv = (8, []) :: [(1, [])] ∧
    (∀ e ∈ s0.devs, (resvTerms (e.2.resv.get {} 3)).2 ≠ 0 ∨ (resvTerms (e.2.resv.get {} 3)).1 = 0) ∧
    (let v := (2 + 8 * 2 ^ 16 : Nat)
    v / 2 ^ 16 % 2 ^ 16 ≠ 0 ∧ v % 2 ^ 16 ≤ v / 2 ^ 16 % 2 ^ 16 ∧ (((s0.devs.filter fun e => e.1 ≠ 1).map fun e => resvTerms (e.2.resv.get {} 0)).map fun r => r.1 / r.2).sum +
      ((v % 2 ^ 16 : Nat) : Rat) / ((v / 2 ^ 16 % 2 ^ 16 : Nat) : Rat) ≤ 1) ∧ (¬(9 % 2 ^ 16 = 0) ∧ 9 / 2 ^ 16 % 2 ^ 16 = 0) ∧
    (stoppedOwner s0 0 = none ∧ stoppedHere stopS 0 ∧ (stopS.dev (stopS.ctx 0).dev).dhimg = 0 ∧
      ((devM stopS fun d => { d with dhimg := stallAddr 1 0 }).dev 1).dhimg ≠ 0 ∧ stopS.launch (stopS.ctx 0).launch = some { launch0 with live := 1 }) ∧
    (let f := fun lo n => (2 + 3 * 2 ^ 8 + 4 * 2 ^ 16 : Nat) / 2 ^ lo % 2 ^ n
    1 ≤ f 0 5 ∧ f 0 5 ≤ 16 ∧ f 8 4 ≤ 8 ∧ f 0 5 + f 8 4 ≤ 24 ∧ 1 ≤ f 16 5 ∧ f 16 5 ≤ 16) ∧ ¬(1 ≤ 0 / 2 ^ 0 % 2 ^ 5) ∧
    (∀ v ∈ [0, 1, 2, 3], (v * 2 ^ 8) / 2 ^ 8 % 2 ^ 2 = v) ∧ (natToBytes 32 5).length = 32 := by
  refine ⟨by decide +kernel, by decide, by decide +kernel, by decide +kernel, by decide, ⟨by decide, ⟨by decide, by decide⟩, by decide, by decide, by decide⟩, by decide, by decide, by decide, by decide⟩

/-- An entry of a stall table that the hypervisor reads, of a stall that is there and of one that is not, and an address of no table. -/
theorem wit_OutsideWritesReachRegisters_table : let s := devM s0 fun d => { d with dtbase := stallAddr 1 0 }
    let a := stallAddr 1 0
    (s.dev 1).dtbase ≠ 0 ∧ (∀ e, e < 64 → e ≠ 1 → (s.dev e).dtbase = 0 ∨ addrStall (s.dev e).dtbase ≠ addrStall (s.dev 1).dtbase) ∧
      (∀ id ∈ [1, 32767], addrStall (a + BitVec.ofNat 64 (32 * id)) = addrStall (s.dev 1).dtbase ∧
        addrOffset (a + BitVec.ofNat 64 (32 * id)) = addrOffset (s.dev 1).dtbase + 32 * id ∧ addrOffset (a + BitVec.ofNat 64 (32 * id)) + 32 ≤ 2 ^ 48) ∧
      ((s.dev 1).stall 1).id ≠ 0 ∧ ((s.dev 1).stall 32767).id = 0 ∧
      (∀ e, e < 64 → (s.dev e).dtbase = 0 ∨ addrStall (s.dev e).dtbase ≠ addrStall (stallAddr 2 0)) ∧ s.bootStage = 0 ∧ ({ s with bootStage := 2 } : State).bootStage ≠ 0 := by
  decide +kernel

theorem wit_OutsideWritesReachRegisters_migctl : (∀ die, die < 4 → migctlReg die = (BitVec.ofNat 12 (migctlReg die)).toNat) ∧
    ∃ n ∈ [4, 5, 6, 7, 0xB], csrAssigned n = false ∧ ∀ die, die < 4 → migctlReg die ≠ n := by
  refine ⟨fun die h => ?_, ?_⟩
  · rw [BitVec.toNat_ofNat, Nat.mod_eq_of_lt (migctlReg_spec h).1]
  · refine Classical.byContradiction fun h => ?_
    have free : ∀ n ∈ [4, 5, 6, 7, 0xB], csrAssigned n = false := by decide
    have g : ∀ n ∈ [4, 5, 6, 7, 0xB], ∃ die, die < 4 ∧ migctlReg die = n := fun n hn =>
      Classical.byContradiction fun k => h ⟨n, hn, free n hn, fun d hd e => k ⟨d, hd, e⟩⟩
    obtain ⟨a, ha, ea⟩ := g 4 (by decide)
    obtain ⟨b, hb, eb⟩ := g 5 (by decide)
    obtain ⟨c, hc, ec⟩ := g 6 (by decide)
    obtain ⟨d, hd, ed⟩ := g 7 (by decide)
    obtain ⟨e, he, ee⟩ := g 0xB (by decide)
    have n : ∀ {x y u v : Nat}, migctlReg x = u → migctlReg y = v → u ≠ v → x ≠ y := fun p q h e => h (p.symm.trans (e ▸ q))
    have := n ea eb (by decide); have := n ea ec (by decide); have := n ea ed (by decide); have := n ea ee (by decide)
    have := n eb ec (by decide); have := n eb ed (by decide); have := n eb ee (by decide); have := n ec ed (by decide)
    have := n ec ee (by decide); have := n ed ee (by decide)
    omega

/-- The hypervisor's stall long enough for a report, and a report under way. -/
def attS : State := { s0 with devs := [(1, dev1), (64, hyp1)], attdst := stallAddr 1 64 }

theorem wit_BootAttestationAndShed :
    (let y := attS.stall hypDev (addrStall attS.attdst)
    attS.attBusy = none ∧ attS.attdst.getLsbD 63 = true ∧ y.id ≠ 0 ∧ y.st = .active ∧ 8464 ≤ 64 * y.len) ∧
    (let s := { attS with attBusy := some (stallAddr 1 64, natToBytes 32 77) }
    s.attBusy ≠ none ∧ (natToBytes 32 77).length = 32 ∧ s.shed = .running ∧ (s.stall hypDev (addrStall (stallAddr 1 64))).id ≠ 0 ∧ s.hypq.addr = 0) ∧
    (∃ r, 4 ≤ r ∧ r ≤ 15) ∧
    (∀ p ∈ [ShedPhase.running, .exiting, .entering, .checkpoint, .shed], ({ s0 with shed := p } : State).shed = p) ∧
    (let s := { s0 with shed := .checkpoint }
    s.shed = .checkpoint ∧ (∀ x ∈ s.xfers, standsStill s x = true) ∧ (∀ x ∈ s.sends, ∀ y ∈ s.xfers, y.job ≠ x.id) ∧ s.stable = false ∧
      ({ s with stable := true } : State).stable = true) :=
  ⟨by decide, by decide, ⟨4, by decide⟩, by decide, by decide⟩

/-! #### Encoding, memory, and the commands of the engines -/

theorem wit_EncodingRoundTrip : (Instr.mhalt.wf = true ∧ Instr.mhalt.slot = some .M ∧ decodeSlot .M 0x40000000 = some .mhalt) ∧
    (Instr.endl.wf = true ∧ isMicro .endl = true ∧ decodeMicro (encode .endl) = some .endl) := by decide

theorem wit_MemoryStaysCanonical : s0.mem.wf = true ∧ ({ s0 with todo := [(0, .mhalt)] } : State).mem.wf = true ∧
    (match step { s0 with todo := [(0, .mhalt)] } with | .next _ => true | _ => false) = true := by decide +kernel

def other0 : Owner := { own0 with key := 1 }
def callOf (o : Owner) : MEntry := .call o 2 [] false 0 2000 3
def rout0 : Routine := { own := own0, idx := 1, snap := [], start := 2000, pc := 5, issued := 2990 }
def matS (q : List MEntry) (r : Option Routine) : State := s0.setCore 0 { mp := [(0, 11), (3, 33)], owner := 9, eng := { queue := q, routine := r } }

theorem wit_MatrixCommandsAccepted :
    4 ≤ ((matS (List.replicate 4 (callOf other0)) none).core (matS (List.replicate 4 (callOf other0)) none).myCore).eng.queue.length ∧
    ¬hasRoom (me s0 fun c => { c with evres := 64 }).me ∧
    (let s := matS [callOf own0] (some rout0)
    (s.core s.myCore).eng.queue.length < 4 ∧ hasRoom s.me ∧ (s.core s.myCore).eng.routine = some rout0 ∧ rout0.own.key = s.cur ∧
      rout0.own.launch = s.me.launch ∧ rout0.marked = none) ∧
    (∀ e ∈ ((matS [callOf other0] none).core 0).eng.queue, ∀ o i p b a m g, e = .call o i p b a m g → ¬(o.key = (matS [callOf other0] none).cur ∧ o.launch = (matS [callOf other0] none).me.launch)) := by
  refine ⟨by decide, by unfold hasRoom; decide, ⟨by decide, by unfold hasRoom; decide, by decide, rfl, rfl, rfl⟩, ?_⟩
  intro e he o i p b a m g hc h
  have : ((matS [callOf other0] none).core 0).eng.queue = [callOf other0] := by decide
  simp only [this, List.mem_singleton] at he
  subst he
  simp only [callOf, MEntry.call.injEq] at hc
  obtain ⟨rfl, -⟩ := hc
  exact absurd h.1 (by decide)

theorem wit_TransferGroupAndTackCommandsAccepted :
    16 ≤ (me s0 fun c => { c with dq := List.range 16 }).me.dq.length ∧ 16 ≤ (me s0 fun c => { c with gq := List.range 16 }).me.gq.length ∧
    s0.me.dq.length < 16 ∧ s0.me.gq.length < 16 ∧ (∀ k ∈ [0, 1, 2, 3], hasRoom (s0.ctx k)) ∧ ¬hasRoom (me s0 fun c => { c with evres := 64 }).me ∧
    (8 : XNum).toNat % 4 = 0 ∧ (7 : XNum).toNat % 2 ≠ 0 ∧ (s0.core s0.myCore).tack.queue.length < 4 ∧
    4 ≤ ((s0.setCore 0 { tack := { queue := List.replicate 4 { id := 1, code := 1, own := own0, accepted := 5, regs := [] } } }).core 0).tack.queue.length := by
  unfold hasRoom; decide

/-- A core that is asked to give way, by a launch that takes snapshots. -/
theorem wit_TransferGroupAndTackCommandsAccepted_asked : let l := { launch0 with record := { recL with snap := true } }
    let s := me (preS l) fun _ => { c0 with launch := 5 }
    ((s.core s.myCore).pre.isSome && decide (s.shed = .running) && (s.launch s.me.launch).any fun l => l.record.snap) = true ∧
      s.me.snapped = false ∧ (s.core s.myCore).tack.queue.length < 4 ∧ hasRoom s.me := by
  unfold hasRoom; decide

/-! ### Single steps, with results worked out by hand from the rules -/

/-- The value of the last write to an x, v, k or c register that a step puts off. -/
def value (i : Instr) (s : State) : Option Nat := (run i s).me.pend.getLast?.map (·.val)
/-- x1 = 2^64 - 7, x2 = 2, x3 = 2^63, x4 = 2^64 - 1. -/
def xs0 : State := withX [(1, 2 ^ 64 - 7), (2, 2), (3, 2 ^ 63), (4, 2 ^ 64 - 1)]

/-- A vector register of lanes of a format, the first given and the rest zero. -/
def lanesOf (w : Nat) (xs : List Nat) : VReg := BitVec.ofNat 4096 ((xs.zipIdx.map fun p => p.1 * 2 ^ (w * p.2)).sum)
/-- A vector register of context 0 beside another, lane 0 of each. -/
def vs0 (w : Nat) (xs ys : List Nat) : State := s0.setCtx 0 { c0 with v := [(1, lanesOf w xs), (2, lanesOf w ys)] }
/-- The lanes of the write put off last. -/
def lanesGot (w n : Nat) (i : Instr) (s : State) : List Nat :=
  (List.range n).map fun j => (value i s).getD 0 / 2 ^ (w * j) % 2 ^ w

/-- R254: sums wrap, the arithmetic shift copies the sign, and a count of the leading zeros. -/
theorem test_scalar_arithmetic : value (.add .s0 5 1 4) xs0 = some (2 ^ 64 - 8) ∧ value (.sub .s1 5 2 1) xs0 = some 9 ∧
    value (.sra .s0 5 3 2) xs0 = some (2 ^ 63 + 2 ^ 62 + 2 ^ 61) ∧ value (.min .s0 5 1 2) xs0 = some (2 ^ 64 - 7) ∧
    value (.minn .s0 5 1 2) xs0 = some 2 ∧ value (.clz .s0 5 2) xs0 = some 62 := by decide +kernel

/-- R257: -7 × 2 = -14, whose high half is all ones; as naturals the high half is 1. -/
theorem test_scalar_multiply : value (.mul .s0 5 1 2) xs0 = some (2 ^ 64 - 14) ∧ value (.mulh .s0 5 1 2) xs0 = some (2 ^ 64 - 1) ∧
    value (.mulhn .s0 5 1 2) xs0 = some 1 := by decide +kernel

/-- R258: the spec's worked values. -/
theorem test_scalar_division : value (.divs .s0 5 1 2) xs0 = some (2 ^ 64 - 3) ∧ value (.rems .s0 5 1 2) xs0 = some (2 ^ 64 - 1) ∧
    value (.divn .s0 5 1 6) xs0 = some (2 ^ 64 - 1) ∧ value (.rems .s0 5 1 6) xs0 = some (2 ^ 64 - 7) ∧
    value (.divs .s0 5 3 4) xs0 = some (2 ^ 63) ∧ value (.rems .s0 5 3 4) xs0 = some 0 := by decide +kernel

/-- R259: -7 < 2 as signed numbers and not as naturals. -/
theorem test_compares : value (.clt .s0 3 1 2) xs0 = some 1 ∧ value (.cltn .s0 3 1 2) xs0 = some 0 ∧ value (.cle .s0 3 2 2) xs0 = some 1 := by
  decide +kernel

/-- R263: a load of a byte extends its sign or zeros. -/
theorem test_loads_extend : value (.nearAccessPerform 77) (later (run (.ldb false 7 4 0) (wr (at4 1 0) 0 1 0x80)) 1) = some (2 ^ 64 - 128) ∧
    value (.nearAccessPerform 77) (later (run (.ldb true 7 4 0) (wr (at4 1 0) 0 1 0x80)) 1) = some 0x80 := by decide +kernel

/-- R289: 8-bit lanes wrap or saturate. -/
theorem test_vector_sums : lanesGot 8 2 (.vadd .v0 .i8 5 1 2 0) (vs0 8 [100, 0x80] [100, 0xFF]) = [200, 0x7F] ∧
    lanesGot 8 2 (.vaddsat .v0 .i8 5 1 2 0) (vs0 8 [100, 0x80] [100, 0xFF]) = [127, 0x80] ∧
    lanesGot 8 2 (.vsubsat .v0 .n8 5 1 2 0) (vs0 8 [3, 9] [5, 4]) = [0, 5] := by decide +kernel

/-- R303: 1 + 1 = 2 and an infinity stays; 2 × 0.5 = 1, 3 × -1 = -3, 1 - 1 = +0. -/
theorem test_vector_floats : lanesGot 32 2 (.vfadd .v0 .f32 .mode 5 1 2 0) (vs0 32 [0x3F800000, 0x7F800000] [0x3F800000, 0x3F800000]) = [0x40000000, 0x7F800000] ∧
    lanesGot 32 2 (.vfmul .v0 .f32 .mode 5 1 2 0) (vs0 32 [0x40000000, 0x40400000] [0x3F000000, 0xBF800000]) = [0x3F800000, 0xC0400000] ∧
    lanesGot 32 1 (.vfsub .v0 .f32 .mode 5 1 2 0) (vs0 32 [0x3F800000] [0x3F800000]) = [0] := by decide +kernel

/-- R34, R87: one turned bit of a near word is corrected and counted; of two the word stays as it is and its granule is poisoned; two bytes of
a far granule are found. -/
theorem test_soft_errors :
    (let t := ({ s0 with flips := [(69, 4)] } : State).scan 64 8
     t.mem = s0.mem ∧ (t.core 0).errs = 1 ∧ t.flips = [] ∧ t.poison = []) ∧
    (let t := ({ s0 with flips := [(69, 4), (70, 1)] } : State).scan 64 8
     t.mem.readN 64 8 = [0, 0, 0, 0, 0, 4, 1, 0] ∧ t.poison = [1]) ∧
    (let t := ({ s0 with flips := [(2 ^ 40 + 69, 5), (2 ^ 40 + 71, 9)] } : State).scan (2 ^ 40 + 64) 64
     t.poison = [2 ^ 34 + 1]) := by decide +kernel

end Sys2Proof.Tests
end

/-!
SUPPORT. Every step keeps the memory in its canonical form (log 4).

Memory changes at few places, and there through the operations of `Memory` alone, each of which keeps the form (Laws/Memory.lean), so the
proof follows the definitions of the model, one lemma for each, in their order:
- `f_mem` where `f` leaves the memory as it is, an equation that holds of every state;
- `f_wf` where `f` may write memory, from canonical to canonical;
- `f_canonical` where the result is not a state: what a syllable, a micro-op, a bundle or a step may come to.
-/
namespace Sys2Proof.Machine

/-! ### Folds and outcomes -/

/-- Steps over a list that each leave the memory as it is leave it as it is. -/
theorem foldl_mem {α : Type} {f : State → α → State} (hf : ∀ t x, (f t x).mem = t.mem) (l : List α) (s : State) :
    (l.foldl f s).mem = s.mem := by
  induction l generalizing s with
  | nil => rfl
  | cons x l ih => rw [List.foldl_cons, ih, hf]

/-- Steps over a list that each keep the canonical form keep it. -/
theorem foldl_wf {α : Type} {f : State → α → State} (hf : ∀ t x, t.mem.wf = true → (f t x).mem.wf = true)
    (l : List α) {s : State} (h : s.mem.wf = true) : (l.foldl f s).mem.wf = true := by
  induction l generalizing s with
  | nil => exact h
  | cons x l ih => exact ih (hf s x h)

/-- A syllable that leaves a state leaves its memory in canonical form. -/
inductive SlotOut.Canonical : SlotOut → Prop where
  | ok {t : State} (h : t.mem.wf = true) : (SlotOut.ok t).Canonical
  | trap (code : Nat) (addr : Word) : (SlotOut.trap code addr).Canonical
  | watch (hits : Nat) (addr : Word) : (SlotOut.watch hits addr).Canonical
  | hold (why : HoldWhy) : (SlotOut.hold why).Canonical

/-- The same of a micro-op. -/
inductive MOut.Canonical : MOut → Prop where
  | ok {t : State} (h : t.mem.wf = true) : (MOut.ok t).Canonical
  | wait : MOut.wait.Canonical
  | engine : MOut.engine.Canonical

/-- The same of a bundle that comes up, also where it traps. -/
inductive Came.Canonical : Came → Prop where
  | commits {t : State} (h : t.mem.wf = true) : (Came.commits t).Canonical
  | traps {t : State} (h : t.mem.wf = true) (r : TrapReq) : (Came.traps t r).Canonical
  | holds (why : HoldWhy) : (Came.holds why).Canonical

/-- The same of an attempt to issue. -/
inductive Attempt.Canonical : Attempt → Prop where
  | absent : Attempt.absent.Canonical
  | holds {t : State} (h : t.mem.wf = true) : (Attempt.holds t).Canonical
  | issues {t : State} (h : t.mem.wf = true) : (Attempt.issues t).Canonical

/-- The same of an instruction or a step of the package. -/
inductive NextCanonical : Host.Outcome State Fault Refusal → Prop where
  | next {t : State} (h : t.mem.wf = true) : NextCanonical (.next t)
  | fault (r : Fault) : NextCanonical (.fault r)
  | refused (r : Refusal) : NextCanonical (.refused r)

@[simp] theorem SlotOut.canonical_ok {t : State} : (SlotOut.ok t).Canonical ↔ t.mem.wf = true := ⟨fun | .ok h => h, .ok⟩
@[simp] theorem SlotOut.canonical_trap (code : Nat) (addr : Word) : (SlotOut.trap code addr).Canonical := .trap code addr
@[simp] theorem SlotOut.canonical_watch (hits : Nat) (addr : Word) : (SlotOut.watch hits addr).Canonical := .watch hits addr
@[simp] theorem SlotOut.canonical_hold (why : HoldWhy) : (SlotOut.hold why).Canonical := .hold why
@[simp] theorem MOut.canonical_ok {t : State} : (MOut.ok t).Canonical ↔ t.mem.wf = true := ⟨fun | .ok h => h, .ok⟩
@[simp] theorem MOut.canonical_wait : MOut.wait.Canonical := .wait
@[simp] theorem MOut.canonical_engine : MOut.engine.Canonical := .engine
@[simp] theorem Came.canonical_commits {t : State} : (Came.commits t).Canonical ↔ t.mem.wf = true := ⟨fun | .commits h => h, .commits⟩
@[simp] theorem Came.canonical_traps {t : State} {r : TrapReq} : (Came.traps t r).Canonical ↔ t.mem.wf = true :=
  ⟨fun | .traps h _ => h, fun h => .traps h r⟩
@[simp] theorem Attempt.canonical_holds {t : State} : (Attempt.holds t).Canonical ↔ t.mem.wf = true := ⟨fun | .holds h => h, .holds⟩
@[simp] theorem Attempt.canonical_issues {t : State} : (Attempt.issues t).Canonical ↔ t.mem.wf = true := ⟨fun | .issues h => h, .issues⟩
@[simp] theorem nextCanonical_next {t : State} : NextCanonical (.next t) ↔ t.mem.wf = true := ⟨fun | .next h => h, .next⟩

/-! ### Landings, soft errors, records and traps -/

@[simp] theorem State.setStall_mem (s : State) (dev id : Nat) (x : Stall) : (s.setStall dev id x).mem = s.mem := rfl

@[simp] theorem State.fabWrite_mem (s : State) (n : Nat) (v : Word) : (s.fabWrite n v).mem = s.mem := by
  simp [State.fabWrite, apply_ite State.mem]

@[simp] theorem State.csrLand_mem (s : State) (key n v : Nat) : (s.csrLand key n v).mem = s.mem := by
  simp [State.csrLand, apply_ite State.mem]

@[simp] theorem State.landOne_mem (key : Nat) (s : State) (p : Pend) : (State.landOne key s p).mem = s.mem := by
  unfold State.landOne
  split <;> simp

@[simp] theorem State.landAll_mem (s : State) (key : Nat) (ps rest : List Pend) : (s.landAll key ps rest).mem = s.mem := by
  simp [State.landAll, foldl_mem]

@[simp] theorem State.landDue_mem (s : State) (key : Nat) : (s.landDue key).mem = s.mem := by simp [State.landDue]
@[simp] theorem State.countErr_mem (s : State) (p : Nat) : (s.countErr p).mem = s.mem := rfl
@[simp] theorem State.strike_mem (s : State) : s.strike.mem = s.mem := by simp [State.strike, apply_ite State.mem]

@[simp] theorem State.meetPoison_wf {s : State} (h : s.mem.wf = true) (dev code : Nat) (a : Word) :
    (s.meetPoison dev code a).mem.wf = true := by
  unfold State.meetPoison
  split
  · exact h
  · refine foldl_wf (fun t i ht => ?_) _ h
    split
    · exact decodeWord_wf _ ht
    · exact ht

@[simp] theorem State.modEng_mem (s : State) (n : Nat) (f : Engine → Engine) : (s.modEng n f).mem = s.mem := rfl

@[simp] theorem State.modOwner_mem (s : State) (o : Owner) (f : Ctx → Ctx) : (s.modOwner o f).mem = s.mem := by
  unfold State.modOwner
  split <;> rfl

@[simp] theorem State.countDev_mem (s : State) (dev ev n : Nat) : (s.countDev dev ev n).mem = s.mem := rfl
@[simp] theorem State.countCore_mem (s : State) (core dev ev n : Nat) : (s.countCore core dev ev n).mem = s.mem := rfl
@[simp] theorem State.postRecord_mem (s : State) (o : Owner) (r : Record) : (s.postRecord o r).mem = s.mem := by simp [State.postRecord]
@[simp] theorem State.handRecord_mem (s : State) (order : Nat) (o : Owner) (r : Record) : (s.handRecord order o r).mem = s.mem := rfl
@[simp] theorem State.flushPosts_mem (s : State) : s.flushPosts.mem = s.mem := by simp [State.flushPosts, foldl_mem]
@[simp] theorem State.unreserve_mem (s : State) (o : Owner) : (s.unreserve o).mem = s.mem := by simp [State.unreserve]
@[simp] theorem State.release_mem (s : State) (dev : Nat) (ids : List Nat) : (s.release dev ids).mem = s.mem := rfl

@[simp] theorem State.hypRecord_wf {s : State} (h : s.mem.wf = true) (r : Record) : (s.hypRecord r).mem.wf = true := by
  unfold State.hypRecord
  split <;> simp [h]

@[simp] theorem State.drvRecord_wf {s : State} (h : s.mem.wf = true) (dev : Nat) (r : Record) : (s.drvRecord dev r).mem.wf = true := by
  simp only [State.drvRecord]
  split <;> simp [h]

@[simp] theorem State.placeLiens_mem (s : State) (dev : Nat) (ids : List Nat) : (s.placeLiens dev ids).mem = s.mem := rfl
@[simp] theorem State.dropLiens_mem (s : State) (dev : Nat) (ids : List Nat) : (s.dropLiens dev ids).mem = s.mem := rfl
@[simp] theorem State.arrive_mem (s : State) (key : Nat) : (s.arrive key).mem = s.mem := by simp [State.arrive]

@[simp] theorem State.flushLoads_wf {s : State} (h : s.mem.wf = true) (key : Nat) : (s.flushLoads key).mem.wf = true := by
  simp [State.flushLoads, scanAll_wf, h]

@[simp] theorem State.settle_wf {s : State} (h : s.mem.wf = true) (key : Nat) : (s.settle key).mem.wf = true := by simp [State.settle, h]

@[simp] theorem State.haltPartition_wf {s : State} (h : s.mem.wf = true) (dev : Nat) (cause : Word) :
    (s.haltPartition dev cause).mem.wf = true := by
  simp +contextual [State.haltPartition, foldl_wf, h]

@[simp] theorem State.takeTrap_wf {s : State} (h : s.mem.wf = true) (key : Nat) (r : TrapReq) : (s.takeTrap key r).mem.wf = true := by
  unfold State.takeTrap
  dsimp only
  repeat' split
  all_goals simp [h]

@[simp] theorem State.overflowAsync_wf {s : State} (h : s.mem.wf = true) (key : Nat) (cause : Async) :
    (s.overflowAsync key cause).mem.wf = true := by
  simp only [State.overflowAsync]
  exact State.hypRecord_wf (by simp [h]) _

@[simp] theorem State.postSaved_wf {s : State} (h : s.mem.wf = true) (o : Owner) (cause : Async) :
    (s.postSaved o cause).mem.wf = true := by
  unfold State.postSaved
  repeat' split
  all_goals simp [h]

@[simp] theorem State.postAsync_wf {s : State} (h : s.mem.wf = true) (o : Owner) (code : Nat) (addr : Word) :
    (s.postAsync o code addr).mem.wf = true := by
  simp only [State.postAsync]
  repeat' split
  all_goals simp [h]

@[simp] theorem State.markHold_mem (s : State) (key : Nat) (why : HoldWhy) : (s.markHold key why).mem = s.mem := rfl
@[simp] theorem State.setHits_mem (s : State) (key hits : Nat) : (s.setHits key hits).mem = s.mem := rfl

theorem finishSlot_canonical (sl : Slot) {s : State} (h : s.mem.wf = true) {o : SlotOut} (ho : o.Canonical) :
    NextCanonical (finishSlot sl s o) := by
  cases o with
  | ok t => exact .next (SlotOut.canonical_ok.1 ho)
  | trap code addr => simp [finishSlot, h]
  | watch hits addr => simp [finishSlot, h]
  | hold why => simp [finishSlot, h]

@[simp] theorem Chk.slot_canonical {α : Type} (c : Chk α) {f : α → SlotOut} (hf : ∀ a, (f a).Canonical) : (c.slot f).Canonical := by
  cases c with
  | ok a => exact hf a
  | bad code addr => exact .trap code addr

@[simp] theorem State.wrX_mem (s : State) (sl : Slot) (lat d : Nat) (v : Word) : (s.wrX sl lat d v).mem = s.mem := rfl

/-! ### Results of the S slots and their checks -/

@[simp] theorem sWrite_canonical (sl : SSlot) (lat : Nat) (d : XNum) (v : Word) {s : State} (h : s.mem.wf = true) :
    (sWrite sl lat d v s).Canonical := by
  simp [sWrite, h]

@[simp] theorem cWrite_canonical (sl : SSlot) (c : BitVec 3) (b : Bool) {s : State} (h : s.mem.wf = true) :
    (cWrite sl c b s).Canonical := by
  simp [cWrite, h]

@[simp] theorem vWrite_canonical (sl : VSlot) (lat : Nat) (d : VCode) (r : VRes) {s : State} (h : s.mem.wf = true) :
    (vWrite sl lat d r s).Canonical := by
  simp [vWrite, h]

@[simp] theorem kWrite_canonical (sl : VSlot) (lat : Nat) (kd : KNum) (v : KReg) (flags : Nat) {s : State} (h : s.mem.wf = true) :
    (kWrite sl lat kd v flags s).Canonical := by
  simp [kWrite, h]

/-! ### The M slot and the engine queue -/

@[simp] theorem State.popEntry_mem (s : State) (n : Nat) : (s.popEntry n).mem = s.mem := rfl

@[simp] theorem State.endRoutine_mem (s : State) (n : Nat) (r : Routine) (reason status : Nat) (addr : Word) :
    (s.endRoutine n r reason status addr).mem = s.mem := by
  simp [State.endRoutine]

@[simp] theorem State.enqueueM_mem (s : State) (e : MEntry) : (s.enqueueM e).mem = s.mem := rfl

@[simp] theorem acceptM_canonical (e : MEntry) {s : State} (h : s.mem.wf = true) : (acceptM e s).Canonical := by
  unfold acceptM
  split <;> simp [h]

@[simp] theorem slotMcallT_canonical (idx : BitVec 10) (off : BitVec 16) {s : State} (h : s.mem.wf = true) :
    (slotMcallT idx off s).Canonical := by
  simp only [slotMcallT]
  split
  · next t e =>
      simpa [e] using acceptM_canonical (.call s.owner idx.toNat (mpSnap s) true (mcallBase s.me + off.toNat) s.station s.nextId) h
  · exact acceptM_canonical _ h

@[simp] theorem slotMcfg_canonical (w : McfgW) (nat sat : Bool) {s : State} (h : s.mem.wf = true) : (slotMcfg w nat sat s).Canonical := by
  unfold slotMcfg
  split <;> simp [h]

@[simp] theorem State.haltRoutines_mem (s : State) : s.haltRoutines.mem = s.mem := by simp [State.haltRoutines, foldl_mem]
@[simp] theorem slotMhalt_canonical {s : State} (h : s.mem.wf = true) : (slotMhalt s).Canonical := by unfold slotMhalt; split <;> simp [h]

@[simp] theorem State.failCall_mem (s : State) (n : Nat) (own : Owner) (idx : Nat) (addr : Word) (reason : Nat) :
    (s.failCall n own idx addr reason).mem = s.mem := by
  simp [State.failCall]

@[simp] theorem execRoutineStart_canonical {s : State} (h : s.mem.wf = true) : NextCanonical (execRoutineStart s) := by
  unfold execRoutineStart
  dsimp only
  repeat' split
  all_goals simp [h]

@[simp] theorem execRoutineTimingFailure_canonical {s : State} (h : s.mem.wf = true) : NextCanonical (execRoutineTimingFailure s) := by
  simp only [execRoutineTimingFailure]
  split
  · simp [h]
  · split <;> simp [h]

@[simp] theorem execRoutineEngineEnding_canonical {s : State} (h : s.mem.wf = true) : NextCanonical (execRoutineEngineEnding s) := by
  unfold execRoutineEngineEnding
  dsimp only
  repeat' split
  all_goals simp [h]

@[simp] theorem State.abandonLoad_mem (s : State) (n : Nat) : (s.abandonLoad n).mem = s.mem := by unfold State.abandonLoad; split <;> rfl

@[simp] theorem execRoutineHalted_canonical {s : State} (h : s.mem.wf = true) : NextCanonical (execRoutineHalted s) := by
  unfold execRoutineHalted
  dsimp only
  repeat' split
  all_goals simp [h]

@[simp] theorem State.startLoad_mem (s : State) (n : Nat) (own : Owner) (table : Bool) (snap : List Word) :
    (s.startLoad n own table snap).mem = s.mem := by
  unfold State.startLoad
  split <;> simp

@[simp] theorem execDrainSlot_canonical {s : State} (h : s.mem.wf = true) : NextCanonical (execDrainSlot s) := by
  simp only [execDrainSlot]
  split
  · simp [h]
  · split <;> simp [h]

@[simp] theorem State.loadStep_mem (s : State) (n : Nat) (l : MLoad) : (s.loadStep n l).mem = s.mem := rfl

@[simp] theorem execMloadComplete_canonical {s : State} (h : s.mem.wf = true) : NextCanonical (execMloadComplete s) := by
  unfold execMloadComplete
  dsimp only
  repeat' split
  all_goals simp [h]

/-! ### The B slot -/

@[simp] theorem State.transferAs_mem (s : State) (ev : Nat) (target : Word) : (s.transferAs ev target).mem = s.mem := rfl
@[simp] theorem State.transfer_mem (s : State) (target : Word) : (s.transfer target).mem = s.mem := rfl

@[simp] theorem openLoop_canonical (n N off : Nat) {s : State} (h : s.mem.wf = true) : (openLoop n N off s).Canonical := by
  simp only [openLoop]
  split
  · simp
  · split <;> simp [h]

@[simp] theorem slotPtg_canonical (t : BitVec 2) (off : BitVec 25) {s : State} (h : s.mem.wf = true) : (slotPtg t off s).Canonical := by
  simp [slotPtg, h]

@[simp] theorem slotBr_canonical (c : BitVec 3) (t : BitVec 2) {s : State} (h : s.mem.wf = true) : (slotBr c t s).Canonical := by
  unfold slotBr
  split <;> simp [h]

@[simp] theorem slotBra_canonical (t : BitVec 2) {s : State} (h : s.mem.wf = true) : (slotBra t s).Canonical := by simp [slotBra, h]
@[simp] theorem slotBrx_canonical (x : XNum) {s : State} (h : s.mem.wf = true) : (slotBrx x s).Canonical := by simp [slotBrx, h]

@[simp] theorem slotCall_canonical (x : XNum) (t : BitVec 2) {s : State} (h : s.mem.wf = true) : (slotCall x t s).Canonical := by
  simp [slotCall, h]

@[simp] theorem slotRet_canonical (x : XNum) {s : State} (h : s.mem.wf = true) : (slotRet x s).Canonical := by simp [slotRet, h]

@[simp] theorem slotLoopi_canonical (lc : BitVec 2) (count : BitVec 13) (off : BitVec 12) {s : State} (h : s.mem.wf = true) :
    (slotLoopi lc count off s).Canonical := by
  unfold slotLoopi
  split <;> simp [h]

/-! ### Control registers -/

@[simp] theorem slotCsrr_canonical (sl : SSlot) (d : XNum) (num : BitVec 12) {s : State} (h : s.mem.wf = true) :
    (slotCsrr sl d num s).Canonical := by
  unfold slotCsrr
  split <;> simp [h]

@[simp] theorem slotCsrw_canonical (sl : SSlot) (num : BitVec 12) (a : XNum) {s : State} (h : s.mem.wf = true) :
    (slotCsrw sl num a s).Canonical := by
  unfold slotCsrw
  split
  · simp
  · split <;> simp [h]

/-! ### Stores and foreign writes -/

@[simp] theorem State.foreignWrite_mem (s : State) (dev : Nat) (a : Word) (n kind : Nat) : (s.foreignWrite dev a n kind).mem = s.mem :=
  rfl

@[simp] theorem State.storeCells_wf {s : State} (h : s.mem.wf = true) (cells : List Host.Cell) : (s.storeCells cells).mem.wf = true := by
  simp [State.storeCells, h]

/-! ### The A slot and near accesses -/

@[simp] theorem watched_canonical (rd wr : Bool) (chunks : List (Word × Nat)) (a : Word) {s : State} {f : State → SlotOut}
    (hf : ∀ t, t.mem.wf = true → (f t).Canonical) (h : s.mem.wf = true) : (watched rd wr chunks a s f).Canonical := by
  simp only [watched]
  split
  · exact .watch _ _
  · split
    · exact hf s h
    · exact hf _ (by simpa using h)

@[simp] theorem State.addAccess_mem (s : State) (due ord : Nat) (op : AccOp) (named : optParam (List Word) []) :
    (s.addAccess due ord op named).mem = s.mem := rfl

@[simp] theorem State.agentStore_mem (s : State) (key agent ord : Nat) (op : AccOp) : (s.agentStore key agent ord op).mem = s.mem := rfl

@[simp] theorem nearLoad_canonical (a : Word) (n : Nat) (reads : List Nat) (conv : LoadConv) (lat : Nat) (dests : Nat → List Pend)
    {s : State} (h : s.mem.wf = true) : (nearLoad a n reads conv lat dests s).Canonical :=
  Chk.slot_canonical _ fun _ => Chk.slot_canonical _ fun _ => watched_canonical _ _ _ _ (fun t ht => by simp [ht]) h

@[simp] theorem nearStore_canonical (a : Word) (n : Nat) (cells : Nat → List Host.Cell) {s : State} (h : s.mem.wf = true) :
    (nearStore a n cells s).Canonical :=
  Chk.slot_canonical _ fun _ => watched_canonical _ _ _ _ (fun t ht => by simp [ht]) h

@[simp] theorem scalarLoad_canonical (n : Nat) (conv : LoadConv) (d base : XNum) (off : BitVec 20) {s : State} (h : s.mem.wf = true) :
    (scalarLoad n conv d base off s).Canonical := by
  simp [scalarLoad, h]

@[simp] theorem scalarStore_canonical (n : Nat) (src base : XNum) (off : BitVec 20) {s : State} (h : s.mem.wf = true) :
    (scalarStore n src base off s).Canonical := by
  simp [scalarStore, h]

@[simp] theorem slotLdv_canonical (d : VCode) (base : XNum) (off : BitVec 20) (k : KNum) (lw : LaneW) {s : State} (h : s.mem.wf = true) :
    (slotLdv d base off k lw s).Canonical := by
  simp [slotLdv, h]

@[simp] theorem slotStv_canonical (src : VCode) (base : XNum) (off : BitVec 20) (k : KNum) (lw : LaneW) {s : State}
    (h : s.mem.wf = true) : (slotStv src base off k lw s).Canonical := by
  simp [slotStv, h]

@[simp] theorem slotLdvs_canonical (d : VCode) (base : XNum) (off : BitVec 20) (stride : XNum) {s : State} (h : s.mem.wf = true) :
    (slotLdvs d base off stride s).Canonical :=
  Chk.slot_canonical _ fun _ =>
    watched_canonical _ _ _ _ (fun t ht => by simp [ht]) h

@[simp] theorem slotStvs_canonical (src : VCode) (base : XNum) (off : BitVec 20) (stride : XNum) {s : State} (h : s.mem.wf = true) :
    (slotStvs src base off stride s).Canonical :=
  Chk.slot_canonical _ fun _ =>
    watched_canonical _ _ _ _ (fun t ht => by
      dsimp only
      split <;> split <;> simp [ht]) h

@[simp] theorem slotAccrd_canonical (d : VCode) (base : XNum) (off : BitVec 20) (k : KNum) {s : State} (h : s.mem.wf = true) :
    (slotAccrd d base off k s).Canonical :=
  Chk.slot_canonical _ fun _ => Chk.slot_canonical _ fun _ =>
    watched_canonical _ _ _ _ (fun t ht => by simp [ht, scan_wf]) h

@[simp] theorem slotAccwr_canonical (src : VCode) (base : XNum) (off : BitVec 20) (k : KNum) {s : State} (h : s.mem.wf = true) :
    (slotAccwr src base off k s).Canonical :=
  Chk.slot_canonical _ fun _ =>
    watched_canonical _ _ _ _ (fun t ht => by simp [ht]) h

@[simp] theorem slotTld_canonical (d : VCode) (base : XNum) (off : BitVec 20) {s : State} (h : s.mem.wf = true) :
    (slotTld d base off s).Canonical :=
  Chk.slot_canonical _ fun _ => Chk.slot_canonical _ fun _ => Chk.slot_canonical _ fun _ =>
    watched_canonical _ _ _ _ (fun t ht => by simp [ht]) h

@[simp] theorem slotTst_canonical (src : VCode) (base : XNum) (off : BitVec 20) {s : State} (h : s.mem.wf = true) :
    (slotTst src base off s).Canonical :=
  Chk.slot_canonical _ fun _ => Chk.slot_canonical _ fun _ =>
    watched_canonical _ _ _ _ (fun t ht => by simp [ht]) h

@[simp] theorem slotAtom_canonical (op : AtomOp) (wide : Bool) (d base sr c : XNum) (off : BitVec 8) {s : State} (h : s.mem.wf = true) :
    (slotAtom op wide d base sr c off s).Canonical :=
  Chk.slot_canonical _ fun _ => Chk.slot_canonical _ fun _ =>
    watched_canonical _ _ _ _ (fun t ht => by simp [ht]) h

@[simp] theorem State.refWritten_mem (s : State) (dev : Nat) (a : Word) : (s.refWritten dev a).mem = s.mem := rfl

@[simp] theorem State.forkRef_wf {s : State} (h : s.mem.wf = true) (header : Nat) (rel : Bool) (cmd : Nat) :
    (s.forkRef header rel cmd).mem.wf = true := by
  simp only [State.forkRef]
  split <;> simp [h]

@[simp] theorem State.forkNear_wf {s : State} (h : s.mem.wf = true) (header : Nat) (rel : Bool) (cmd : Nat) :
    (s.forkNear header rel cmd).mem.wf = true := by
  unfold State.forkNear
  dsimp only
  repeat' split
  all_goals simp [h]

@[simp] theorem State.meetLate_wf {s : State} (h : s.mem.wf = true) (a : Access) : (s.meetLate a).mem.wf = true := by
  unfold State.meetLate
  split <;> simp [h]

@[simp] theorem State.perform_wf {s : State} (h : s.mem.wf = true) (a : Access) : (s.perform a).mem.wf = true := by
  have hm : (s.meetLate a).mem.wf = true := by simp [h]
  unfold State.perform
  dsimp only
  split <;> simp [hm, scan_wf, scanAll_wf]

@[simp] theorem execNearAccessPerform_canonical (id : Nat) {s : State} (h : s.mem.wf = true) :
    NextCanonical (execNearAccessPerform id s) := by
  unfold execNearAccessPerform
  repeat' split
  all_goals simp [h]

/-! ### Translation -/

@[simp] theorem State.joinWalk_mem (s : State) (die dev page : Nat) : (s.joinWalk die dev page).2.mem = s.mem := by
  simp only [State.joinWalk]
  split
  · simp
  · split <;> simp

@[simp] theorem State.cacheEntry_mem (s : State) (die : Nat) (e : TEntry) : (s.cacheEntry die e).mem = s.mem := by
  simp [State.cacheEntry, apply_ite State.mem]

/-! ### Transfer commands and packets -/

@[simp] theorem acceptCmd_canonical (group : Bool) (code low : Nat) (x : XNum) (t eq : Bool) {s : State} (h : s.mem.wf = true) :
    (acceptCmd group code low x t eq s).Canonical := by
  unfold acceptCmd
  dsimp only
  repeat' split
  all_goals simp [h]

@[simp] theorem State.failCmd_wf {s : State} (h : s.mem.wf = true) (c : Cmd) (reason status : Nat) (addr : Word) :
    (s.failCmd c reason status addr).mem.wf = true := by
  simp only [State.failCmd]
  split <;> simp [h]

@[simp] theorem State.finishCmd_mem (s : State) (c : Cmd) (count reason status : Nat) (addr : Word) :
    (s.finishCmd c count reason status addr).mem = s.mem := rfl

@[simp] theorem State.bankUse_mem (s : State) (dev p : Nat) : (s.bankUse dev p).mem = s.mem := by unfold State.bankUse; split <;> rfl
@[simp] theorem State.heatUp_mem (s : State) (p : Nat) : (s.heatUp p).mem = s.mem := rfl
@[simp] theorem State.packetAt_mem (s : State) (dev p : Nat) : (s.packetAt dev p).mem = s.mem := by simp [State.packetAt]

@[simp] theorem State.packetsAt_mem (s : State) (dev p n : Nat) : (s.packetsAt dev p n).mem = s.mem := by
  unfold State.packetsAt
  split <;> simp [foldl_mem]

@[simp] theorem State.cacheRows_mem (s : State) (die dev : Nat) (es : List (Word × Word)) : (s.cacheRows die dev es).mem = s.mem := by
  simp [State.cacheRows]

@[simp] theorem State.tablePackets_wf {s : State} (h : s.mem.wf = true) (c : Cmd) (a : Word) (n : Nat) :
    (s.tablePackets c a n).mem.wf = true := by
  simp only [State.tablePackets]
  split <;> simp [h, scan_wf]

theorem State.takeSteps_wf {s : State} (h : s.mem.wf = true) (c : Cmd) {rest : State → Cmd → State}
    (hr : ∀ t d, t.mem.wf = true → (rest t d).mem.wf = true) : (s.takeSteps c rest).mem.wf = true := by
  unfold State.takeSteps
  dsimp only
  split
  · simp [h]
  · simp [h]
  · exact hr _ _ h

@[simp] theorem State.endSteps_mem (s : State) (c : Cmd) : (s.endSteps c).mem = s.mem := rfl

@[simp] theorem State.resolve_wf {s : State} (h : s.mem.wf = true) (c : Cmd) : (s.resolve c).mem.wf = true := by
  grind [State.resolve, State.failCmd_wf, State.takeSteps_wf, State.tablePackets_wf, State.cacheRows_mem, State.endSteps_mem]

@[simp] theorem State.lookAt_mem (s : State) (c : Cmd) : (s.lookAt c).mem = s.mem := rfl

@[simp] theorem State.listPackets_wf {s : State} (h : s.mem.wf = true) (c : Cmd) : (s.listPackets c).mem.wf = true := by
  unfold State.listPackets
  repeat' split
  all_goals simp +contextual [h, foldl_wf]

@[simp] theorem State.translateCmd_wf {s : State} (h : s.mem.wf = true) (c : Cmd) : (s.translateCmd c).mem.wf = true :=
  State.takeSteps_wf (by simp [h]) _ fun t d ht => by split <;> simp [ht]

@[simp] theorem State.addXfers_mem (s : State) (xs : List Xfer) : (s.addXfers xs).mem = s.mem := rfl
@[simp] theorem State.hint_mem (s : State) (c : Cmd) : (s.hint c).mem = s.mem := rfl

/-- The page walked is made a variable, so that its bound of 2^60 is never evaluated. -/
@[simp] theorem State.seePages_mem (s : State) (core dev p n : Nat) : (s.seePages core dev p n).mem = s.mem := by
  unfold State.seePages
  split
  · rfl
  · split
    · rfl
    · rw [← State.modCore_mem s core (Core.lookUp dev _)]
      generalize State.modCore s core _ = t
      generalize pageStarts _ _ = l
      induction l generalizing t with
      | nil => rfl
      | cons o l ih =>
        rw [List.foldl_cons, ih]
        generalize walkPage _ _ _ = e
        cases e <;> simp

@[simp] theorem State.beginCmd_mem (s : State) (c : Cmd) : (s.beginCmd c).1.mem = s.mem := by simp [State.beginCmd]

@[simp] theorem execTransferStart_canonical (cmd : Nat) {s : State} (h : s.mem.wf = true) : NextCanonical (execTransferStart cmd s) := by
  unfold execTransferStart
  repeat' split
  all_goals simp [h]

@[simp] theorem execTimedStartFailure_canonical (cmd : Nat) {s : State} (h : s.mem.wf = true) :
    NextCanonical (execTimedStartFailure cmd s) := by
  unfold execTimedStartFailure
  repeat' split
  all_goals simp [h]

@[simp] theorem execBadparamRecord_canonical (cmd : Nat) {s : State} (h : s.mem.wf = true) :
    NextCanonical (execBadparamRecord cmd s) := by
  unfold execBadparamRecord
  repeat' split
  all_goals simp [h]

@[simp] theorem State.endChase_mem (s : State) (c : Cmd) (reason : Nat) (addr : Word) : (s.endChase c reason addr).mem = s.mem := by
  unfold State.endChase
  split <;> rfl

@[simp] theorem State.chaseNext_mem (s : State) (c : Cmd) : (s.chaseNext c).mem = s.mem := by
  simp only [State.chaseNext]
  split <;> simp [apply_ite State.mem]

@[simp] theorem State.chaseRead_mem (s : State) (c : Cmd) (hdr : List Byte) : (s.chaseRead c hdr).mem = s.mem := by
  simp [State.chaseRead, apply_ite State.mem]

@[simp] theorem execCommandTranslation_canonical (cmd : Nat) {s : State} (h : s.mem.wf = true) :
    NextCanonical (execCommandTranslation cmd s) := by
  unfold execCommandTranslation
  repeat' split
  all_goals simp [h]

@[simp] theorem State.answerWalk_wf {s : State} (h : s.mem.wf = true) (w : Walk) (found : Bool) (id : Nat) :
    (s.answerWalk w found id).mem.wf = true := by
  unfold State.answerWalk
  dsimp only
  repeat' split
  all_goals simp [h]

@[simp] theorem execWalkComplete_canonical (walk : Nat) {s : State} (h : s.mem.wf = true) : NextCanonical (execWalkComplete walk s) := by
  unfold execWalkComplete
  dsimp only
  repeat' split
  all_goals simp +contextual [h, foldl_wf]

@[simp] theorem State.noteRead_mem (s : State) (x : Xfer) (p : Nat) : (s.noteRead x p).1.mem = s.mem := by
  unfold State.noteRead
  split <;> rfl

@[simp] theorem State.setXfer_mem (s : State) (x : Xfer) : (s.setXfer x).mem = s.mem := rfl
@[simp] theorem State.dropJob_mem (s : State) (job : Nat) : (s.dropJob job).mem = s.mem := rfl

@[simp] theorem writeCellsOf_mem (s : State) (x : Xfer) (p : Nat) : (writeCellsOf s x p).1.mem = s.mem := by
  unfold writeCellsOf
  dsimp only
  repeat' split
  all_goals simp

@[simp] theorem State.checkDone_mem (s : State) (cmd : Nat) : (s.checkDone cmd).mem = s.mem := by
  simp only [State.checkDone]
  split <;> simp [apply_ite State.mem]

@[simp] theorem State.issueTag_mem (s : State) (id : Nat) : (s.issueTag id).mem = s.mem := by
  unfold State.issueTag
  repeat' split
  all_goals rfl

@[simp] theorem State.issueTags_mem (s : State) : s.issueTags.mem = s.mem := by simp [State.issueTags, foldl_mem]

@[simp] theorem State.farAtom_wf {s : State} (h : s.mem.wf = true) (x : Xfer) (p : Nat) (old : List Byte) :
    (s.farAtom x p old).mem.wf = true := by
  unfold State.farAtom
  split <;> simp [h]

@[simp] theorem State.readPart_wf (bad : Bool) {s : State} (h : s.mem.wf = true) (x : Xfer) : (State.readPart bad s x).mem.wf = true := by
  unfold State.readPart
  repeat' split
  all_goals simp [h]

@[simp] theorem partCells_mem (a : State × List Host.Cell) (x : Xfer) : (partCells a x).1.mem = a.1.mem := by
  unfold partCells
  split <;> simp

theorem foldl_partCells_mem (l : List Xfer) (a : State × List Host.Cell) : (l.foldl partCells a).1.mem = a.1.mem := by
  induction l generalizing a with
  | nil => rfl
  | cons x l ih => rw [List.foldl_cons, ih, partCells_mem]

@[simp] theorem State.writeParts_wf {s : State} (h : s.mem.wf = true) (l : List Xfer) : (s.writeParts l).mem.wf = true :=
  foldl_wf (fun t x ht => by simpa using ht) l (by simp [foldl_partCells_mem, h])

@[simp] theorem State.performPacket_wf {s : State} (h : s.mem.wf = true) (x : Xfer) : (s.performPacket x).mem.wf = true := by
  simp only [State.performPacket]
  split <;> simp +contextual [h, foldl_wf, scan_wf]

@[simp] theorem execPacketPerform_canonical (xfer : Nat) {s : State} (h : s.mem.wf = true) :
    NextCanonical (execPacketPerform xfer s) := by
  unfold execPacketPerform
  repeat' split
  all_goals simp [h]

@[simp] theorem State.catchUpTo_wf {s : State} (h : s.mem.wf = true) (core p n bound : Nat) :
    (s.catchUpTo core p n bound).mem.wf = true := by
  refine foldl_wf (fun t id ht => ?_) _ h
  split <;> simp [ht]

@[simp] theorem State.catchUp_wf {s : State} (h : s.mem.wf = true) (core p n : Nat) : (s.catchUp core p n).mem.wf = true := by
  simp [State.catchUp, h]

@[simp] theorem State.yieldShare_wf {s : State} (h : s.mem.wf = true) (dev p : Nat) : (s.yieldShare dev p).mem.wf = true := by
  unfold State.yieldShare
  split
  · exact h
  · refine foldl_wf (fun t id ht => ?_) _ h
    repeat' split
    all_goals simp [ht]

@[simp] theorem State.takePackets_wf {s : State} (h : s.mem.wf = true) (dev p n : Nat) : (s.takePackets dev p n).mem.wf = true := by
  simp only [State.takePackets]
  split <;> simp +contextual [h, foldl_wf]

@[simp] theorem State.closeXfer_mem (s : State) (x : Xfer) : (s.closeXfer x).mem = s.mem := by unfold State.closeXfer; split <;> rfl
@[simp] theorem State.nearWrite_mem (s : State) (x : Xfer) (p : Nat) (cells : List Host.Cell) : (s.nearWrite x p cells).mem = s.mem := rfl

@[simp] theorem State.replyPart_mem (s : State) (x : Xfer) : (s.replyPart x).mem = s.mem := by
  unfold State.replyPart
  dsimp only
  repeat' split
  all_goals simp

@[simp] theorem execPacketReply_canonical (xfer : Nat) {s : State} (h : s.mem.wf = true) : NextCanonical (execPacketReply xfer s) := by
  unfold execPacketReply
  split
  · simp [h]
  · split <;> simp [h, foldl_mem]

@[simp] theorem execEnginePortAccess_canonical (xfer : Nat) {s : State} (h : s.mem.wf = true) :
    NextCanonical (execEnginePortAccess xfer s) := by
  unfold execEnginePortAccess
  repeat' split
  all_goals simp [h, scan_wf]

@[simp] theorem State.freeCount_mem (s : State) : s.freeCount.2.mem = s.mem := rfl

/-! ### Fragments -/

@[simp] theorem State.takeMid_mem (s : State) : s.takeMid.mem = s.mem := rfl

/-! ### Messages, reductions and timetables -/

@[simp] theorem State.notify_mem (s : State) (k : NoticeKind) (dst mid : Nat) : (s.notify k dst mid).mem = s.mem := rfl
@[simp] theorem State.countLate_mem (s : State) : s.countLate.mem = s.mem := rfl
@[simp] theorem State.countYard_mem (s : State) : s.countYard.mem = s.mem := rfl
@[simp] theorem State.countBad_mem (s : State) : s.countBad.mem = s.mem := rfl
@[simp] theorem State.retire_mem (s : State) (src mid : Nat) : (s.retire src mid).mem = s.mem := rfl
@[simp] theorem State.setMsg_mem (s : State) (m : Msg) : (s.setMsg m).mem = s.mem := rfl
@[simp] theorem State.dropMsg_mem (s : State) (id : Nat) : (s.dropMsg id).mem = s.mem := rfl
@[simp] theorem State.setRecv_mem (s : State) (r : Recv) : (s.setRecv r).mem = s.mem := rfl
@[simp] theorem State.setSend_mem (s : State) (x : Send) : (s.setSend x).mem = s.mem := rfl
@[simp] theorem State.sendFragment_mem (s : State) (x : Send) (f : Nat) (rest : List Nat) : (s.sendFragment x f rest).mem = s.mem := rfl

@[simp] theorem execFragmentSend_canonical (send : Nat) {s : State} (h : s.mem.wf = true) : NextCanonical (execFragmentSend send s) := by
  unfold execFragmentSend
  dsimp only
  repeat' split
  all_goals simp [h]

@[simp] theorem State.addSend_mem (s : State) (x : Send) : (s.addSend x).mem = s.mem := rfl
@[simp] theorem State.drnxLost_mem (s : State) (o : Owner) : (s.drnxLost o).mem = s.mem := by simp [State.drnxLost, apply_ite State.mem]
@[simp] theorem State.land_mem (s : State) (r : Recv) (off : Nat) (bs : List Byte) : (s.land r off bs).mem = s.mem := rfl

@[simp] theorem State.landPart_wf {s : State} (h : s.mem.wf = true) (x : Xfer) : (s.landPart x).mem.wf = true := by
  grind [State.landPart, State.nearWrite_mem, State.foreignWrite_mem, State.packetAt_mem, State.storeCells_wf, State.yieldShare_wf,
    State.catchUpTo_wf]

@[simp] theorem State.landRest_wf {s : State} (h : s.mem.wf = true) (job : Nat) : (s.landRest job).mem.wf = true := by
  simp +contextual [State.landRest, foldl_wf, h]

@[simp] theorem State.landFrag_mem (s : State) (r : Recv) (h : FragHdr) (j : Nat) (pay : List Byte) :
    (s.landFrag r h j pay).mem = s.mem := rfl

@[simp] theorem State.closeEntry_mem (s : State) (r : Recv) : (s.closeEntry r).mem = s.mem := by unfold State.closeEntry; split <;> rfl

@[simp] theorem State.endRecv_wf {s : State} (h : s.mem.wf = true) (r : Recv) (count reason status : Nat) :
    (s.endRecv r count reason status).mem.wf = true := by
  unfold State.endRecv
  dsimp only
  repeat' split
  all_goals simp [h]

@[simp] theorem State.take_wf {s : State} (h : s.mem.wf = true) (r : Recv) (m : Msg) : (s.take r m).mem.wf = true := by
  unfold State.take
  repeat' split
  all_goals simp +contextual [h, foldl_wf]

@[simp] theorem State.seek_wf {s : State} (h : s.mem.wf = true) (r : Recv) : (s.seek r).mem.wf = true := by
  unfold State.seek
  split <;> simp [h]

@[simp] theorem State.offer_wf {s : State} (h : s.mem.wf = true) (m : Msg) : (s.offer m).mem.wf = true := by
  unfold State.offer
  split <;> simp [h]

@[simp] theorem State.addRecv_wf {s : State} (h : s.mem.wf = true) (r : Recv) : (s.addRecv r).mem.wf = true := by simp [State.addRecv, h]

@[simp] theorem State.reopen_wf {s : State} (h : s.mem.wf = true) (m : Msg) : (s.reopen m).mem.wf = true := by
  unfold State.reopen
  split <;> simp [h]

@[simp] theorem State.unclaim_wf {s : State} (h : s.mem.wf = true) (recv : Nat) : (s.unclaim recv).mem.wf = true := by
  simp only [State.unclaim]
  split
  · simp [h]
  · split <;> simp [h]

@[simp] theorem State.dropRecvs_wf {s : State} (h : s.mem.wf = true) (p : Recv → Bool) : (s.dropRecvs p).mem.wf = true :=
  foldl_wf (fun t r ht => by simp [ht]) _ (foldl_wf (fun t r ht => by simp [ht]) _ h)

@[simp] theorem State.dropTimetable_wf {s : State} (h : s.mem.wf = true) (n : Nat) : (s.dropTimetable n).mem.wf = true := by
  simp only [State.dropTimetable]
  split <;> simp +contextual [h, foldl_wf]

@[simp] theorem execEngineInternalError_canonical (cmd : Nat) {s : State} (h : s.mem.wf = true) :
    NextCanonical (execEngineInternalError cmd s) := by
  simp only [execEngineInternalError]
  split
  · next c _ =>
    split
    · refine .next (State.postAsync_wf ?_ ..)
      rw [State.finishCmd_mem]
      refine State.dropRecvs_wf ?_ _
      split <;> simp [h]
    · exact .next h
  · exact .next h

@[simp] theorem State.endSend_wf {s : State} (h : s.mem.wf = true) (x : Send) (lost : Bool) : (s.endSend x lost).mem.wf = true := by
  unfold State.endSend
  dsimp only
  repeat' split
  all_goals simp [h]

@[simp] theorem execDeliveryNotice_canonical (mid : Nat) {s : State} (h : s.mem.wf = true) :
    NextCanonical (execDeliveryNotice mid s) := by
  unfold execDeliveryNotice
  repeat' split
  all_goals simp [h]

@[simp] theorem execFinalLossNotice_canonical (mid : Nat) {s : State} (h : s.mem.wf = true) :
    NextCanonical (execFinalLossNotice mid s) := by
  unfold execFinalLossNotice
  split <;> simp [h]

@[simp] theorem execHeldNotice_canonical (mid : Nat) {s : State} (h : s.mem.wf = true) : NextCanonical (execHeldNotice mid s) := by
  unfold execHeldNotice
  split <;> simp [h]

@[simp] theorem State.sendResult_mem (s : State) (g : SwitchResult) : (s.sendResult g).mem = s.mem := rfl

@[simp] theorem State.resendResult_mem (s : State) (mid missing : Nat) : (s.resendResult mid missing).mem = s.mem := by
  unfold State.resendResult
  repeat' split
  all_goals rfl

@[simp] theorem execResendNotice_canonical (mid missing : Nat) {s : State} (h : s.mem.wf = true) :
    NextCanonical (execResendNotice mid missing s) := by
  unfold execResendNotice
  repeat' split
  all_goals simp [h]

@[simp] theorem execGsendDeadline_canonical (send : Nat) {s : State} (h : s.mem.wf = true) :
    NextCanonical (execGsendDeadline send s) := by
  unfold execGsendDeadline
  repeat' split
  all_goals simp [h]

@[simp] theorem execGredDeadline_canonical (cmd : Nat) {s : State} (h : s.mem.wf = true) : NextCanonical (execGredDeadline cmd s) := by
  unfold execGredDeadline
  repeat' split
  all_goals simp [h]

@[simp] theorem execGrecvWaitExpiry_canonical (recv : Nat) {s : State} (h : s.mem.wf = true) :
    NextCanonical (execGrecvWaitExpiry recv s) := by
  unfold execGrecvWaitExpiry
  repeat' split
  all_goals simp [h]

@[simp] theorem execReceiveDecodeEnd_canonical (msg : Nat) {s : State} (h : s.mem.wf = true) :
    NextCanonical (execReceiveDecodeEnd msg s) := by
  unfold execReceiveDecodeEnd
  repeat' split
  all_goals simp +contextual [h, foldl_wf]

@[simp] theorem State.closeRed_wf {s : State} (h : s.mem.wf = true) (r : Reduction) (st : RedSt) : (s.closeRed r st).mem.wf = true := by
  simp +contextual [State.closeRed, foldl_wf, h]

@[simp] theorem State.notifyMembers_wf {s : State} (h : s.mem.wf = true) (r : Reduction) (k : NoticeKind) :
    (s.notifyMembers r k).mem.wf = true := by
  simp +contextual [State.notifyMembers, foldl_wf, h]

@[simp] theorem State.combine_wf {s : State} (h : s.mem.wf = true) (r : Reduction) : (s.combine r).mem.wf = true := by
  unfold State.combine
  dsimp only
  repeat' split
  all_goals simp +contextual [h, foldl_wf]

@[simp] theorem execReductionTimeout_canonical (red : Nat) {s : State} (h : s.mem.wf = true) :
    NextCanonical (execReductionTimeout red s) := by
  unfold execReductionTimeout
  repeat' split
  all_goals simp [h]

@[simp] theorem State.reductionFor_mem (s : State) (dev : Nat) (h : FragHdr) : (s.reductionFor dev h).2.mem = s.mem := by
  unfold State.reductionFor
  split <;> rfl

@[simp] theorem execCollectiveOrderNotice_canonical (dev : Nat) (red : GroupSeq) {s : State} (h : s.mem.wf = true) :
    NextCanonical (execCollectiveOrderNotice dev red s) := by
  unfold execCollectiveOrderNotice
  split <;> simp [h]

@[simp] theorem State.addFragment_mem (s : State) (m : Msg) (f : Nat) (pay : List Byte) : (s.addFragment m f pay).mem = s.mem := by
  grind [State.addFragment, State.landFrag_mem, State.retire_mem, State.dropMsg_mem, State.notify_mem, State.setMsg_mem]

@[simp] theorem State.acceptFragment_wf {s : State} (h : s.mem.wf = true) (dev port : Nat) (x : FragHdr) (pay : List Byte) :
    (s.acceptFragment dev port x pay).mem.wf = true := by
  grind [State.acceptFragment, State.addFragment_mem, State.offer_wf, State.countYard_mem]

@[simp] theorem State.acceptPart_wf {s : State} (h : s.mem.wf = true) (dev port : Nat) (x : FragHdr) (pay : List Byte) :
    (s.acceptPart dev port x pay).mem.wf = true := by
  grind [State.acceptPart, State.closeRed_wf, State.notifyMembers_wf, State.acceptFragment_wf, State.combine_wf,
    State.reductionFor_mem, State.retire_mem, State.notify_mem]

@[simp] theorem execFragmentArrival_canonical (dev port : Nat) (header payload : List Byte) {s : State} (h : s.mem.wf = true) :
    NextCanonical (execFragmentArrival dev port header payload s) := by
  unfold execFragmentArrival
  dsimp only
  repeat' split
  all_goals simp [h]

@[simp] theorem execMessageLost_canonical (msg : Nat) {s : State} (h : s.mem.wf = true) : NextCanonical (execMessageLost msg s) := by
  unfold execMessageLost
  dsimp only
  repeat' split
  all_goals simp [h]

@[simp] theorem execHeldMessageDiscard_canonical (msg : Nat) {s : State} (h : s.mem.wf = true) :
    NextCanonical (execHeldMessageDiscard msg s) := by
  unfold execHeldMessageDiscard
  repeat' split
  all_goals simp [h]

@[simp] theorem execAbandonNotice_canonical (src mid : Nat) {s : State} (h : s.mem.wf = true) :
    NextCanonical (execAbandonNotice src mid s) := by
  unfold execAbandonNotice
  repeat' split
  all_goals simp [h]

@[simp] theorem State.startTable_wf {s : State} (h : s.mem.wf = true) (c : Cmd) : (s.startTable c).mem.wf = true := by
  grind [State.startTable, State.failCmd_wf, scan_wf, State.modCore_mem, State.beginCmd_mem]

@[simp] theorem execTimetableInstanceStart_canonical {s : State} (h : s.mem.wf = true) :
    NextCanonical (execTimetableInstanceStart s) := by
  simp only [execTimetableInstanceStart]
  split <;> simp [h]

@[simp] theorem execTimetableSendEntry_canonical (core entry : Nat) {s : State} (h : s.mem.wf = true) :
    NextCanonical (execTimetableSendEntry core entry s) := by
  unfold execTimetableSendEntry
  split
  · simp [h]
  · split <;> simp [h]

@[simp] theorem State.postEntry_wf {s : State} (h : s.mem.wf = true) (core entry : Nat) : (s.postEntry core entry).mem.wf = true := by
  simp only [State.postEntry]
  split
  · simp [h]
  · split <;> simp [h]

@[simp] theorem State.postEntries_wf {s : State} (h : s.mem.wf = true) (core : Nat) : (s.postEntries core).mem.wf = true := by
  simp only [State.postEntries]
  split <;> simp +contextual [h, foldl_wf]

@[simp] theorem execTimetableConsumeDeadline_canonical (core entry : Nat) {s : State} (h : s.mem.wf = true) :
    NextCanonical (execTimetableConsumeDeadline core entry s) := by
  unfold execTimetableConsumeDeadline
  repeat' split
  all_goals simp [h]

@[simp] theorem execTimetableInstanceEnd_canonical {s : State} (h : s.mem.wf = true) : NextCanonical (execTimetableInstanceEnd s) := by
  unfold execTimetableInstanceEnd
  dsimp only
  repeat' split
  all_goals simp [h]

@[simp] theorem State.abortTable_wf {s : State} (h : s.mem.wf = true) (core dev stall : Nat) :
    (s.abortTable core dev stall).mem.wf = true := by
  unfold State.abortTable
  dsimp only
  repeat' split
  all_goals simp [h]

/-! ### Group commands and the decode engine -/

@[simp] theorem State.resolveAgain_wf {s : State} (h : s.mem.wf = true) (c : Cmd) (id : Nat) : (s.resolveAgain c id).mem.wf = true := by
  unfold State.resolveAgain
  dsimp only
  repeat' split
  all_goals simp [h]

@[simp] theorem State.startKvinv_wf {s : State} (h : s.mem.wf = true) (c : Cmd) : (s.startKvinv c).mem.wf = true := by
  simp +contextual [State.startKvinv, foldl_wf, h]

@[simp] theorem State.startFabric_wf {s : State} (h : s.mem.wf = true) (c : Cmd) : (s.startFabric c).mem.wf = true := by
  unfold State.startFabric
  split
  · simp [h]
  · split <;> simp [h]

@[simp] theorem State.beginReads_mem (s : State) (c : Cmd) (rs : List Run) : (s.beginReads c rs).mem = s.mem := rfl

@[simp] theorem execGroupCommandStart_canonical (cmd : Nat) {s : State} (h : s.mem.wf = true) :
    NextCanonical (execGroupCommandStart cmd s) := by
  unfold execGroupCommandStart
  repeat' split
  all_goals simp [h]

@[simp] theorem State.nextPage_mem (s : State) (c : Cmd) : (s.nextPage c).mem = s.mem := rfl

@[simp] theorem State.pageHeader_wf {s : State} (h : s.mem.wf = true) (c : Cmd) (hdr : List Byte) :
    (s.pageHeader c hdr).mem.wf = true := by
  simp only [State.pageHeader]
  split
  · simp [h]
  · split <;> simp [h]

@[simp] theorem execDecodePage_canonical (cmd : Nat) {s : State} (h : s.mem.wf = true) : NextCanonical (execDecodePage cmd s) := by
  unfold execDecodePage
  repeat' split
  all_goals simp [h]

@[simp] theorem State.putResult_mem (s : State) (c : Cmd) (a : Word) (bs : List Byte) (count status : Nat) :
    (s.putResult c a bs count status).mem = s.mem := rfl

@[simp] theorem State.writeResult_mem (s : State) (c : Cmd) (bs : List Byte) : (s.writeResult c bs).mem = s.mem := by
  simp only [State.writeResult]
  split <;> simp [apply_ite State.mem]

@[simp] theorem execGroupCommandComplete_canonical (cmd : Nat) {s : State} (h : s.mem.wf = true) :
    NextCanonical (execGroupCommandComplete cmd s) := by
  unfold execGroupCommandComplete
  repeat' split
  all_goals simp [h]

/-! ### The S slots -/

@[simp] theorem stgWrite_canonical (sl : SSlot) (n : BitVec 6) (v : Word) {s : State} (h : s.mem.wf = true) :
    (stgWrite sl n v s).Canonical := by
  unfold stgWrite
  dsimp only
  repeat' split
  all_goals simp [h]

/-! ### The Q slot -/

@[simp] theorem slotQld_canonical (n : BitVec 3) (a : XNum) {s : State} (h : s.mem.wf = true) :
    (slotQld n a s).Canonical :=
  Chk.slot_canonical _ fun _ => Chk.slot_canonical _ fun _ =>
    watched_canonical _ _ _ _ (fun t ht => by simp [ht]) h

@[simp] theorem slotQset_canonical (n : BitVec 3) (a : XNum) {s : State} (h : s.mem.wf = true) : (slotQset n a s).Canonical := by
  simp [slotQset, h]

@[simp] theorem slotQclr_canonical (n : BitVec 3) {s : State} (h : s.mem.wf = true) : (slotQclr n s).Canonical := by simp [slotQclr, h]

/-! ### Rental -/

@[simp] theorem State.givePool_mem (s : State) (level : Nat) (l : List Nat) : (s.givePool level l).mem = s.mem := by
  unfold State.givePool
  split <;> rfl

@[simp] theorem State.takePool_mem (s : State) (level : Nat) (l : List Nat) : (s.takePool level l).mem = s.mem := by
  unfold State.takePool
  split <;> rfl

@[simp] theorem State.rent_mem (s : State) (r : RentReq) : (s.rent r).2.2.mem = s.mem := by
  unfold State.rent
  dsimp only
  repeat' split
  all_goals simp

@[simp] theorem State.putStall_mem (s : State) (x : Stall) (cost : Nat) : (s.putStall x cost).mem = s.mem := rfl

@[simp] theorem State.prepay_mem (s : State) (x : Stall) (n : Nat) : (s.prepay x n).2.mem = s.mem := by
  unfold State.prepay
  dsimp only
  repeat' split
  all_goals simp

@[simp] theorem State.renew_mem (s : State) (x : Stall) (n : Nat) : (s.renew x n).2.mem = s.mem := by
  unfold State.renew
  dsimp only
  repeat' split
  all_goals simp

@[simp] theorem State.vacate_mem (s : State) (dev : Nat) (x : Stall) : (s.vacate dev x).2.mem = s.mem := by
  unfold State.vacate
  repeat' split
  all_goals rfl

@[simp] theorem State.sublet_mem (s : State) (x : Stall) (off len n acct : Nat) : (s.sublet x off len n acct).2.2.mem = s.mem := by
  unfold State.sublet
  dsimp only
  repeat' split
  all_goals simp

@[simp] theorem State.returnX_mem (s : State) (x : XNum) (i : Nat) (v : Word) : (s.returnX x i v).mem = s.mem := rfl

@[simp] theorem slotRent_canonical (x : XNum) {s : State} (h : s.mem.wf = true) : (slotRent x s).Canonical := by
  simp only [slotRent]
  split
  · simp
  · split <;> simp [h]

@[simp] theorem slotPrepay_canonical (x : XNum) {s : State} (h : s.mem.wf = true) : (slotPrepay x s).Canonical := by
  unfold slotPrepay
  split
  · simp
  · refine Chk.slot_canonical _ fun y => ?_
    dsimp only
    repeat' split
    all_goals simp [h]

@[simp] theorem slotRenew_canonical (x : XNum) {s : State} (h : s.mem.wf = true) : (slotRenew x s).Canonical := by
  unfold slotRenew
  split
  · simp
  · refine Chk.slot_canonical _ fun y => ?_
    dsimp only
    repeat' split
    all_goals simp [h]

@[simp] theorem slotVacate_canonical (x : XNum) {s : State} (h : s.mem.wf = true) : (slotVacate x s).Canonical := by
  refine Chk.slot_canonical _ fun y => ?_
  repeat' split
  all_goals simp [h]

@[simp] theorem slotRentq_canonical (x : XNum) {s : State} (h : s.mem.wf = true) : (slotRentq x s).Canonical := by
  unfold slotRentq
  split <;> simp [h]

@[simp] theorem slotSublet_canonical (x : XNum) {s : State} (h : s.mem.wf = true) : (slotSublet x s).Canonical := by
  unfold slotSublet
  split
  · simp
  · refine Chk.slot_canonical _ fun y => ?_
    dsimp only
    repeat' split
    all_goals simp [h]

/-! ### Job control -/

@[simp] theorem State.jcbWrite_mem (s : State) (key phys : Nat) (cells : List Host.Cell) : (s.jcbWrite key phys cells).mem = s.mem := rfl
@[simp] theorem State.sendCopies_mem (s : State) (l : Launch) : (s.sendCopies l).mem = s.mem := by unfold State.sendCopies; split <;> rfl

@[simp] theorem State.makeEligible_mem (s : State) (cls : Nat) (l : Launch) : (s.makeEligible cls l).mem = s.mem := by
  simp [State.makeEligible]

@[simp] theorem State.releaseLaunches_mem (s : State) : s.releaseLaunches.mem = s.mem := by
  refine foldl_mem (fun t e => ?_) _ _
  split
  · split <;> simp
  · rfl

@[simp] theorem State.jcbFire_mem (s : State) (key : Nat) (a : Word) (phys old w : Nat) : (s.jcbFire key a phys old w).mem = s.mem := by
  simp only [State.jcbFire]
  split <;> simp

@[simp] theorem State.disarm_mem (s : State) (phys : Nat) : (s.disarm phys).mem = s.mem := by unfold State.disarm; split <;> simp

@[simp] theorem State.jcbDoneBy_mem (s : State) (key : Nat) (a : Word) (phys w : Nat) : (s.jcbDoneBy key a phys w).mem = s.mem := by
  simp [State.jcbDoneBy, apply_ite State.mem]

@[simp] theorem holdFor_canonical (o : Option HoldWhy) {f : SlotOut} (hf : f.Canonical) : (holdFor o f).Canonical := by
  cases o with
  | none => exact hf
  | some w => exact .hold w

@[simp] theorem slotFence_canonical (scope : FenceScope) (kind : FenceKind) {s : State} (h : s.mem.wf = true) :
    (slotFence scope kind s).Canonical :=
  holdFor_canonical _ (.ok h)

@[simp] theorem slotRealign_canonical {s : State} (h : s.mem.wf = true) : (slotRealign s).Canonical := by
  unfold slotRealign
  dsimp only
  repeat' split
  all_goals simp [h]

@[simp] theorem slotJinit_canonical (x : XNum) {s : State} (h : s.mem.wf = true) : (slotJinit x s).Canonical := by
  unfold slotJinit
  split
  · simp
  · refine Chk.slot_canonical _ fun y => ?_
    dsimp only
    repeat' split
    all_goals simp [h, scan_wf]

@[simp] theorem slotJadd_canonical (x : XNum) {s : State} (h : s.mem.wf = true) : (slotJadd x s).Canonical := by
  unfold slotJadd
  split
  · simp
  · refine Chk.slot_canonical _ fun y => ?_
    dsimp only
    repeat' split
    all_goals simp [h, scan_wf]

@[simp] theorem slotJdone_canonical (x : XNum) {s : State} (h : s.mem.wf = true) : (slotJdone x s).Canonical := by
  refine Chk.slot_canonical _ fun y => ?_
  dsimp only
  split
  · exact holdFor_canonical _ (by simp [h, scan_wf])
  · simp

@[simp] theorem slotJwait_canonical (x : XNum) {s : State} (h : s.mem.wf = true) : (slotJwait x s).Canonical := by
  refine Chk.slot_canonical _ fun y => ?_
  dsimp only
  split
  · simp
  · simp
  · split
    · simp
    · simp [h, scan_wf]

/-! ### Launches -/

@[simp] theorem State.postFree_mem (s : State) (o : Owner) (r : Record) : (s.postFree o r).mem = s.mem := by
  simp [State.postFree, apply_ite State.mem]

@[simp] theorem State.report_wf {s : State} (h : s.mem.wf = true) (dev : Nat) (dest : Option Owner) (a : Word) (cmd reason status : Nat) :
    (s.report dev dest a cmd reason status).mem.wf = true := by
  unfold State.report
  split <;> simp [h]

@[simp] theorem State.tellHome_mem (s : State) (gang cause : Nat) : (s.tellHome gang cause).mem = s.mem := rfl

@[simp] theorem State.addLaunch_mem (s : State) (src : Source) (r : LaunchRec) : (s.addLaunch src r).mem = s.mem := by
  simp [State.addLaunch, apply_ite State.mem]

@[simp] theorem State.enqueue_wf {s : State} (h : s.mem.wf = true) (src : Source) (r : LaunchRec) : (s.enqueue src r).mem.wf = true := by
  unfold State.enqueue
  dsimp only
  repeat' split
  all_goals simp [h]

@[simp] theorem State.commitLaunch_wf {s : State} (h : s.mem.wf = true) (x : XNum) (a : Word) (r : LaunchRec) :
    (s.commitLaunch x a r).mem.wf = true := by
  unfold State.commitLaunch
  split
  · simp [h]
  · split <;> simp [h]

@[simp] theorem slotLaunch_canonical (x : XNum) {s : State} (h : s.mem.wf = true) : (slotLaunch x s).Canonical := by
  refine Chk.slot_canonical _ fun y => Chk.slot_canonical _ fun _ => holdFor_canonical _ ?_
  dsimp only
  split <;> simp [h, scan_wf]

@[simp] theorem State.serveRing_wf (n : Nat) {s : State} (h : s.mem.wf = true) (dev tail : Nat) :
    (State.serveRing n s dev tail).mem.wf = true := by
  induction n generalizing s with
  | zero => exact h
  | succ n ih =>
    simp only [State.serveRing]
    split
    · exact h
    · exact ih (by simp [h])

@[simp] theorem State.serveWake_wf {s : State} (h : s.mem.wf = true) (dev tail : Nat) : (s.serveWake dev tail).mem.wf = true := by
  simp [State.serveWake, h]

@[simp] theorem State.wakeWrite_wf {s : State} (h : s.mem.wf = true) (dev tail : Nat) : (s.wakeWrite dev tail).mem.wf = true := by
  simp only [State.wakeWrite]
  split
  · simp [h]
  · split <;> simp [h]

@[simp] theorem slotWake_canonical (x : XNum) {s : State} (h : s.mem.wf = true) : (slotWake x s).Canonical := by simp [slotWake, h]

@[simp] theorem execHostWake_canonical (dev tail : Nat) {s : State} (h : s.mem.wf = true) : NextCanonical (execHostWake dev tail s) := by
  simp [execHostWake, h]

@[simp] theorem execWakeRefill_canonical {s : State} (h : s.mem.wf = true) : NextCanonical (execWakeRefill s) := by
  simp only [execWakeRefill]
  split <;> simp [h]

/-! ### The tack room -/

@[simp] theorem State.bindSlot_mem (s : State) (n i : Nat) (b : Option (Option TSlot)) : (s.bindSlot n i b).mem = s.mem := by
  unfold State.bindSlot
  split <;> rfl

@[simp] theorem State.storeMarked_wf {s : State} (h : s.mem.wf = true) (p : Nat) (bs : List Byte) (bad : List Nat) :
    (s.storeMarked p bs bad).mem.wf = true := by
  simp [State.storeMarked, h]

@[simp] theorem State.ringWrites_wf {s : State} (h : s.mem.wf = true) (n dev : Nat) (ws : TWrites) :
    (s.ringWrites n dev ws).mem.wf = true :=
  foldl_wf (fun t w ht => by
    have hc := State.catchUp_wf (s := t.seePages n dev (physOf t dev w.1) w.2.1.length)
      (by simpa using ht) n (physOf t dev w.1) w.2.1.length
    simp [hc]) ws h

@[simp] theorem State.slotWrites_wf {s : State} (h : s.mem.wf = true) (o : Owner) (ws : TWrites) : (s.slotWrites o ws).mem.wf = true := by
  simp +contextual [State.slotWrites, foldl_wf, h]

@[simp] theorem State.reckonWrites_wf {s : State} (h : s.mem.wf = true) (dev : Nat) (ws : TWrites) :
    (s.reckonWrites dev ws).mem.wf = true := by
  simp +contextual [State.reckonWrites, foldl_wf, h]

@[simp] theorem State.reckon_wf {s : State} (h : s.mem.wf = true) (n : Nat) (c : TCmd) : (s.reckon n c).mem.wf = true := by
  unfold State.reckon
  split
  · simp [h]
  · split <;> simp [h]

@[simp] theorem State.seeWrites_mem (s : State) (n dev : Nat) (ws : TWrites) : (s.seeWrites n dev ws).mem = s.mem := rfl

@[simp] theorem State.captureImages_wf {s : State} (h : s.mem.wf = true) (n : Nat) : (s.captureImages n).mem.wf = true := by
  simp only [State.captureImages]
  split <;> simp [h, scanAll_wf]

@[simp] theorem State.relock_mem (s : State) (n : Nat) : (s.relock n).mem = s.mem := rfl

@[simp] theorem acceptTack_canonical (code : Nat) (x : XNum) (n : Nat) {s : State} (h : s.mem.wf = true) :
    (acceptTack code x n s).Canonical := by
  unfold acceptTack
  dsimp only
  repeat' split
  all_goals simp [h]

@[simp] theorem State.postTack_mem (s : State) (n : Nat) (c : TCmd) (reason status count : Nat) (addr : Word) :
    (s.postTack n c reason status count addr).mem = s.mem := by
  simp [State.postTack]

@[simp] theorem State.farRead_wf {s : State} (h : s.mem.wf = true) (n dev p len : Nat) : (s.farRead n dev p len).mem.wf = true :=
  scan_wf (by simp [h]) p len

@[simp] theorem State.tackRead_wf {s : State} (h : s.mem.wf = true) (n : Nat) (c : TCmd) : (s.tackRead n c).mem.wf = true := by
  unfold State.tackRead
  dsimp only
  repeat' split
  all_goals simp [h]

@[simp] theorem execTackCommandStart_canonical {s : State} (h : s.mem.wf = true) : NextCanonical (execTackCommandStart s) := by
  simp only [execTackCommandStart]
  split
  · simp [h]
  · split <;> simp [h]

@[simp] theorem execTackCommandComplete_canonical {s : State} (h : s.mem.wf = true) : NextCanonical (execTackCommandComplete s) := by
  unfold execTackCommandComplete
  dsimp only
  repeat' split
  all_goals simp [h]

@[simp] theorem State.unlock_mem (s : State) (n : Nat) (o : Owner) (r : Record) : (s.unlock n o r).mem = s.mem := by
  unfold State.unlock
  split <;> rfl

/-! ### The rest of the Y slot -/

@[simp] theorem State.returnFrom_mem (s : State) (key : Nat) (t : TrapBank) (ring : CRing) (skip : Bool) (b : Nat) :
    (s.returnFrom key t ring skip b).mem = s.mem := rfl

@[simp] theorem slotEret_canonical (skip : Bool) {s : State} (h : s.mem.wf = true) : (slotEret skip s).Canonical := by
  unfold slotEret
  split <;> simp [h]

@[simp] theorem slotTrap_canonical (n : BitVec 6) (s : State) : (slotTrap n s).Canonical := .trap _ _

@[simp] theorem slotEvwait_canonical {s : State} (h : s.mem.wf = true) : (slotEvwait s).Canonical := by
  unfold slotEvwait
  split <;> simp [h]

@[simp] theorem slotEvpop_canonical (x : XNum) {s : State} (h : s.mem.wf = true) : (slotEvpop x s).Canonical := by
  unfold slotEvpop
  split
  · simp
  · split <;> simp +contextual [h, foldl_wf]

@[simp] theorem State.leafDone_mem (s : State) (launch : Nat) : (s.leafDone launch).mem = s.mem := by unfold State.leafDone; split <;> rfl
@[simp] theorem State.endLeaf_mem (s : State) (key : Nat) : (s.endLeaf key).mem = s.mem := by simp [State.endLeaf]
@[simp] theorem slotHalt_canonical {s : State} (h : s.mem.wf = true) : (slotHalt s).Canonical := by unfold slotHalt; split <;> simp [h]

/-! ### Float vectors -/

@[simp] theorem slotVfcmp_canonical (sl : VSlot) (f : Fmt) (cc : VFCmpOp) (kd : KNum) (a b : VCode) (k : KNum) {s : State}
    (h : s.mem.wf = true) : (slotVfcmp sl f cc kd a b k s).Canonical := by
  simp [slotVfcmp, h]

/-! ### The adjoint broadcast -/

@[simp] theorem slotAdjb_canonical (sl : VSlot) (d a b : VCode) (xg : XNum) (k : KNum) {s : State} (h : s.mem.wf = true) :
    (slotAdjb sl d a b xg k s).Canonical := by
  simp only [slotAdjb]
  split
  · simp
  · split <;> simp [h]

/-! ### A bundle and the issue path -/

/-- Every syllable keeps the canonical form, whatever it comes to in its bundle; most only schedule writes, start accesses or hand over a
command, through one of the shared operations. -/
theorem slotExec_canonical (i : Instr) {s : State} (h : s.mem.wf = true) : (slotExec i s).Canonical := by
  cases i
  case loop => exact openLoop_canonical _ _ _ h
  case add | sub | and | or | xor | shl | shr | sra | min | max | minn | maxn | mov | sel | clz | ctz | popc | mul | mulh | mulhn
      | divs | divn | rems | remn | addi | andi | ori | xori | shli | shri | srai | li | lih =>
    exact sWrite_canonical _ _ _ _ h
  case ceq | cne | clt | cltn | cle | clen | anyk | allk => exact cWrite_canonical _ _ _ h
  case stg | stgi => exact stgWrite_canonical _ _ _ h
  case ldb | ldh | ldw | ldd => exact scalarLoad_canonical _ _ _ _ _ h
  case stb | sth | stw | std => exact scalarStore_canonical _ _ _ _ h
  case vadd | vsub | vaddsat | vsubsat | vmul | vmulw | vmac | vmacw | vabs | vneg | vmin | vmax | vand | vor | vxor | vnot | vshl
      | vshr | vsra | vsel | vredsum | vredmax | vredmin | vbcst | vperm | vrot | vzip | vunzip | vpack | vunpack | vdpack | vtpack |
      vfadd | vfsub | vfmul | vfma | vfnma | vfmin | vfmax | vfabs | vfneg | vfredsum | vcvt | vbfix | vbflt | vrcp | vrsq | vsqrt |
      vexp2 | vlog2 | vtanh | vsigm | wmax | wmin | wclamp | wmed | wsat =>
    exact vWrite_canonical _ _ _ _ h
  case mcall | mloadCode | mloadTable => exact acceptM_canonical _ h
  case dcopy | dcopy2 | dgath | dscat | dfill | datom | dchase | dmig | adec | aplan | amerge | kvinv | kfork | gsend | grecv |
      gred | gtt =>
    exact acceptCmd_canonical _ _ _ _ _ _ h
  case tbind | tsnap | troll | tfork => exact acceptTack_canonical _ _ _ h
  case eretRetry | eretSkip => exact slotEret_canonical _ h
  case ptg | br | bra | brx | call | ret | loopi | csrr | csrw | ldv | stv | ldvs | stvs | accrd | accwr | tld | tst | atom |
      vfcmp | adjb | mcallT | mcfg | mhalt | qld | qset | qclr | rent | prepay | renew | sublet | vacate | rentq | evwait | evpop |
      fence | realign | wake | jinit | jadd | jdone | jwait | launch | trap | halt =>
    dsimp only [slotExec]
    simp [h]
  case ldk =>
    dsimp only [slotExec, slotLdk]
    simp [h]
  case stk =>
    dsimp only [slotExec, slotStk]
    simp [h]
  case vcmp =>
    dsimp only [slotExec, slotVcmp]
    simp [h]
  all_goals exact .ok h

@[simp] theorem Verdict.fault_st (v : Verdict) (sl : Slot) (code : Nat) (addr : Word) : (v.fault sl code addr).st = v.st := rfl

theorem checkSlot_wf {v : Verdict} (h : v.st.mem.wf = true) (w : Slot × Nat) : (checkSlot v w).st.mem.wf = true := by
  unfold checkSlot
  split
  · exact h
  · next i _ =>
    have hi := slotExec_canonical i h
    split
    · next t e => simpa [e] using hi
    · exact h
    · exact h
    · exact h

@[simp] theorem State.meetVerdict_wf {s : State} (h : s.mem.wf = true) (dev : Nat) (v : Verdict) :
    (s.meetVerdict dev v).mem.wf = true := by
  simp +contextual [State.meetVerdict, foldl_wf, h]

theorem checkSlots_wf {s : State} (h : s.mem.wf = true) (ws : List (Slot × Nat)) : (checkSlots s ws).st.mem.wf = true := by
  unfold checkSlots
  generalize hv : ({ st := s } : Verdict) = v
  have hs : v.st.mem.wf = true := by rw [← hv]; exact h
  clear hv
  induction ws generalizing v with
  | nil => exact hs
  | cons w ws ih => exact ih _ (checkSlot_wf hs w)

@[simp] theorem State.idleBundle_mem (s : State) (key m : Nat) : (s.idleBundle key m).mem = s.mem := by
  simp [State.idleBundle, apply_ite State.mem]

@[simp] theorem State.bundleBase_mem (s : State) (key : Nat) : (s.bundleBase key).mem = s.mem := rfl

@[simp] theorem State.commitBundle_mem (s : State) (key : Nat) (t : State) : (s.commitBundle key t).mem = t.mem := by
  simp only [State.commitBundle]
  split <;> rfl

theorem bundleAt_canonical {s : State} (h : s.mem.wf = true) (key : Nat) : (bundleAt s key).Canonical := by
  simp only [bundleAt]
  split
  · simp [h]
  · simp [h]
  · next ws _ =>
    have hv := checkSlots_wf (s := s.bundleBase key) (by simpa using h) ws
    split
    · simp [h]
    · exact .holds _
    · simpa using hv

theorem pendingTrap_mem {s t : State} {key : Nat} {r : TrapReq} (e : pendingTrap s key = some (r, t)) : t.mem = s.mem := by
  simp only [pendingTrap] at e
  split at e
  · cases e; rfl
  · obtain ⟨a, -, ha⟩ := Option.map_eq_some_iff.1 e
    cases ha; rfl

@[simp] theorem State.enter_wf {s : State} (h : s.mem.wf = true) (key : Nat) (r : TrapReq) : (s.enter key r).mem.wf = true := by
  simp [State.enter, h]

theorem attempt_canonical {s : State} (h : s.mem.wf = true) (key : Nat) : (attempt s key).Canonical := by
  simp only [attempt]
  split
  · exact .absent
  · have ha : (s.arrive key).mem.wf = true := by simpa using h
    split
    · next e => simp [pendingTrap_mem e, h]
    · have hb := bundleAt_canonical ha key
      split
      · next e => simpa [e] using hb
      · next e =>
        rw [e, Came.canonical_traps] at hb
        simp [hb]
      · simp [h]

@[simp] theorem State.fixTrap_mem (s : State) (key : Nat) (t : State) (r : TrapReq) : (s.fixTrap key t r).mem = t.mem := rfl

@[simp] theorem State.recheck_wf {s : State} (h : s.mem.wf = true) (key : Nat) : (s.recheck key).mem.wf = true := by
  simp only [State.recheck]
  split
  · exact h
  · split
    · exact h
    · have hb := bundleAt_canonical (s := s.arrive key) (by simpa using h) key
      split
      · exact h
      · next e => simpa [e] using hb
      · simp [h]

theorem tryOrder_wf (n : Nat) (is : List Nat) {s : State} (h : s.mem.wf = true) : (tryOrder n is s).1.mem.wf = true := by
  induction is generalizing s with
  | nil => exact h
  | cons i is ih =>
    have ha := attempt_canonical h (4 * n + i)
    unfold tryOrder
    split
    · exact ih h
    · next e => exact ih (by simpa [e] using ha)
    · next e => simpa [e] using ha

@[simp] theorem State.issueCore_wf {s : State} (h : s.mem.wf = true) (n : Nat) : (s.issueCore n).mem.wf = true :=
  foldl_wf (fun t i ht => by simp [ht]) _ (by simp [tryOrder_wf, h])

@[simp] theorem execBundleIssue_canonical {s : State} (h : s.mem.wf = true) : NextCanonical (execBundleIssue s) := by
  simp [execBundleIssue, h]

@[simp] theorem execWriteLanding_canonical {s : State} (h : s.mem.wf = true) : NextCanonical (execWriteLanding s) := by
  simp only [execWriteLanding]
  split <;> simp [h]

@[simp] theorem execTransferEffect_canonical {s : State} (h : s.mem.wf = true) : NextCanonical (execTransferEffect s) := by
  simp only [execTransferEffect]
  split <;> simp [h]

@[simp] theorem execTrapEntry_canonical {s : State} (h : s.mem.wf = true) : NextCanonical (execTrapEntry s) := by
  simp only [execTrapEntry]
  split
  · exact .next h
  · split
    · next e => simp [pendingTrap_mem e, h]
    · exact .next h

/-! ### Tick boundaries and migration -/

@[simp] theorem execTickBoundary_canonical {s : State} (h : s.mem.wf = true) : NextCanonical (execTickBoundary s) := by
  unfold execTickBoundary
  split <;> simp [h]

@[simp] theorem State.faultWaiter_wf {s : State} (h : s.mem.wf = true) (dev id key : Nat) : (s.faultWaiter dev id key).mem.wf = true := by
  unfold State.faultWaiter
  dsimp only
  repeat' split
  all_goals simp [h]

@[simp] theorem State.faultTable_wf {s : State} (h : s.mem.wf = true) (dev id core : Nat) : (s.faultTable dev id core).mem.wf = true := by
  unfold State.faultTable
  repeat' split
  all_goals simp [h]

@[simp] theorem State.faultSaved_wf {s : State} (h : s.mem.wf = true) (dev id : Nat) (x : SavedCore) :
    (s.faultSaved dev id x).mem.wf = true := by
  unfold State.faultSaved
  dsimp only
  repeat' split
  all_goals simp [h]

@[simp] theorem State.dropWaiting_wf {s : State} (h : s.mem.wf = true) (dev id : Nat) (l : Launch) :
    (s.dropWaiting dev id l).mem.wf = true := by
  unfold State.dropWaiting
  split <;> simp [h]

@[simp] theorem State.syncLapse_wf {s : State} (h : s.mem.wf = true) (dev : Nat) (x : Stall) : (s.syncLapse dev x).mem.wf = true :=
  foldl_wf (fun t e ht => by simp [ht]) _ <|
    foldl_wf (fun t e ht => by split <;> simp [ht]) _ <|
    foldl_wf (fun t y ht => by simp [ht]) _ <|
    foldl_wf (fun t n ht => by simp [ht]) _ <|
    foldl_wf (fun t k ht => by simp [ht]) _ h

@[simp] theorem State.forgetStall_mem (s : State) (dev id : Nat) : (s.forgetStall dev id).mem = s.mem := rfl

@[simp] theorem State.dropMove_mem (s : State) (dev id die : Nat) : (s.dropMove dev id die).mem = s.mem := by
  simp only [State.dropMove]
  split <;> simp [apply_ite State.mem]

@[simp] theorem State.freeRoot_mem (s : State) (dev : Nat) (x : Stall) : (s.freeRoot dev x).mem = s.mem := by
  simp [State.freeRoot, foldl_mem]

@[simp] theorem State.leaveActive_wf {s : State} (h : s.mem.wf = true) (dev : Nat) (x : Stall) : (s.leaveActive dev x).mem.wf = true := by
  unfold State.leaveActive
  split <;> simp [h]

@[simp] theorem State.reclaim_wf (f : Nat) {s : State} (h : s.mem.wf = true) (dev id : Nat) : (State.reclaim f s dev id).mem.wf = true := by
  induction f generalizing s id with
  | zero => exact h
  | succ f ih =>
    have hk := foldl_wf (f := fun s k => State.reclaim f s dev k) (fun t k ht => ih ht k)
      (((s.dev dev).stalls.filter fun e => e.2.parent == id).map Prod.fst) h
    simp only [State.reclaim]
    repeat' split
    all_goals simp [hk]

@[simp] theorem State.reclaimStall_wf {s : State} (h : s.mem.wf = true) (dev id : Nat) : (s.reclaimStall dev id).mem.wf = true := by
  simp [State.reclaimStall, h]

@[simp] theorem execStallLapse_canonical (dev stall : Nat) {s : State} (h : s.mem.wf = true) :
    NextCanonical (execStallLapse dev stall s) := by
  unfold execStallLapse
  dsimp only
  repeat' split
  all_goals simp [h]

@[simp] theorem execOverstayCharge_canonical (dev stall : Nat) {s : State} (h : s.mem.wf = true) :
    NextCanonical (execOverstayCharge dev stall s) := by
  unfold execOverstayCharge
  dsimp only
  repeat' split
  all_goals simp [h]

@[simp] theorem execStallReclaim_canonical (dev stall : Nat) {s : State} (h : s.mem.wf = true) :
    NextCanonical (execStallReclaim dev stall s) := by
  simp only [execStallReclaim]
  split <;> simp [h]

@[simp] theorem execReclaimScrub_canonical (scrub : Nat) {s : State} (h : s.mem.wf = true) :
    NextCanonical (execReclaimScrub scrub s) := by
  unfold execReclaimScrub
  repeat' split
  all_goals simp [h]

@[simp] theorem execStorageReturn_canonical (ret : Nat) {s : State} (h : s.mem.wf = true) : NextCanonical (execStorageReturn ret s) := by
  unfold execStorageReturn
  repeat' split
  all_goals simp [h]

@[simp] theorem execSharedStoreCommit_canonical {s : State} (h : s.mem.wf = true) : NextCanonical (execSharedStoreCommit s) := by
  simp only [execSharedStoreCommit]
  split <;> simp +contextual [h, foldl_wf]

@[simp] theorem execRealignRelease_canonical {s : State} (h : s.mem.wf = true) : NextCanonical (execRealignRelease s) := by
  unfold execRealignRelease
  dsimp only
  repeat' split
  all_goals simp [h]

@[simp] theorem execHeatHalving_canonical {s : State} (h : s.mem.wf = true) : NextCanonical (execHeatHalving s) := by
  simp only [execHeatHalving]
  split <;> simp [h]

@[simp] theorem State.dropPage_mem (s : State) (n : Nat × Nat × Nat) : (s.dropPage n).mem = s.mem := rfl

@[simp] theorem execMigrationChoice_canonical {s : State} (h : s.mem.wf = true) : NextCanonical (execMigrationChoice s) := by
  unfold execMigrationChoice
  dsimp only
  repeat' split
  all_goals simp [h]

@[simp] theorem State.passLoft_mem (s : State) (a b : Nat × Nat × Nat) : (s.passLoft a b).mem = s.mem := rfl

@[simp] theorem State.switchMove_mem (s : State) (die : Nat) : (s.switchMove die).mem = s.mem := by
  unfold State.switchMove
  dsimp only
  repeat' split
  all_goals simp

@[simp] theorem execMigrationSwitch_canonical {s : State} (h : s.mem.wf = true) : NextCanonical (execMigrationSwitch s) := by
  simp [execMigrationSwitch, h]

@[simp] theorem State.reach_mem (s : State) (p n : Nat) : (s.reach p n).mem = s.mem := by
  refine foldl_mem (fun t die => ?_) _ _
  split <;> simp

@[simp] theorem execRowMitigation_canonical (stack : BitVec 8) (row : BitVec 40) {s : State} (h : s.mem.wf = true) :
    NextCanonical (execRowMitigation stack row s) := by
  simp only [execRowMitigation]
  split <;> simp [h]

/-! ### Micro-ops and the units of the array engine -/

@[simp] theorem State.modRoutine_mem (s : State) (n : Nat) (f : Routine → Routine) : (s.modRoutine n f).mem = s.mem := rfl
@[simp] theorem State.advance_mem (s : State) (n : Nat) : (s.advance n).mem = s.mem := rfl
@[simp] theorem State.engineEnding_mem (s : State) (n : Nat) : (s.engineEnding n).mem = s.mem := rfl

theorem microOp_canonical (p : MPred) {f : Nat → Engine → Routine → State → MOut} {s : State} (h : s.mem.wf = true)
    (hf : ∀ n e r, (f n e r s).Canonical) : NextCanonical (microOp p f s) := by
  simp only [microOp]
  split
  · exact .next h
  · next r _ =>
    have hr := hf s.myCore (s.core s.myCore).eng r
    split
    · simp [h]
    · split
      · next e => simpa [e] using hr
      · exact .next h
      · simp [h]

@[simp] theorem execMicroEnd_canonical (p : MPred) {s : State} (h : s.mem.wf = true) : NextCanonical (execMicroEnd p s) := by
  refine microOp_canonical _ h fun n e r => ?_
  repeat' split
  all_goals simp [h]

@[simp] theorem execMicroLoop_canonical (cp : Bool) (e : BitVec 2) (par : BitVec 3) (count : BitVec 16) {s : State}
    (h : s.mem.wf = true) : NextCanonical (execMicroLoop cp e par count s) := by
  refine microOp_canonical _ h fun n e r => ?_
  dsimp only
  repeat' split
  all_goals simp [h]

@[simp] theorem execEndl_canonical {s : State} (h : s.mem.wf = true) : NextCanonical (execEndl s) := by
  refine microOp_canonical _ h fun n e r => ?_
  repeat' split
  all_goals simp [h]

@[simp] theorem execProt_canonical {s : State} (h : s.mem.wf = true) : NextCanonical (execProt s) := by
  refine microOp_canonical _ h fun n e r => ?_
  repeat' split
  all_goals simp [h]

@[simp] theorem execPost_canonical (p : MPred) (code : BitVec 16) {s : State} (h : s.mem.wf = true) :
    NextCanonical (execPost p code s) := by
  refine microOp_canonical _ h fun n e r => ?_
  repeat' split
  all_goals simp [h]

@[simp] theorem execLdst_canonical (p : MPred) (st : Step) (layer : BitVec 2) (src stp : BitVec 3) (imm : BitVec 24) {s : State}
    (h : s.mem.wf = true) : NextCanonical (execLdst p st layer src stp imm s) := by
  refine microOp_canonical _ h fun n e r => ?_
  dsimp only
  repeat' split
  all_goals simp [h]

@[simp] theorem execSwap_canonical (p : MPred) {s : State} (h : s.mem.wf = true) : NextCanonical (execSwap p s) := by
  refine microOp_canonical _ h fun n e r => ?_
  repeat' split
  all_goals simp [h]

@[simp] theorem State.noteRow_mem (s : State) (n p len : Nat) : (s.noteRow n p len).mem = s.mem := by unfold State.noteRow; split <;> rfl

@[simp] theorem State.readRow_wf {s : State} (h : s.mem.wf = true) (n p len : Nat) : (s.readRow n p len).mem.wf = true := by
  simp [State.readRow, scan_wf, h]

@[simp] theorem State.markBad_mem (s : State) (gs : List Nat) : (s.markBad gs).mem = s.mem := rfl

@[simp] theorem State.setMstat_mem (s : State) (n bits : Nat) : (s.setMstat n bits).mem = s.mem := by
  unfold State.setMstat
  split <;> simp

@[simp] theorem State.loaderStep_mem (s : State) (n : Nat) (l : Loader) : (s.loaderStep n l).mem = s.mem := by
  simp [State.loaderStep, apply_ite State.mem]

@[simp] theorem State.replayStep_wf {s : State} (h : s.mem.wf = true) (n : Nat) (act : Bool) (l : Loader) :
    (s.replayStep n act l).mem.wf = true := by
  unfold State.replayStep
  dsimp only
  repeat' split
  all_goals simp [h]

@[simp] theorem execWcfg_canonical (p : MPred) (st : Step) (par stp : BitVec 3) (imm : BitVec 24) {s : State} (h : s.mem.wf = true) :
    NextCanonical (execWcfg p st par stp imm s) := by
  refine microOp_canonical _ h fun n e r => ?_
  dsimp only
  repeat' split
  all_goals simp [h]

@[simp] theorem execStrm_canonical (p : MPred) (st : Step) (m : BitVec 16) (pa : BitVec 3) (arow : BitVec 10) (sa sw : BitVec 3)
    (wofs : BitVec 17) {s : State} (h : s.mem.wf = true) : NextCanonical (execStrm p st m pa arow sa sw wofs s) := by
  refine microOp_canonical _ h fun n e r => ?_
  dsimp only
  repeat' split
  all_goals simp [h]

@[simp] theorem State.streamStep_mem (s : State) (n : Nat) (st : Stream) : (s.streamStep n st).mem = s.mem := by
  unfold State.streamStep
  repeat' split
  all_goals rfl

@[simp] theorem execAccumulatorAdd_canonical {s : State} (h : s.mem.wf = true) : NextCanonical (execAccumulatorAdd s) := by
  refine .next (foldl_wf (fun t a ht => ?_) _ (by simpa using h))
  dsimp only
  split <;> simp [ht]

@[simp] theorem execMicroZero_canonical (p : MPred) (st : Step) (pa : BitVec 3) (arow : BitVec 10) (sa : BitVec 3) (n1 : BitVec 10)
    {s : State} (h : s.mem.wf = true) : NextCanonical (execMicroZero p st pa arow sa n1 s) := by
  refine microOp_canonical _ h fun n e r => ?_
  repeat' split
  all_goals simp [h]

@[simp] theorem execDrn_canonical (p : MPred) (st : Step) (pa : BitVec 3) (arow : BitVec 10) (sa pd sd : BitVec 3) (n1 : BitVec 9)
    (rsc csc : BitVec 3) {s : State} (h : s.mem.wf = true) : NextCanonical (execDrn p st pa arow sa pd sd n1 rsc csc s) := by
  refine microOp_canonical _ h fun n e r => ?_
  repeat' split
  all_goals simp [h]

@[simp] theorem execDrnq_canonical (p : MPred) (st : Step) (pa : BitVec 3) (arow : BitVec 10) (sa pd sd : BitVec 3) (n1 : BitVec 9)
    (scm scs pz : BitVec 3) (w16 : Bool) {s : State} (h : s.mem.wf = true) :
    NextCanonical (execDrnq p st pa arow sa pd sd n1 scm scs pz w16 s) := by
  refine microOp_canonical _ h fun n e r => ?_
  repeat' split
  all_goals simp [h]

@[simp] theorem execDrnx_canonical (p : MPred) (st : Step) (pa : BitVec 3) (arow : BitVec 10) (sa : BitVec 3) (conv rt : BitVec 2)
    (n1 : BitVec 9) (sc1 sc2 pz : BitVec 3) (w16 : Bool) {s : State} (h : s.mem.wf = true) :
    NextCanonical (execDrnx p st pa arow sa conv rt n1 sc1 sc2 pz w16 s) := by
  refine microOp_canonical _ h fun n e r => ?_
  dsimp only
  repeat' split
  all_goals simp [h]

@[simp] theorem State.engineWrite_mem (s : State) (o : Owner) (phys : Nat) (a : Word) (bs : List Byte) (bad : Bool) :
    (s.engineWrite o phys a bs bad).mem = s.mem := rfl

@[simp] theorem State.openSend_mem (s : State) (o : Owner) (d : Drain) : (s.openSend o d).mem = s.mem := rfl
@[simp] theorem State.handRow_mem (s : State) (id : Nat) (bs : List Byte) (last : Bool) : (s.handRow id bs last).mem = s.mem := rfl

@[simp] theorem State.sendStep_mem (s : State) (n : Nat) (r : Routine) (d : Drain) : (s.sendStep n r d).mem = s.mem := by
  unfold State.sendStep
  dsimp only
  repeat' split
  all_goals simp

@[simp] theorem State.drainStep_mem (s : State) (n : Nat) (r : Routine) (d : Drain) : (s.drainStep n r d).mem = s.mem := by
  unfold State.drainStep
  split
  · simp
  · split <;> simp

@[simp] theorem State.unitsRead_wf {s : State} (h : s.mem.wf = true) (n : Nat) : (s.unitsRead n).mem.wf = true := by
  unfold State.unitsRead
  dsimp only
  repeat' split
  all_goals simp [h, foldl_mem, scanAll_wf]

@[simp] theorem State.loadCycle_wf {s : State} (h : s.mem.wf = true) (n : Nat) (l : Loader) : (s.loadCycle n l).mem.wf = true := by
  unfold State.loadCycle
  repeat' split
  all_goals simp [h]

@[simp] theorem State.unitStep_wf {s : State} (h : s.mem.wf = true) (n : Nat) : (s.unitStep n).mem.wf = true := by
  unfold State.unitStep
  dsimp only
  repeat' split
  all_goals simp [h]

/-! ### The yardmaster -/

@[simp] theorem State.readImage_wf {s : State} (h : s.mem.wf = true) (l : Launch) (n : Nat) (whole : Bool) :
    (s.readImage l n whole).mem.wf = true :=
  foldl_wf (fun t r ht => by simp [ht]) _ h

@[simp] theorem State.modCtxs_wf {s : State} (h : s.mem.wf = true) (n : Nat) (f : Ctx → Ctx) : (s.modCtxs n f).mem.wf = true := by
  simp +contextual [State.modCtxs, foldl_wf, h]

@[simp] theorem State.zeroSlot_wf {s : State} (h : s.mem.wf = true) (n dev : Nat) : (s.zeroSlot n dev).mem.wf = true := by
  unfold State.zeroSlot
  split <;> simp [h]

@[simp] theorem State.fillSlot_wf {s : State} (h : s.mem.wf = true) (x : SavedCore) : (s.fillSlot x).mem.wf = true := by
  unfold State.fillSlot
  split <;> simp [h]

@[simp] theorem State.settleTransit_wf {s : State} (h : s.mem.wf = true) (n : Nat) : (s.settleTransit n).mem.wf = true := by
  simp +contextual [State.settleTransit, foldl_wf, h]

@[simp] theorem State.takeCore_wf {s : State} (h : s.mem.wf = true) (l : Launch) (n : Nat) : (s.takeCore l n).mem.wf = true := by
  unfold State.takeCore
  exact State.modCtxs_wf (s := State.modCore _ _ _) (State.readImage_wf (State.settleTransit_wf h n) l n true) n Ctx.kept

@[simp] theorem State.vacateId_mem (s : State) (dev id : Nat) : (s.vacateId dev id).mem = s.mem := by
  simp [State.vacateId, apply_ite State.mem]

@[simp] theorem State.vacateNear_mem (s : State) (l : Launch) : (s.vacateNear l).mem = s.mem := by simp [State.vacateNear, foldl_mem]
@[simp] theorem State.vacateFar_mem (s : State) (l : Launch) : (s.vacateFar l).mem = s.mem := by simp [State.vacateFar, foldl_mem]

@[simp] theorem State.zeroSlots_wf {s : State} (h : s.mem.wf = true) (launch : Nat) : (s.zeroSlots launch).mem.wf = true := by
  simp +contextual [State.zeroSlots, foldl_wf, h]

@[simp] theorem State.forgetSaved_wf {s : State} (h : s.mem.wf = true) (launch : Nat) : (s.forgetSaved launch).mem.wf = true := by
  simp [State.forgetSaved, h]

@[simp] theorem State.dropLaunch_wf {s : State} (h : s.mem.wf = true) (l : Launch) : (s.dropLaunch l).mem.wf = true :=
  foldl_wf (fun t e ht => by simp [ht]) _ (by simp [h])

@[simp] theorem State.finishLaunch_wf {s : State} (h : s.mem.wf = true) (l : Launch) : (s.finishLaunch l).mem.wf = true := by
  unfold State.finishLaunch
  dsimp only
  repeat' split
  all_goals simp [h]

@[simp] theorem State.homeFails_wf {s : State} (h : s.mem.wf = true) (l : Launch) (reason status : Nat) :
    (s.homeFails l reason status).mem.wf = true := by
  simp [State.homeFails, h]

@[simp] theorem State.chooseGangTick_mem (s : State) (l : Launch) : (s.chooseGangTick l).mem = s.mem := rfl

@[simp] theorem State.sharesOver_mem (s : State) (l : Launch) : (s.sharesOver l).mem = s.mem := by
  simp [State.sharesOver, apply_ite State.mem]

@[simp] theorem State.homeHears_wf {s : State} (h : s.mem.wf = true) (l : Launch) (member cause : Nat) :
    (s.homeHears l member cause).mem.wf = true := by
  unfold State.homeHears
  dsimp only
  repeat' split
  all_goals simp [h]

@[simp] theorem State.tellGang_wf {s : State} (h : s.mem.wf = true) (gang cause : Nat) : (s.tellGang gang cause).mem.wf = true := by
  unfold State.tellGang
  repeat' split
  all_goals simp [h]

@[simp] theorem State.failLaunch_wf {s : State} (h : s.mem.wf = true) (l : Launch) (reason status : Nat) :
    (s.failLaunch l reason status).mem.wf = true := by
  unfold State.failLaunch
  split
  · simp [h]
  · split <;> simp [h]

@[simp] theorem execLaunchCopy_canonical (dev fabdom : Nat) (record : List Byte) (gang : Nat) {s : State} (h : s.mem.wf = true) :
    NextCanonical (execLaunchCopy dev fabdom record gang s) := by
  unfold execLaunchCopy
  split
  · simp [h]
  · split <;> simp [h]

@[simp] theorem execMemberReport_canonical (launch member cause : Nat) {s : State} (h : s.mem.wf = true) :
    NextCanonical (execMemberReport launch member cause s) := by
  unfold execMemberReport
  split <;> simp [h]

@[simp] theorem execGangTickNotice_canonical (launch tick : Nat) {s : State} (h : s.mem.wf = true) :
    NextCanonical (execGangTickNotice launch tick s) := by
  unfold execGangTickNotice
  split <;> simp [h]

@[simp] theorem execLaunchDiscard_canonical (launch : Nat) {s : State} (h : s.mem.wf = true) :
    NextCanonical (execLaunchDiscard launch s) := by
  unfold execLaunchDiscard
  split <;> simp [h]

@[simp] theorem State.fillStall_wf {s : State} (h : s.mem.wf = true) (dev : Nat) (x : Stall) (src : Option (Nat × Nat)) :
    (s.fillStall dev x src).mem.wf = true := by
  have hc := Memory.clear_wf _ x.phys (64 * x.len) h
  unfold State.fillStall
  split
  · exact hc
  · exact State.storeMarked_wf (State.takePackets_wf (scan_wf (State.takePackets_wf hc ..) ..) ..) ..

@[simp] theorem State.placeEmpty_wf {s : State} (h : s.mem.wf = true) (l : Launch) (wave : Nat) :
    (s.placeEmpty l wave).mem.wf = true := by
  unfold State.placeEmpty
  split <;> simp [h]

@[simp] theorem rentEntry_st_wf (l : Launch) (img i n : Nat) {p : Placing} (h : p.st.mem.wf = true) :
    (rentEntry l img i n p).st.mem.wf = true := by
  unfold rentEntry
  dsimp only
  repeat' split
  all_goals simp [h]

/-- A property of placings that every rent keeps is kept by the rents of a list. -/
theorem foldl_placing_wf {α : Type} {f : Placing → α → Placing} (hf : ∀ p x, p.st.mem.wf = true → (f p x).st.mem.wf = true)
    (l : List α) {p : Placing} (h : p.st.mem.wf = true) : (l.foldl f p).st.mem.wf = true := by
  induction l generalizing p with
  | nil => exact h
  | cons x l ih => exact ih (hf p x h)

@[simp] theorem rentWave_st_wf {s : State} (h : s.mem.wf = true) (l : Launch) (img wave : Nat) (cores : List Nat) :
    (rentWave s l img wave cores).st.mem.wf = true := by
  refine foldl_placing_wf (fun p i hp => foldl_placing_wf (fun q n hq => rentEntry_st_wf _ _ _ _ hq) _ hp) _ ?_
  split
  · exact foldl_placing_wf (fun p i hp => rentEntry_st_wf _ _ _ _ hp) _ h
  · exact h

@[simp] theorem State.placeWaveOn_wf {s : State} (h : s.mem.wf = true) (l : Launch) (wave : Nat) (units : List (Nat × Nat × Nat × Nat)) :
    (s.placeWaveOn l wave units).mem.wf = true := by
  unfold State.placeWaveOn
  split
  · simp [h]
  · dsimp only
    split
    · simp [h]
    · exact foldl_wf (fun t n ht => by simp [ht]) _ (by simp [h])

@[simp] theorem State.placeHeads_wf (f : Nat) {s : State} (h : s.mem.wf = true) (dev p : Nat) :
    (State.placeHeads f s dev p).mem.wf = true := by
  induction f generalizing s with
  | zero => exact h
  | succ f ih =>
    unfold State.placeHeads
    split
    · exact h
    · split
      · exact ih (by simp [h])
      · split
        · exact h
        · exact ih (by simp [h])

@[simp] theorem State.placeWaves_wf {s : State} (h : s.mem.wf = true) (dev p : Nat) : (s.placeWaves dev p).mem.wf = true := by
  refine foldl_wf (fun t l ht => ?_) _ h
  repeat' split
  all_goals simp [ht]

@[simp] theorem State.requestPreempt_wf {s : State} (h : s.mem.wf = true) (l : Launch) : (s.requestPreempt l).mem.wf = true := by
  simp only [State.requestPreempt]
  split <;> simp +contextual [h, foldl_wf]

@[simp] theorem State.preemptPaddock_wf {s : State} (h : s.mem.wf = true) (dev p : Nat) : (s.preemptPaddock dev p).mem.wf = true := by
  simp +contextual [State.preemptPaddock, foldl_wf, h]

@[simp] theorem execSnapshotWaitExpiry_canonical {s : State} (h : s.mem.wf = true) : NextCanonical (execSnapshotWaitExpiry s) := by
  simp only [execSnapshotWaitExpiry]
  split <;> simp [h]

@[simp] theorem State.putRowsBack_wf {s : State} (h : s.mem.wf = true) (rows : List (Nat × List Byte × List Nat)) :
    (s.putRowsBack rows).mem.wf = true := by
  simp +contextual [State.putRowsBack, foldl_wf, h]

@[simp] theorem State.saveCore_wf {s : State} (h : s.mem.wf = true) (n : Nat) : (s.saveCore n).mem.wf = true := by
  simp +contextual [State.saveCore, foldl_wf, h]

@[simp] theorem execPreemptionHalt_canonical {s : State} (h : s.mem.wf = true) : NextCanonical (execPreemptionHalt s) := by
  unfold execPreemptionHalt
  dsimp only
  repeat' split
  all_goals simp [h]

@[simp] theorem State.replayRest_wf (n f : Nat) {s : State} (h : s.mem.wf = true) : (State.replayRest n f s).mem.wf = true := by
  induction f generalizing s with
  | zero => exact h
  | succ f ih =>
    simp only [State.replayRest]
    split
    · split
      · exact ih (by simp [h])
      · simp [h]
    · simp [h]

@[simp] theorem State.replayPlanes_wf {s : State} (h : s.mem.wf = true) (n : Nat) : (s.replayPlanes n).mem.wf = true := by
  simp [State.replayPlanes, h]

@[simp] theorem State.closeTable_mem (s : State) (n : Nat) : (s.closeTable n).mem = s.mem := by
  unfold State.closeTable
  dsimp only
  repeat' split
  all_goals simp

@[simp] theorem State.fillLeanTo_wf {s : State} (h : s.mem.wf = true) (n launch : Nat) : (s.fillLeanTo n launch).mem.wf = true := by
  exact foldl_wf (fun t x ht => State.fillSlot_wf ht x) _ h

@[simp] theorem State.restoreCore_wf {s : State} (h : s.mem.wf = true) (l : Launch) (n : Nat) : (s.restoreCore l n).mem.wf = true := by
  unfold State.restoreCore
  split
  · exact h
  · next x _ =>
    have hp := State.putRowsBack_wf
      (State.readImage_wf (State.settleTransit_wf (State.fillLeanTo_wf h n l.id) n) l n false) x.acc
    dsimp only
    rw [State.closeTable_mem]
    refine State.replayPlanes_wf ?_ n
    rw [foldl_mem fun t e => by rfl]
    exact hp

@[simp] theorem execLaunchResume_canonical {s : State} (h : s.mem.wf = true) : NextCanonical (execLaunchResume s) := by
  unfold execLaunchResume
  dsimp only
  repeat' split
  all_goals simp +contextual [h, foldl_wf]

@[simp] theorem State.settleBudgets_wf {s : State} (h : s.mem.wf = true) (p : Nat) : (s.settleBudgets p).mem.wf = true := by
  simp +contextual [State.settleBudgets, foldl_wf, h]

@[simp] theorem State.yardPaddock_wf {s : State} (h : s.mem.wf = true) (p : Nat) : (s.yardPaddock p).mem.wf = true := by
  delta State.yardPaddock
  extract_lets s1 old new s2 s3 s4
  have h3 : s3.mem.wf = true := by
    have h2 : s1.mem.wf = true := State.settleBudgets_wf h p
    dsimp only [s3]
    split
    · exact h2
    · rw [foldl_mem fun t n => by simp]
      exact h2
  clear_value s3 old new
  have h4 : s4.mem.wf = true := by
    dsimp only [s4]
    split
    · split <;> simp [h3]
    · exact h3
  split
  · split
    · exact h4
    · exact State.placeWaves_wf (State.placeHeads_wf _ h4 ..) ..
  · exact h4

@[simp] theorem execYardmasterBoundary_canonical {s : State} (h : s.mem.wf = true) : NextCanonical (execYardmasterBoundary s) := by
  unfold execYardmasterBoundary
  split
  · simp [h]
  · split <;> simp +contextual [h, foldl_wf]

@[simp] theorem State.startLeaves_wf {s : State} (h : s.mem.wf = true) (l : Launch) : (s.startLeaves l).mem.wf = true := by
  simp +contextual [State.startLeaves, foldl_wf, h]

@[simp] theorem execGangTick_canonical {s : State} (h : s.mem.wf = true) : NextCanonical (execGangTick s) := by
  unfold execGangTick
  dsimp only
  repeat' split
  all_goals simp [h]

@[simp] theorem execWaveEnd_canonical {s : State} (h : s.mem.wf = true) : NextCanonical (execWaveEnd s) := by
  unfold execWaveEnd
  dsimp only
  repeat' split
  all_goals simp [h]

@[simp] theorem State.homeEnds_wf {s : State} (h : s.mem.wf = true) (l : Launch) : (s.homeEnds l).mem.wf = true := by
  unfold State.homeEnds
  dsimp only
  repeat' split
  all_goals simp [h]

@[simp] theorem execLaunchEnd_canonical {s : State} (h : s.mem.wf = true) : NextCanonical (execLaunchEnd s) := by
  unfold execLaunchEnd
  dsimp only
  repeat' split
  all_goals simp [h]

@[simp] theorem State.dropUnit_mem (s : State) (launch n : Nat) : (s.dropUnit launch n).mem = s.mem := by
  unfold State.dropUnit
  split <;> rfl

@[simp] theorem execCoreRelease_canonical {s : State} (h : s.mem.wf = true) : NextCanonical (execCoreRelease s) := by
  simp only [execCoreRelease]
  split <;> simp [h]

@[simp] theorem State.skipSlots_wf {s : State} (h : s.mem.wf = true) (i p dev n : Nat) : (s.skipSlots i p dev n).mem.wf = true := by
  simp only [State.skipSlots]
  split <;> simp +contextual [h, foldl_wf]

@[simp] theorem State.enqueueSlot_wf {s : State} (h : s.mem.wf = true) (i : Nat) (bs : List Byte) (t : TTSlot) :
    (s.enqueueSlot i bs t).mem.wf = true := by
  simp [State.enqueueSlot, h]

@[simp] theorem State.serveSlots_wf {s : State} (h : s.mem.wf = true) (i p : Nat) (bs : List Byte) :
    (s.serveSlots i p bs).mem.wf = true := by
  unfold State.serveSlots
  dsimp only
  repeat' split
  all_goals simp [h]

@[simp] theorem execTimeTriggeredSlot_canonical (slot : Nat) {s : State} (h : s.mem.wf = true) :
    NextCanonical (execTimeTriggeredSlot slot s) := by
  unfold execTimeTriggeredSlot
  repeat' split
  all_goals simp [h]

@[simp] theorem execDeferredSlotEnqueue_canonical (slot : Nat) {s : State} (h : s.mem.wf = true) :
    NextCanonical (execDeferredSlotEnqueue slot s) := by
  unfold execDeferredSlotEnqueue
  repeat' split
  all_goals simp [h]

@[simp] theorem execPartitionRelease_canonical (dev : Nat) {s : State} (h : s.mem.wf = true) :
    NextCanonical (execPartitionRelease dev s) := by
  simp +contextual [execPartitionRelease, foldl_wf, h]

/-! ### Writes from outside the bundles -/

@[simp] theorem State.topup_mem (s : State) (dev acct : Nat) (amount : Word) : (s.topup dev acct amount).mem = s.mem := by
  unfold State.topup
  split <;> rfl

@[simp] theorem execTopupWrite_canonical (dev acct : Nat) (amount : Word) {s : State} (h : s.mem.wf = true) :
    NextCanonical (execTopupWrite dev acct amount s) := by
  simp [execTopupWrite, h]

@[simp] theorem State.invalidate_mem (s : State) (dev : Nat) (page : Option Nat) (value : Word) :
    (s.invalidate dev page value).mem = s.mem := rfl

@[simp] theorem execPtinvPage_canonical (dev : Nat) (va : Word) {s : State} (h : s.mem.wf = true) :
    NextCanonical (execPtinvPage dev va s) := by
  simp [execPtinvPage, h]

@[simp] theorem execPtinvAll_canonical (dev : Nat) {s : State} (h : s.mem.wf = true) : NextCanonical (execPtinvAll dev s) := by
  simp [execPtinvAll, h]

@[simp] theorem execPtinvComplete_canonical {s : State} (h : s.mem.wf = true) : NextCanonical (execPtinvComplete s) := by
  simp only [execPtinvComplete]
  split <;> simp [h]

@[simp] theorem State.resvWrite_mem (s : State) (dev : Nat) (value : Word) : (s.resvWrite dev value).mem = s.mem := rfl

@[simp] theorem execResvWrite_canonical (dev : Nat) (value : Word) {s : State} (h : s.mem.wf = true) :
    NextCanonical (execResvWrite dev value s) := by
  simp [execResvWrite, h]

@[simp] theorem State.vdctlWrite_mem (s : State) (dev : Nat) (value : Word) : (s.vdctlWrite dev value).mem = s.mem := rfl

@[simp] theorem execVdctlWrite_canonical (dev : Nat) (value : Word) {s : State} (h : s.mem.wf = true) :
    NextCanonical (execVdctlWrite dev value s) := by
  simp [execVdctlWrite, h]

@[simp] theorem State.dtbaseWrite_mem (s : State) (dev : Nat) (value : Word) : (s.dtbaseWrite dev value).mem = s.mem := rfl

@[simp] theorem execDtbaseWrite_canonical (dev : Nat) (value : Word) {s : State} (h : s.mem.wf = true) :
    NextCanonical (execDtbaseWrite dev value s) := by
  simp [execDtbaseWrite, h]

@[simp] theorem State.ctxctlResume_mem (s : State) (ctx : Nat) (ring : CRing) (skip : Bool) :
    (s.ctxctlResume ctx ring skip).mem = s.mem := by
  simp only [State.ctxctlResume]
  split <;> simp [apply_ite State.mem]

@[simp] theorem execCtxctlResumeUser_canonical (ctx : Nat) (skip : Bool) {s : State} (h : s.mem.wf = true) :
    NextCanonical (execCtxctlResumeUser ctx skip s) := by
  simp [execCtxctlResumeUser, h]

@[simp] theorem execCtxctlResumeDriver_canonical (ctx : Nat) (skip : Bool) {s : State} (h : s.mem.wf = true) :
    NextCanonical (execCtxctlResumeDriver ctx skip s) := by
  simp [execCtxctlResumeDriver, h]

@[simp] theorem State.ctxctlEnd_mem (s : State) (ctx : Nat) : (s.ctxctlEnd ctx).mem = s.mem := by
  simp only [State.ctxctlEnd]
  split <;> simp [apply_ite State.mem]

@[simp] theorem execCtxctlEndLeaf_canonical (ctx : Nat) {s : State} (h : s.mem.wf = true) : NextCanonical (execCtxctlEndLeaf ctx s) := by
  simp [execCtxctlEndLeaf, h]

@[simp] theorem State.bankWrite_mem (s : State) (n : Nat) (value : Word) : (s.bankWrite n value).mem = s.mem := by
  simp only [State.bankWrite]
  split <;> simp

@[simp] theorem execCoderateWrite_canonical (reg : Nat) (value : Word) {s : State} (h : s.mem.wf = true) :
    NextCanonical (execCoderateWrite reg value s) := by
  simp [execCoderateWrite, h]

@[simp] theorem execLosstmoWrite_canonical (value : Word) {s : State} (h : s.mem.wf = true) :
    NextCanonical (execLosstmoWrite value s) := by
  simp [execLosstmoWrite, h]

@[simp] theorem State.pwrcapWrite_mem (s : State) (value : Word) : (s.pwrcapWrite value).mem = s.mem := by
  simp [State.pwrcapWrite, apply_ite State.mem]

@[simp] theorem execPwrcapWrite_canonical (value : Word) {s : State} (h : s.mem.wf = true) : NextCanonical (execPwrcapWrite value s) := by
  simp [execPwrcapWrite, h]

@[simp] theorem State.attRequest_mem (s : State) : s.attRequest.mem = s.mem := by unfold State.attRequest; split <;> rfl
@[simp] theorem execAttreq_canonical {s : State} (h : s.mem.wf = true) : NextCanonical (execAttreq s) := by simp [execAttreq, h]
@[simp] theorem State.warn_mem (s : State) : s.warn.mem = s.mem := by unfold State.warn; split <;> rfl
@[simp] theorem execBowarn_canonical {s : State} (h : s.mem.wf = true) : NextCanonical (execBowarn s) := by simp [execBowarn, h]
@[simp] theorem execShedreq_canonical {s : State} (h : s.mem.wf = true) : NextCanonical (execShedreq s) := by simp [execShedreq, h]
@[simp] theorem State.ctxctl_mem (s : State) (v : Nat) : (s.ctxctl v).mem = s.mem := by unfold State.ctxctl; split <;> simp

@[simp] theorem State.regWrite_mem (s : State) (n : Nat) (value : Word) : (s.regWrite n value).mem = s.mem := by
  simp only [State.regWrite, apply_ite State.mem, State.fabWrite_mem, State.dtbaseWrite_mem, State.invalidate_mem, State.topup_mem,
    State.vdctlWrite_mem, State.resvWrite_mem, State.bankWrite_mem, State.ctxctl_mem, State.pwrcapWrite_mem, State.attRequest_mem,
    State.warn_mem, State.modDev_mem, ite_self]
  cases migctlDie n <;> simp

@[simp] theorem State.vfWrite_mem (s : State) (dev n : Nat) (value : Word) : (s.vfWrite dev n value).mem = s.mem := by
  unfold State.vfWrite
  split <;> rfl

@[simp] theorem execRegisterWrite_canonical (reg : HostReg) (value : Word) {s : State} (h : s.mem.wf = true) :
    NextCanonical (execRegisterWrite reg value s) := by
  unfold execRegisterWrite
  split <;> simp [h]

@[simp] theorem execEventRingRecord_canonical (dev : Nat) (hyp : Bool) (record : List Byte) {s : State} (h : s.mem.wf = true) :
    NextCanonical (execEventRingRecord dev hyp record s) := by
  unfold execEventRingRecord
  split <;> simp [h]

/-! ### Boot, attestation and the shed state -/

@[simp] theorem State.extend_mem (s : State) (i : Nat) (digest : List Byte) : (s.extend i digest).mem = s.mem := rfl

@[simp] theorem execMeasurementExtend_canonical (reg : Nat) (digest : List Byte) {s : State} (h : s.mem.wf = true) :
    NextCanonical (execMeasurementExtend reg digest s) := by
  unfold execMeasurementExtend
  split <;> simp [h]

@[simp] theorem State.bootStages_mem (f : Nat) (s : State) (n : Nat) : (State.bootStages f s n).mem = s.mem := by
  induction f generalizing s n with
  | zero => rfl
  | succ f ih =>
    rw [State.bootStages]
    split
    · rw [ih, State.extend_mem]
    · rfl

@[simp] theorem State.train_mem (s : State) : s.train.mem = s.mem := rfl

@[simp] theorem execPackageReset_canonical (s : State) : NextCanonical (execPackageReset s) := by
  simp only [execPackageReset]
  split <;> simp <;> rfl

theorem resetAhead_mem {s t : State} (e : resetAhead s = some t) : t.mem = s.mem := by
  unfold resetAhead at e
  split at e
  · cases e; rfl
  · cases e

@[simp] theorem execAttestationComplete_canonical {s : State} (h : s.mem.wf = true) : NextCanonical (execAttestationComplete s) := by
  unfold execAttestationComplete
  dsimp only
  repeat' split
  all_goals simp [h]

@[simp] theorem State.unshedCore_wf {s : State} (h : s.mem.wf = true) (n : Nat) : (s.unshedCore n).mem.wf = true := by
  simp only [State.unshedCore]
  split <;> simp [h]

@[simp] theorem State.missSlots_mem (s : State) (first last : Nat) : (s.missSlots first last).mem = s.mem := by
  refine foldl_mem (fun t i => ?_) _ _
  split <;> rfl

@[simp] theorem State.shedExit_wf {s : State} (h : s.mem.wf = true) : s.shedExit.mem.wf = true := by
  simp +contextual [State.shedExit, foldl_wf, h]

@[simp] theorem execShedFreeze_canonical {s : State} (h : s.mem.wf = true) : NextCanonical (execShedFreeze s) := by
  simp only [execShedFreeze]
  split
  · simp [h]
  · split <;> simp [h]

@[simp] theorem execPwrok_canonical {s : State} (h : s.mem.wf = true) : NextCanonical (execPwrok s) := by
  unfold execPwrok
  split <;> simp [h]

/-! ### Every instruction -/

/-- A syllable standing alone does what it does in a bundle. -/
theorem exec_eq_finishSlot {i : Instr} {sl : Slot} (hs : i.slot = some sl) (s : State) :
    exec i s = finishSlot sl s (slotExec i s) := by
  cases i <;> cases hs <;> rfl

theorem exec_slot_canonical {i : Instr} {sl : Slot} (hs : i.slot = some sl) {s : State} (h : s.mem.wf = true) :
    NextCanonical (exec i s) := by
  rw [exec_eq_finishSlot hs]
  exact finishSlot_canonical sl h (slotExec_canonical i h)

/-- Every instruction and every step of the package keeps the canonical form. -/
theorem exec_canonical (i : Instr) {s : State} (h : s.mem.wf = true) : NextCanonical (exec i s) := by
  cases i
  case bundleIssue | writeLanding | transferEffect | nearAccessPerform | trapEntry | microEnd | microLoop | endl | ldst | swap |
      strm | wcfg | microZero | drn | drnq | drnx | prot | post | accumulatorAdd | routineStart | routineTimingFailure |
      routineEngineEnding | routineHalted | drainSlot | mloadComplete | commandTranslation | walkComplete | transferStart |
      timedStartFailure | badparamRecord | groupCommandStart | packetPerform | packetReply | enginePortAccess | decodePage |
      groupCommandComplete | tackCommandStart | tackCommandComplete | fragmentSend | fragmentArrival | receiveDecodeEnd | messageLost
      | heldMessageDiscard | gsendDeadline | grecvWaitExpiry | deliveryNotice | finalLossNotice | heldNotice | resendNotice |
      abandonNotice | reductionTimeout | gredDeadline | timetableInstanceStart | timetableSendEntry | timetableConsumeDeadline |
      timetableInstanceEnd | tickBoundary | stallLapse | overstayCharge | stallReclaim | reclaimScrub | storageReturn |
      sharedStoreCommit | realignRelease | heatHalving | migrationChoice | migrationSwitch | rowMitigation | yardmasterBoundary |
      gangTick | snapshotWaitExpiry | preemptionHalt | launchResume | waveEnd | launchEnd | coreRelease | launchCopy | memberReport |
      gangTickNotice | hostWake | wakeRefill | timeTriggeredSlot | deferredSlotEnqueue | topupWrite | ptinvPage | ptinvAll |
      ptinvComplete | resvWrite | vdctlWrite | dtbaseWrite | ctxctlResumeUser | ctxctlResumeDriver | ctxctlEndLeaf | coderateWrite |
      losstmoWrite | pwrcapWrite | registerWrite | eventRingRecord | attreq | attestationComplete | measurementExtend | packageReset |
      bowarn | shedreq | shedFreeze | pwrok | collectiveOrderNotice | engineInternalError | partitionRelease | launchDiscard =>
    dsimp only [exec]
    simp [h]
  all_goals exact exec_slot_canonical rfl h

/-! ### The phases of a cycle -/

@[simp] theorem State.takeInputs_mem (s : State) (wakes : Bool) : (s.takeInputs wakes).mem = s.mem := rfl

@[simp] theorem State.countRuntime_wf {s : State} (h : s.mem.wf = true) : s.countRuntime.mem.wf = true := by
  simp +contextual [State.countRuntime, foldl_wf, h]

@[simp] theorem State.closeCycle_wf {s : State} (h : s.mem.wf = true) : s.closeCycle.mem.wf = true := by
  delta State.closeCycle
  split
  · split <;> exact h
  · extract_lets s1 s2 s3
    have h1 : s1.mem.wf = true := foldl_wf (fun t n ht => by simp [ht]) _ h
    have h2 : s2.mem.wf = true := foldl_wf (fun t r ht => by simp [ht]) _ h1
    have h3 : s3.mem.wf = true := State.countRuntime_wf (foldl_wf (fun t n ht => by simp [ht]) _ h2)
    exact h3

@[simp] theorem State.keepPrior_mem (s : State) : s.keepPrior.mem = s.mem := rfl

@[simp] theorem State.badMicro_mem (s : State) (n : Nat) : (s.badMicro n).mem = s.mem := by
  unfold State.badMicro
  repeat' split
  all_goals rfl

@[simp] theorem State.openPhase_wf {s : State} (h : s.mem.wf = true) : s.openPhase.mem.wf = true := by
  unfold State.openPhase
  repeat' split
  all_goals simp [h, foldl_mem]

@[simp] theorem State.endPhase_wf {s : State} (h : s.mem.wf = true) : s.endPhase.mem.wf = true := by
  unfold State.endPhase
  split
  · simp [h]
  · split <;> simp +contextual [h, foldl_wf]

@[simp] theorem State.turn_wf {s : State} (h : s.mem.wf = true) : s.turn.mem.wf = true := by
  unfold State.turn
  dsimp only
  repeat' split
  all_goals simp [h]

/-! ### A step -/

theorem step_canonical {s : State} (h : s.mem.wf = true) : NextCanonical (step s) := by
  unfold step
  split
  · split
    · next t e => exact exec_canonical _ (by rw [resetAhead_mem e]; exact h)
    · exact .fault _
  · split
    · exact exec_canonical _ h
    · exact .next (State.turn_wf h)

/-- Settles O59: no step breaks the canonical form, since memory changes by the operations of `Memory` alone, each of which keeps it. -/
theorem memoryStaysCanonical : Obligations.MemoryStaysCanonical := by
  intro s t h e
  exact nextCanonical_next.1 (e ▸ step_canonical h)

end Sys2Proof.Machine

/-!
SUPPORT. Control registers: the checks of `csrr` and `csrw`, what a `csrw` that lands alone leaves in each register, and what a `csrr`
reads at the beginning of a cycle.
-/
namespace Sys2Proof.Machine

/-! ### The checks (R260, R121) -/

theorem csrCheck_of_not_assigned {r : CRing} {n : Nat} (h : csrAssigned n = false) : csrCheck r n = some 0x02 := by
  simp [csrCheck, h]

theorem csrCheck_of_ring_lt {r : CRing} {n : Nat} (h : csrAssigned n = true) (hr : ringNat r < csrRing n) :
    csrCheck r n = some 0x04 := by
  simp [csrCheck, h, hr]

theorem csrCheck_of_ring_le {r : CRing} {n : Nat} (h : csrAssigned n = true) (hr : csrRing n ≤ ringNat r) :
    csrCheck r n = none := by
  simp [csrCheck, h, hr]

/-- R408: number n is a counter of the context whose event its device does not allow. -/
def counterDenied (s : State) (n : Nat) : Prop := 0x034 ≤ n ∧ n ≤ 0x037 ∧ pmDenied s s.me (n - 0x034) = true

/-- The model's own test of it. -/
theorem denied_eq_true {s : State} {n : Nat} (h : counterDenied s n) :
    (decide (0x034 ≤ n) && decide (n ≤ 0x037) && pmDenied s s.me (n - 0x034)) = true := by
  simpa [counterDenied, and_assoc] using h

theorem denied_eq_false {s : State} {n : Nat} (h : ¬ counterDenied s n) :
    (decide (0x034 ≤ n) && decide (n ≤ 0x037) && pmDenied s s.me (n - 0x034)) = false := by
  simpa [counterDenied] using h

theorem csrRead_of_denied {s : State} {n : Nat} (h : counterDenied s n) : csrRead s s.cur n = 0 := by
  obtain ⟨hlo, hhi, hden⟩ := h
  have hden' : pmDenied s (s.ctx s.cur) (n - 0x034) = true := hden
  interval_cases n <;> simp_all [csrRead]

/-- The write that a `csrw` schedules. -/
def csrwPend (sl : SSlot) (a : XNum) (s : State) (n : Nat) : Pend :=
  mkPend s.me sl.slot 1 (.csr n) (ones 64) (s.me.xr a).toNat

section Checks
variable (sl : SSlot) (d a : XNum) {n : BitVec 12} {s : State}

theorem exec_csrr : exec (.csrr sl d n) s = finishSlot sl.slot s (slotCsrr sl d n s) := rfl

theorem exec_csrw : exec (.csrw sl n a) s = finishSlot sl.slot s (slotCsrw sl n a s) := rfl

theorem exec_csr_of_check_fails {code : Nat} (h : csrCheck s.me.ring n.toNat = some code) :
    exec (.csrr sl d n) s = .next (trapped sl.slot code 0 s) ∧ exec (.csrw sl n a) s = .next (trapped sl.slot code 0 s) := by
  constructor
  · rw [exec_csrr]; unfold slotCsrr; rw [h]; rfl
  · rw [exec_csrw]; unfold slotCsrw; rw [h]; rfl

theorem exec_csrr_of_denied (h : csrCheck s.me.ring n.toNat = none) (hden : counterDenied s n.toNat) :
    exec (.csrr sl d n) s = .next (s.sched [mkPend s.me sl.slot 1 (.x d.toNat) (ones 64) 0,
      mkPend s.me sl.slot 1 (sPort sl) (ones 64) 0, mkPend s.me sl.slot 1 .denied 1 1]) := by
  have hread := csrRead_of_denied hden
  rw [exec_csrr]
  unfold slotCsrr
  rw [h]
  simp only [hread, denied_eq_true hden]
  cases sl <;> rfl

theorem exec_csrw_of_denied (h : csrCheck s.me.ring n.toNat = none) (hden : counterDenied s n.toNat) :
    exec (.csrw sl n a) s = .next s := by
  rw [exec_csrw]
  unfold slotCsrw
  rw [h]
  simp only [denied_eq_true hden]
  rfl

theorem exec_csrr_of_allowed (h : csrCheck s.me.ring n.toNat = none) (hden : ¬ counterDenied s n.toNat) :
    exec (.csrr sl d n) s = .next (s.sched [mkPend s.me sl.slot 1 (.x d.toNat) (ones 64) (csrRead s s.cur n.toNat).toNat,
      mkPend s.me sl.slot 1 (sPort sl) (ones 64) (csrRead s s.cur n.toNat).toNat]) := by
  rw [exec_csrr]
  unfold slotCsrr
  rw [h]
  simp only [denied_eq_false hden]
  cases sl <;> rfl

theorem exec_csrw_of_allowed (h : csrCheck s.me.ring n.toNat = none) (hden : ¬ counterDenied s n.toNat) :
    exec (.csrw sl n a) s = .next (s.sched [csrwPend sl a s n.toNat]) := by
  rw [exec_csrw]
  unfold slotCsrw
  rw [h]
  simp only [denied_eq_false hden]
  rfl

end Checks

/-! ### A `csrw` that lands with no other write under way -/

theorem landingOrder_singleton (p : Pend) : landingOrder [p] = [p] := by
  have h : prevails [p] p = true := by simp [prevails, Pend.beats]
  simp [landingOrder, h, insertRank]

/-- The state in which the write of a `csrw` lands: the next bundle, nothing pending. -/
def csrwLands (s : State) (ps : List Pend) : State :=
  ((s.sched ps).modCtx s.cur fun c => { c with bundle := c.bundle + 1 }).setCtx s.cur { s.me with bundle := s.me.bundle + 1 }

@[simp] theorem ctx_csrwLands (s : State) (ps : List Pend) :
    (csrwLands s ps).ctx s.cur = { s.me with bundle := s.me.bundle + 1 } :=
  State.ctx_setCtx_self _ _ _

@[simp] theorem cur_csrwLands (s : State) (ps : List Pend) : (csrwLands s ps).cur = s.cur := by simp [csrwLands]
@[simp] theorem losstmo_csrwLands (s : State) (ps : List Pend) : (csrwLands s ps).losstmo = s.losstmo := by simp [csrwLands]
@[simp] theorem coderate_csrwLands (s : State) (ps : List Pend) : (csrwLands s ps).coderate = s.coderate := by simp [csrwLands]

section Lands
variable (sl : SSlot) (a : XNum) {s : State} (n : Nat)

/-- The state at the next bundle after a `csrw` of number n that is not denied. -/
def afterCsrw (sl : SSlot) (a : XNum) (s : State) (n : Nat) : State := laterBundle (s.sched [csrwPend sl a s n]) 1

theorem afterCsrw_eq (h : s.me.pend = []) :
    afterCsrw sl a s n = (csrwLands s [csrwPend sl a s n]).csrLand s.cur n (s.me.xr a).toNat := by
  have hdue : ([csrwPend sl a s n].filter fun p => p.land ≤ s.me.bundle + 1) = [csrwPend sl a s n] := by
    simp [csrwPend, mkPend]
  have hrest : ([csrwPend sl a s n].filter fun p => s.me.bundle + 1 < p.land) = [] := by simp [csrwPend, mkPend]
  have hme : (s.sched [csrwPend sl a s n]).ctx s.cur = s.me.addPend [csrwPend sl a s n] := State.me_sched s _
  have hctx : ({ s.me with pend := [] } : Ctx) = s.me := by rw [← h]
  rw [afterCsrw, later_eq, h, List.nil_append, hdue, hrest, landingOrder_singleton, State.ctx_modCtx_self, hme, csrwLands, ← hctx]
  rfl

theorem cur_csrLand (t : State) (key v : Nat) : (t.csrLand key n v).cur = t.cur :=
  cur_landOne key t { land := 0, slot := 0, seq := 0, tgt := .csr n, mask := 0, val := v }

theorem me_afterCsrw (h : s.me.pend = []) (hpkg : ¬ (0x400 ≤ n ∧ n ≤ 0x409)) (himg : n ≠ 0x41A) :
    (afterCsrw sl a s n).me = { s.me with bundle := s.me.bundle + 1 }.csrLand n (s.me.xr a).toNat := by
  rw [afterCsrw_eq sl a n h, State.me, cur_csrLand, cur_csrwLands, State.csrLand, if_neg hpkg, if_neg himg, State.ctx_setCtx_self,
    ctx_csrwLands]

theorem dhimg_afterCsrw (h : s.me.pend = []) : ((afterCsrw sl a s 0x41A).dev s.me.dev).dhimg = s.me.xr a := by
  rw [afterCsrw_eq sl a _ h, State.csrLand, if_neg (by decide), if_pos rfl, ctx_csrwLands, State.dev_modCtx,
    State.dev_setDev_self, Device.withImage, BitVec.ofNat_toNat, BitVec.setWidth_eq]

theorem losstmo_fabWrite (t : State) (w : Word) :
    (t.fabWrite 0x408 w).losstmo = if w.toNat % 2 ^ 8 = 0 then t.losstmo else w.toNat % 2 ^ 8 := by
  simp only [State.fabWrite, natField, pow_zero, Nat.div_one]
  split
  · contradiction
  · simp only [if_true]
    split <;> rfl

theorem losstmo_afterCsrw (h : s.me.pend = []) :
    (afterCsrw sl a s 0x408).losstmo = if (s.me.xr a).toNat % 2 ^ 8 = 0 then s.losstmo else (s.me.xr a).toNat % 2 ^ 8 := by
  rw [afterCsrw_eq sl a _ h, State.csrLand, if_pos (by decide), BitVec.ofNat_toNat, BitVec.setWidth_eq, State.modCtx_losstmo,
    losstmo_fabWrite, losstmo_csrwLands]

/-- R200: CODERATE of a class after a write; a value outside the limits is ignored whole. -/
theorem coderateWrite_eq (old w : Word) :
    coderateWrite old w =
      let k := w.toNat % 2 ^ 5
      let m := w.toNat / 2 ^ 8 % 2 ^ 4
      let p := w.toNat / 2 ^ 16 % 2 ^ 5
      if 1 ≤ k ∧ k ≤ 16 ∧ m ≤ 8 ∧ k + m ≤ 24 ∧ 1 ≤ p ∧ p ≤ 16 then
        BitVec.ofNat 64 (k + m * 2 ^ 8 + p * 2 ^ 16 + w.toNat / 2 ^ 24 % 2 * 2 ^ 24)
      else old := by
  unfold coderateWrite coderateWord natField
  rw [pow_zero, Nat.div_one, pow_one]
  extract_lets k m p
  by_cases hok : 1 ≤ k ∧ k ≤ 16 ∧ m ≤ 8 ∧ k + m ≤ 24 ∧ 1 ≤ p ∧ p ≤ 16
  · rw [if_pos hok, if_neg (by simp; omega)]
    congr 1; omega
  · rw [if_neg hok, if_pos (by simp; omega)]

theorem coderate_fabWrite (t : State) (w : Word) {i : Nat} (hi : i < 8) :
    (t.fabWrite (0x400 + i) w).coderate.get 0 i = coderateWrite (t.coderate.get 0 i) w := by
  rw [State.fabWrite, if_pos (by omega), Nat.add_sub_cancel_left]
  exact FMap.get_set_self _ _ _ _

theorem coderate_afterCsrw (h : s.me.pend = []) {i : Nat} (hi : i < 8) :
    (afterCsrw sl a s (0x400 + i)).coderate.get 0 i = coderateWrite (s.coderate.get 0 i) (s.me.xr a) := by
  rw [afterCsrw_eq sl a _ h, State.csrLand, if_pos (by omega), BitVec.ofNat_toNat, BitVec.setWidth_eq, State.modCtx_coderate,
    coderate_fabWrite _ _ hi, coderate_csrwLands]

end Lands

/-! ### What a landing leaves in a register of the context -/

/-- Clearing the set bits of a value in a register of k bits, bit by bit (W1C, R121). -/
theorem testBit_land_ones_sub (f v : Nat) {k i : Nat} (hi : i < k) :
    (Nat.land f (ones k - v % 2 ^ k)).testBit i = (f.testBit i && !v.testBit i) := by
  have hlt : v % 2 ^ k < 2 ^ k := Nat.mod_lt _ (Nat.two_pow_pos k)
  have hsub : ones k - v % 2 ^ k = 2 ^ k - (v % 2 ^ k + 1) := by simp only [ones]; omega
  show (f &&& (ones k - v % 2 ^ k)).testBit i = _
  rw [Nat.testBit_and, hsub, Nat.testBit_two_pow_sub_succ hlt, Nat.testBit_mod_two_pow]
  simp [hi]

section LandRegister
variable (c : Ctx) (w : Word)

theorem flags_csrLand {i : Nat} (hi : i < 6) :
    (c.csrLand 0x009 w.toNat).flags.testBit i = (c.flags.testBit i && !w.getLsbD i) :=
  testBit_land_ones_sub c.flags w.toNat hi

theorem mstat_csrLand {i : Nat} (hi : i < 5) :
    (c.csrLand 0x021 w.toNat).mstat.testBit i = (c.mstat.testBit i && !w.getLsbD i) :=
  testBit_land_ones_sub c.mstat w.toNat hi

theorem pmstat_csrLand : (c.csrLand 0x038 w.toNat).pmstat.testBit 0 = (c.pmstat.testBit 0 && !w.getLsbD 0) :=
  testBit_land_ones_sub c.pmstat w.toNat (k := 1) (by decide)

/-- The W1C bits of WSTAT (R362). -/
theorem getLsbD_wstatBits (i : Nat) :
    (0xF0F0F : Word).getLsbD i = decide (i < 4 ∨ 8 ≤ i ∧ i < 12 ∨ 16 ≤ i ∧ i < 20) := by
  by_cases hi : i < 64
  · interval_cases i <;> rfl
  · rw [BitVec.getLsbD_of_ge _ _ (by omega), eq_comm, decide_eq_false_iff_not]
    omega

theorem wstat_csrLand {i : Nat} (hi : i < 64) :
    (c.csrLand 0x02C w.toNat).wstat.getLsbD i =
      (c.wstat.getLsbD i && !(w.getLsbD i && (i < 4 || 8 ≤ i && i < 12 || 16 ≤ i && i < 20))) := by
  have hland : (c.csrLand 0x02C w.toNat).wstat = c.wstat &&& ~~~(BitVec.ofNat 64 w.toNat &&& 0xF0F0F) := rfl
  rw [hland, BitVec.ofNat_toNat, BitVec.setWidth_eq, BitVec.getLsbD_and, BitVec.getLsbD_not, BitVec.getLsbD_and, getLsbD_wstatBits]
  simp [hi, Bool.and_assoc]

/-- What a `csrw` of a register of each family of four leaves in it. -/
theorem family_csrLand {i : Nat} (hi : i < 4) :
    ((c.csrLand (0x010 + i) w.toNat).lcnt.get 0 i).toNat = w.toNat % 2 ^ 32 + w.toNat / 2 ^ 63 * 2 ^ 63 ∧
    ((c.csrLand (0x014 + i) w.toNat).lbeg.get 0 i).toNat = w.toNat / 2 * 2 ∧
    ((c.csrLand (0x018 + i) w.toNat).lend.get 0 i).toNat = w.toNat / 2 * 2 ∧
    (c.csrLand (0x024 + i) w.toNat).waddr.get 0 i = w ∧
    ((c.csrLand (0x028 + i) w.toNat).wctl.get 0 i).toNat = w.toNat % 2 ^ 5 + w.toNat / 2 ^ 12 % 2 ^ 4 * 2 ^ 12 ∧
    (c.csrLand (0x030 + i) w.toNat).pmev.get 0 i = w.toNat % 2 ^ 8 ∧
    (c.csrLand (0x034 + i) w.toNat).pmcnt.get 0 i = w ∧
    (c.csrLand (0x416 + i) w.toNat).dscr.get 0 i = w := by
  have hw := w.isLt
  have hlcnt : w.toNat % 2 ^ 32 + w.toNat / 2 ^ 63 % 2 * 2 ^ 63 < 2 ^ 64 := by omega
  interval_cases i
  all_goals
    simp [Ctx.csrLand, natField]
    omega

theorem toNat_ofNat_of_le_toNat {m : Nat} (h : m ≤ w.toNat) : (BitVec.ofNat 64 m : Word).toNat = m := by
  rw [BitVec.toNat_ofNat, Nat.mod_eq_of_lt (lt_of_le_of_lt h w.isLt)]

/-- What a `csrw` of a register of the driver's trap bank leaves in it (R385). -/
theorem trapD_csrLand :
    (c.csrLand 0x410 w.toNat).trapD.pc.toNat = w.toNat / 2 * 2 ∧ (c.csrLand 0x411 w.toNat).trapD.mask.toNat = w.toNat % 2 ^ 12 ∧
    (c.csrLand 0x412 w.toNat).trapD.cause.toNat = c.trapD.cause.toNat % 2 ^ 28 + w.toNat / 2 ^ 28 % 2 ^ 4 * 2 ^ 28 ∧
    (c.csrLand 0x413 w.toNat).trapD.addr = w ∧ (c.csrLand 0x414 w.toNat).trapD.xa = w ∧
    (c.csrLand 0x415 w.toNat).trapD.xb = w := by
  have hw := w.isLt
  simp [Ctx.csrLand]
  omega

/-- The read-only registers (R121): nothing changes. -/
theorem csrLand_of_readOnly {n : Nat} (hn : n ∈ ([0x000, 0x001, 0x002, 0x003, 0x020, 0x023] : List Nat)) (v : Nat) :
    c.csrLand n v = c := by
  simp only [List.mem_cons, List.not_mem_nil, or_false] at hn
  obtain rfl | rfl | rfl | rfl | rfl | rfl := hn <;> rfl

end LandRegister

/-! ### What a `csrr` reads at the beginning of a cycle (R260, R401) -/

/-- A map whose keys are renamed one to one and whose values go through g, read at a renamed key. -/
theorem FMap.get_map {α β : Type} (d : α) (j : Nat → Nat) (g : α → β) (hj : Function.Injective j) (m : FMap α) (n : Nat) :
    FMap.get (g d) (m.map fun e => (j e.1, g e.2)) (j n) = g (FMap.get d m n) := by
  induction m with
  | nil => rfl
  | cons e m ih =>
    simp only [List.map_cons, FMap.get, hj.eq_iff, ih]
    split <;> rfl

/-- Entries of other keys in front do not change what a key reads. -/
theorem FMap.get_append_right {α : Type} (d : α) {l : FMap α} (m : FMap α) {n : Nat} (h : ∀ e ∈ l, e.1 ≠ n) :
    FMap.get d (l ++ m) n = FMap.get d m n := by
  induction l with
  | nil => rfl
  | cons e l ih =>
    rw [List.cons_append, FMap.get, if_neg (h e List.mem_cons_self), ih fun x hx => h x (List.mem_cons_of_mem e hx)]

theorem ctx_keepPrior (s : State) (key : Nat) : s.keepPrior.ctx key = (s.ctx key).keepPrior :=
  FMap.get_map ({} : Ctx) id Ctx.keepPrior Function.injective_id s.ctxs key

theorem pkgRegs_coderate (s : State) {i : Nat} (hi : i < 8) : (pkgRegs s).get 0 (0x400 + i) = s.coderate.get 0 i := by
  interval_cases i <;> rfl

theorem pkgRegs_losstmo (s : State) : (pkgRegs s).get 0 0x408 = BitVec.ofNat 64 s.losstmo := rfl

theorem pkgRegs_fabric (s : State) :
    (pkgRegs s).get 0 0x409 = BitVec.ofNat 64 (s.fabBad + s.fabYard * 2 ^ 16 + s.fabLate * 2 ^ 32) := by
  show BitVec.ofNat 64 (s.fabLate * 2 ^ 32 + s.fabYard * 2 ^ 16 + s.fabBad) = _
  congr 1; omega

theorem pkgRegs_mfmt (s : State) (core : Nat) :
    (pkgRegs s).get 0 (0x1000 + core) = BitVec.ofNat 64 (s.core core).eng.mfmt := by
  have hcores := FMap.get_map ({} : Core) (0x1000 + ·) (fun k => (BitVec.ofNat 64 k.eng.mfmt : Word))
    (fun _ _ h => Nat.add_left_cancel h) s.cores core
  rw [pkgRegs, FMap.get_append_right]
  · exact hcores
  · intro e he
    simp only [List.mem_append, List.mem_map, List.mem_range, List.mem_cons, List.not_mem_nil, or_false] at he
    obtain ⟨i, hi, rfl⟩ | rfl | rfl := he <;> simp only <;> omega

section Reads
variable (s : State) (key : Nat)

/-- A package register at the beginning of a cycle. -/
theorem seenReg_keepPrior {n : Nat} (hn : n ≠ 0x41A) : s.keepPrior.seenReg key n = (pkgRegs s).get 0 n := by
  rw [State.seenReg, ctx_keepPrior]
  exact if_neg hn

theorem seenReg_keepPrior_dhimg : s.keepPrior.seenReg key 0x41A = (s.dev (s.ctx key).dev).dhimg := by
  rw [State.seenReg, ctx_keepPrior]
  rfl

theorem coreId_eq (core k : Nat) (elastic : Bool) (hk : k < 4) :
    coreId (4 * core + k) elastic = core + k * 2 ^ 6 + if elastic = true then 2 ^ 8 else 0 := by
  have hmod : (4 * core + k) % 4 = k := by omega
  have hdiv : (4 * core + k) / 4 = core := by omega
  rw [coreId, keyCore, hmod, hdiv, bnat]
  split <;> omega

theorem csrRead_coreid_keepPrior {core k : Nat} (hk : k < 4) :
    csrRead s.keepPrior (4 * core + k) 0x001 =
      BitVec.ofNat 64 (core + k * 2 ^ 6 + if (s.ctx (4 * core + k)).elastic = true then 2 ^ 8 else 0) := by
  rw [← coreId_eq core k _ hk]
  show BitVec.ofNat 64 (coreId _ (s.keepPrior.ctx (4 * core + k)).elastic) = _
  rw [ctx_keepPrior]
  rfl

theorem csrRead_mfmt_keepPrior {core k : Nat} (hk : k < 4) :
    csrRead s.keepPrior (4 * core + k) 0x020 = BitVec.ofNat 64 (s.core core).eng.mfmt := by
  have hdiv : keyCore (4 * core + k) = core := by rw [keyCore]; omega
  show (pkgRegs s).get 0 (0x1000 + keyCore (4 * core + k)) = _
  rw [hdiv, pkgRegs_mfmt]

/-- The registers of a context, as they stand. -/
theorem csrRead_context_keepPrior :
    let c := s.ctx key
    let rd := csrRead s.keepPrior key
    let nat := fun (v : Nat) => (BitVec.ofNat 64 v : Word)
    rd 0x002 = nat c.tstart ∧ rd 0x008 = nat c.round ∧ rd 0x009 = nat c.flags ∧ rd 0x00A = nat c.wgen ∧
    rd 0x01C = nat c.idleRem ∧ rd 0x021 = nat c.mstat ∧ rd 0x022 = nat c.gfmt ∧ rd 0x02C = c.wstat ∧
    rd 0x038 = nat c.pmstat ∧ rd 0x410 = c.trapD.pc ∧ rd 0x411 = c.trapD.mask ∧ rd 0x412 = c.trapD.cause ∧
    rd 0x413 = c.trapD.addr ∧ rd 0x414 = c.trapD.xa ∧ rd 0x415 = c.trapD.xb := by
  simp [csrRead, ctx_keepPrior, Ctx.keepPrior]

/-- The registers of the package and the device but those that `csrw` writes, as they stand. -/
theorem csrRead_system_keepPrior :
    let c := s.ctx key
    let rd := csrRead s.keepPrior key
    let nat := fun (v : Nat) => (BitVec.ofNat 64 v : Word)
    rd 0x000 = nat s.station ∧ rd 0x003 = BitVec.ofInt 64 ((s.dev c.dev).accts.get 0 c.acct) ∧ rd 0x023 = nat s.pkgid ∧
    rd 0x02D = nat (s.shedGap + s.shedCount * 2 ^ 48) ∧ rd 0x02E = nat (s.dev c.dev).runtime := by
  have hprior : s.keepPrior.prior = s.devs := rfl
  have hshed : s.keepPrior.shedCount * 2 ^ 48 + s.keepPrior.shedGap = s.shedGap + s.shedCount * 2 ^ 48 := Nat.add_comm _ _
  refine ⟨rfl, ?_, rfl, ?_, ?_⟩
  · simp [csrRead, ctx_keepPrior, hprior, Ctx.keepPrior, State.dev]
  · exact congrArg (BitVec.ofNat 64) hshed
  · simp [csrRead, ctx_keepPrior, hprior, Ctx.keepPrior, State.dev]

/-- The registers that come in fours, as they stand. -/
theorem csrRead_family_keepPrior {i : Nat} (hi : i < 4) :
    let c := s.ctx key
    let rd := csrRead s.keepPrior key
    rd (0x010 + i) = c.lcnt.get 0 i ∧ rd (0x014 + i) = c.lbeg.get 0 i ∧ rd (0x018 + i) = c.lend.get 0 i ∧
    rd (0x024 + i) = c.waddr.get 0 i ∧ rd (0x028 + i) = c.wctl.get 0 i ∧
    rd (0x030 + i) = (BitVec.ofNat 64 (c.pmev.get 0 i) : Word) ∧ rd (0x416 + i) = c.dscr.get 0 i := by
  interval_cases i <;> simp [csrRead, ctx_keepPrior, Ctx.keepPrior]

/-- R408: a counter reads 0 where the device does not allow its event. -/
theorem csrRead_pmcnt (t : State) {i : Nat} (hi : i < 4) :
    csrRead t key (0x034 + i) = if pmDenied t (t.ctx key) i then 0 else (t.ctx key).pmcnt0.get 0 i := by
  interval_cases i <;> rfl

theorem csrRead_pmcnt_keepPrior {i : Nat} (hi : i < 4) :
    let c := s.ctx key
    csrRead s.keepPrior key (0x034 + i) =
      if ((s.dev c.dev).pmallow.get 0 (c.pmev.get 0 i / 64)).getLsbD (c.pmev.get 0 i % 64) then c.pmcnt.get 0 i else 0 := by
  intro c
  have hden : pmDenied s.keepPrior c.keepPrior i =
      !((s.dev c.dev).pmallow.get 0 (c.pmev.get 0 i / 64)).getLsbD (c.pmev.get 0 i % 64) := rfl
  have hcnt : c.keepPrior.pmcnt0 = c.pmcnt := rfl
  rw [csrRead_pmcnt _ _ hi, ctx_keepPrior, hden, hcnt]
  cases ((s.dev c.dev).pmallow.get 0 (c.pmev.get 0 i / 64)).getLsbD (c.pmev.get 0 i % 64) <;> rfl

/-- The numbers that `csrr` reads through State.seenReg: the package registers and DHIMG. -/
theorem csrRead_seen (t : State) {n : Nat} (hn : 0x400 ≤ n ∧ n ≤ 0x409 ∨ n = 0x41A) : csrRead t key n = t.seenReg key n := by
  obtain hn | rfl := hn
  · obtain ⟨hlo, hhi⟩ := hn
    interval_cases n <;> rfl
  · rfl

theorem csrRead_pkg_keepPrior {n : Nat} (hn : 0x400 ≤ n ∧ n ≤ 0x409) : csrRead s.keepPrior key n = (pkgRegs s).get 0 n := by
  rw [csrRead_seen _ _ (.inl hn), seenReg_keepPrior _ _ (by omega)]

/-! ### Landings of the same cycle (R260) -/

theorem prior_fabWrite (n : Nat) (w : Word) : (s.fabWrite n w).prior = s.prior := by
  unfold State.fabWrite
  repeat' split
  all_goals rfl

theorem priorReg_fabWrite (n : Nat) (w : Word) : (s.fabWrite n w).priorReg = s.priorReg := by
  unfold State.fabWrite
  repeat' split
  all_goals rfl

theorem prior_csrLand (other n v : Nat) : (s.csrLand other n v).prior = s.prior := by
  unfold State.csrLand
  split
  · exact prior_fabWrite _ _ _
  · split <;> rfl

theorem priorReg_csrLand (other n v : Nat) : (s.csrLand other n v).priorReg = s.priorReg := by
  unfold State.csrLand
  split
  · exact priorReg_fabWrite _ _ _
  · split <;> rfl

theorem ctx_csrLand_ne {other : Nat} (n v : Nat) (h : other ≠ key) : (s.csrLand other n v).ctx key = s.ctx key := by
  unfold State.csrLand
  split
  · rw [State.ctx_modCtx_ne _ _ h.symm, State.ctx, State.ctxs_fabWrite, State.ctx]
  · split
    · rw [State.ctx_modCtx_ne _ _ h.symm, State.ctx_setDev]
    · exact State.ctx_setCtx_ne _ _ h.symm

/-- A landing of another context does not show in this one's reads of the package and DHIMG. -/
theorem seenReg_csrLand_ne {other : Nat} (n v m : Nat) (h : other ≠ key) : (s.csrLand other n v).seenReg key m = s.seenReg key m := by
  unfold State.seenReg
  rw [ctx_csrLand_ne _ _ _ _ h, prior_csrLand, priorReg_csrLand]

/-- A context's own landing on DHIMG shows in its reads. -/
theorem seenReg_csrLand_dhimg (v : Nat) : (s.csrLand key 0x41A v).seenReg key 0x41A = BitVec.ofNat 64 v := by
  have hctx : (s.csrLand key 0x41A v).ctx key = (s.ctx key).wroteReg 0x41A (BitVec.ofNat 64 v) := State.ctx_modCtx_self _ _ _
  rw [State.seenReg, hctx]
  rfl

end Reads

/-! ### The obligation -/

/-- The state that the obligation speaks of, by the number as a natural number. -/
theorem laterBundle_csrwPend (sl : SSlot) (a : XNum) {s : State} {n : Nat} (hn : n < 2 ^ 12) :
    laterBundle (s.sched [csrwPend sl a s (BitVec.ofNat 12 n).toNat]) 1 = afterCsrw sl a s n := by
  rw [BitVec.toNat_ofNat, Nat.mod_eq_of_lt hn, afterCsrw]

/-- Settles O5: the checks by `csrCheck`; a `csrw` alone on its way lands as State.csrLand says, on its own register only; and a `csrr`
reads what State.keepPrior kept. -/
theorem controlRegisters : Obligations.ControlRegisters := by
  unfold Obligations.ControlRegisters
  refine ⟨fun sl d a n s => ⟨?_, ?_, ?_⟩, ?_, ?_⟩
  · intro h
    exact exec_csr_of_check_fails sl d a (csrCheck_of_not_assigned h)
  · intro h hr
    exact exec_csr_of_check_fails sl d a (csrCheck_of_ring_lt h hr)
  · intro h hr
    have hcheck := csrCheck_of_ring_le h hr
    split
    · next hden => exact ⟨exec_csrr_of_denied sl d hcheck hden, exec_csrw_of_denied sl a hcheck hden⟩
    · next hden => exact ⟨exec_csrr_of_allowed sl d hcheck hden, exec_csrw_of_allowed sl a hcheck hden⟩
  · intro sl a s hpend
    refine ⟨fun n => s.sched [csrwPend sl a s n.toNat],
      fun n h hr hden => exec_csrw_of_allowed sl a (csrCheck_of_ring_le h hr) hden, ?_⟩
    intro v at_
    have hat {n : Nat} (hn : n < 2 ^ 12) : at_ n = afterCsrw sl a s n := laterBundle_csrwPend sl a hn
    have hme {n : Nat} (hn : n < 0x400 ∨ 0x410 ≤ n ∧ n ≤ 0x419) :
        (at_ n).me = { s.me with bundle := s.me.bundle + 1 }.csrLand n v := by
      rw [hat (by omega), me_afterCsrw sl a n hpend (by omega) (by omega)]
    have hfamily {i : Nat} (hi : i < 4) := family_csrLand { s.me with bundle := s.me.bundle + 1 } (s.me.xr a) hi
    obtain ⟨hpc, hmask, hcause, haddr, hxa, hxb⟩ := trapD_csrLand { s.me with bundle := s.me.bundle + 1 } (s.me.xr a)
    refine ⟨?_, ?_, ?_, ?_, fun i hi => ?_, fun i hi => ?_, ?_, fun i hi => ?_, fun i hi => ?_, ?_, ?_, ?_, ?_, ?_, ?_, ?_, ?_,
      fun i hi => ?_, fun n hn => ?_⟩
    · rw [hme (by decide)]; rfl
    · rw [hme (by decide)]; rfl
    · rw [hme (by decide)]; rfl
    · rw [hme (by decide)]; rfl
    · rw [hme (by decide)]; exact flags_csrLand _ _ hi
    · rw [hme (by decide)]; exact mstat_csrLand _ _ hi
    · rw [hme (by decide)]; exact pmstat_csrLand _ _
    · rw [hme (by decide)]; exact wstat_csrLand _ _ hi
    · rw [hme (by omega), hme (by omega), hme (by omega), hme (by omega), hme (by omega), hme (by omega), hme (by omega),
        hme (by omega)]
      exact hfamily hi
    · rw [hme (by decide)]; exact hpc
    · rw [hme (by decide)]; exact hmask
    · rw [hme (by decide)]; exact hcause
    · rw [hme (by decide)]; exact haddr
    · rw [hme (by decide)]; exact hxa
    · rw [hme (by decide)]; exact hxb
    · rw [hat (by decide)]; exact dhimg_afterCsrw sl a hpend
    · rw [hat (by decide)]; exact losstmo_afterCsrw sl a hpend
    · rw [hat (by omega), coderate_afterCsrw sl a hpend hi, coderateWrite_eq]
    · rw [hme (by fin_cases hn <;> decide), csrLand_of_readOnly _ hn]
  · intro s core k hk c rd nat
    obtain ⟨htstart, hround, hflags, hwgen, hidle, hmstat, hgfmt, hwstat, hpmstat, hpc, hmask, hcause, haddr, hxa, hxb⟩ :=
      csrRead_context_keepPrior s (4 * core + k)
    obtain ⟨hstation, hacct, hpkgid, hshed, hruntime⟩ := csrRead_system_keepPrior s (4 * core + k)
    have hpkg {n : Nat} (hn : 0x400 ≤ n ∧ n ≤ 0x409) : rd n = (pkgRegs s).get 0 n := csrRead_pkg_keepPrior s _ hn
    refine ⟨hstation, ?_, htstart, hacct, hround, hflags, hwgen, hidle, csrRead_mfmt_keepPrior s hk, hmstat, hgfmt, hpkgid, hwstat,
      hshed, hruntime, hpmstat, ?_, ?_, hpc, hmask, hcause, haddr, hxa, hxb, ?_, fun i hi => ?_, fun i hi => ?_, ?_, ?_⟩
    · exact csrRead_coreid_keepPrior s hk
    · rw [hpkg (by decide), pkgRegs_losstmo]
    · rw [hpkg (by decide), pkgRegs_fabric]
    · rw [← seenReg_keepPrior_dhimg]
      exact csrRead_seen _ _ (.inr rfl)
    · obtain ⟨hlcnt, hlbeg, hlend, hwaddr, hwctl, hpmev, hdscr⟩ := csrRead_family_keepPrior s (4 * core + k) hi
      exact ⟨hlcnt, hlbeg, hlend, hwaddr, hwctl, hpmev, hdscr, csrRead_pmcnt_keepPrior s _ hi⟩
    · rw [hpkg (by omega), pkgRegs_coderate s hi]
    · intro n hn other v hother
      have hseen : 0x400 ≤ n ∧ n ≤ 0x409 ∨ n = 0x41A := by omega
      rw [csrRead_seen _ _ hseen, csrRead_seen _ _ hseen, seenReg_csrLand_ne _ _ _ _ _ hother]
    · intro v _
      rw [csrRead_seen _ _ (.inr rfl), seenReg_csrLand_dhimg]

end Sys2Proof.Machine

/-!
SUPPORT. The issue path (R16, R17, R138): the check of a held bundle that the path does not reach can meet a poisoned granule, whose bytes
then stand as they turned (R87).
-/
namespace Sys2Proof.Machine

/-- A held bundle: a load of a doubleword at x4 beside an `evwait`. -/
def loadAndWait : List Byte :=
  parcelBytes (0xE000 + 2 ^ Slot.A.bit + 2 ^ Slot.Y.bit) ++ syllableBytes (encode (.ldd 7 4 0)) Slot.A.parcels ++
    syllableBytes (encode .evwait) Slot.Y.parcels

/-- A context of device 1 in the driver ring. -/
def driverCtx (pc : Word) : Ctx := { run := .ready, ring := .driver, launch := 9, dev := 1, tstart := 3000, bundle := 50, pc := pc }

/-- The device with one near stall of core 0. -/
def stallDev : Device :=
  { en := true, stalls := [(1, { id := 1, len := 256, paid := 100, level := 1, core := 0, acct := 3, rate := 32, phys := 0, base := 0 })] }

/-- Core 0, whose context 0 holds the issue path and has an `add` to issue, while context 1 holds at an empty event queue; two bits of
the word that its load reads have turned since. -/
def heldLoad : State :=
  { State.reset with
    station := 3000, cur := 0, nextId := 77, devs := [(1, stallDev)], seen := [(1, stallDev)], flips := [(0, 3)]
    cores := [(0, { path := 0, free := false, hcode := literalBundle .S0 (encode (.add .s0 0 0 0)) ++ loadAndWait })]
    ctxs := [(0, driverCtx 0), (1, { driverCtx 6 with x := [(4, stallAddr 1 0)], hold := some ⟨.event, 2990, false⟩ })] }

theorem attempt_heldLoad : ∃ t, attempt heldLoad (4 * 0 + 0) = .issues t ∧ t.mem = [] := ⟨_, rfl, rfl⟩

theorem issueCore_heldLoad : (heldLoad.issueCore 0).mem.read 0 = 3 ∧
    ((heldLoad.issueCore 0).ctx 1).trapReq = some { code := 0x32, addr := stallAddr 1 0, mask := slotMaskBit .A, async := false } := by
  decide

/-- Refutes O12: the issue path goes to context 0, yet the memory is not the one its bundle leaves: in the same cycle the held bundle of
context 1 is checked, faults with cause 0x32, and its granule is marked with its bytes as they turned. -/
theorem not_pathHolderIssues : ¬ Obligations.PathHolderIssues := by
  unfold Obligations.PathHolderIssues
  intro h
  obtain ⟨order, hheld, -, -, -, hissues, -⟩ := h heldLoad 0 0 rfl rfl (by decide)
  obtain ⟨t, ht, hmem⟩ := attempt_heldLoad
  obtain ⟨u, hu, -, -, humem, -⟩ := hissues [] 0 [1, 2, 3] heldLoad t (hheld rfl) rfl ht
  obtain rfl : heldLoad.issueCore 0 = u := Host.Outcome.next.inj hu
  obtain ⟨hread, -⟩ := issueCore_heldLoad
  rw [humem, hmem] at hread
  exact absurd hread (by decide)

end Sys2Proof.Machine

/-!
SUPPORT. Event queue, fences, `realign` and wakes (R275 to R277, R281, R380, R381): when each of them holds, what a pop leaves, and where
a wake served leaves the ring of its device.
-/
namespace Sys2Proof.Machine

/-! ### The event queue (R193, R275) -/

section ReturnedValues
variable (x : XNum) (v : Nat → Word)

/-- Values returned by a Y operation in the registers of the offsets listed. -/
def State.returnXs (s : State) (l : List Nat) : State := l.foldl (fun t i => t.returnX x i (v i)) s

/-- The writes that it puts off. -/
def returnPends (c : Ctx) (l : List Nat) : List Pend := l.map fun i => mkPend c .Y 1 (.x (x.toNat + i)) (ones 64) (v i).toNat

/-- What the return of one value keeps, the return of all of them keeps. -/
theorem returnXs_keeps {β : Type} (V : State → β) (hV : ∀ t i, V (t.returnX x i (v i)) = V t) (s : State) (l : List Nat) :
    V (s.returnXs x v l) = V s := by
  induction l generalizing s with
  | nil => rfl
  | cons i l ih => exact (ih _).trans (hV s i)

@[simp] theorem State.returnXs_mem (s : State) (l : List Nat) : (s.returnXs x v l).mem = s.mem :=
  returnXs_keeps x v State.mem (fun _ _ => rfl) s l
@[simp] theorem State.returnXs_cores (s : State) (l : List Nat) : (s.returnXs x v l).cores = s.cores :=
  returnXs_keeps x v State.cores (fun _ _ => rfl) s l

@[simp] theorem State.me_returnXs (s : State) (l : List Nat) : (s.returnXs x v l).me = s.me.addPend (returnPends x v s.me l) := by
  induction l generalizing s with
  | nil => simp [State.returnXs, returnPends, Ctx.addPend]
  | cons i l ih =>
    have hone : (s.returnX x i (v i)).me = s.me.addPend (returnPends x v s.me [i]) := State.me_sched s _
    have hrest : (s.returnXs x v (i :: l)).me = _ := ih (s.returnX x i (v i))
    rw [hrest, hone]
    simp [returnPends, Ctx.addPend, mkPend]

theorem State.ctx_returnXs_ne (s : State) (l : List Nat) {k : Nat} (hk : k ≠ s.cur) : (s.returnXs x v l).ctx k = s.ctx k := by
  induction l generalizing s with
  | nil => rfl
  | cons i l ih => exact (ih (s.returnX x i (v i)) hk).trans (State.ctx_sched_ne s _ hk)

end ReturnedValues

section Unlock
variable (s : State) (n : Nat) (o : Owner) (r : Record)

@[simp] theorem State.unlock_ctxs : (s.unlock n o r).ctxs = s.ctxs := by unfold State.unlock; split <;> rfl
@[simp] theorem State.unlock_cur : (s.unlock n o r).cur = s.cur := by unfold State.unlock; split <;> rfl

/-- R193: a record that no lock of its owner waits for ends none. -/
theorem State.unlock_cores_of_no_lock (h : ∀ l ∈ (s.core n).tack.locks, l.own ≠ o ∨ l.record ≠ some r) :
    (s.unlock n o r).cores = s.cores := by
  have hnone : ((s.core n).tack.locks.find? fun l => l.own == o && l.record == some r) = none :=
    List.find?_eq_none.2 fun l hl => by simpa [imp_iff_not_or] using h l hl
  simp [State.unlock, hnone]

end Unlock

/-- The state as the oldest record leaves the queue and the lock that waits for it ends. -/
def unqueued (s : State) (r : Record) (rest : List Record) : State :=
  (s.modCtx s.cur fun c => { c with evq := rest }).unlock s.myCore s.owner r

/-- Word i of a record. -/
def recordWord (r : Record) (i : Nat) : Word := BitVec.ofNat 64 (natField r (64 * i) 64)

section Pop
variable {x : XNum} {s : State} {r : Record} {rest : List Record}

theorem me_unqueued : (unqueued s r rest).me = { s.me with evq := rest } := by
  simp only [unqueued, State.me, State.ctx, State.unlock_ctxs, State.unlock_cur]
  exact State.ctx_modCtx_self s s.cur _

theorem ctx_unqueued_ne {k : Nat} (hk : k ≠ s.cur) : (unqueued s r rest).ctx k = s.ctx k := by
  simp only [unqueued, State.ctx, State.unlock_ctxs]
  exact State.ctx_modCtx_ne s _ hk

theorem unqueued_cores (h : ∀ l ∈ (s.core s.myCore).tack.locks, l.own ≠ s.owner ∨ l.record ≠ some r) :
    (unqueued s r rest).cores = s.cores :=
  State.unlock_cores_of_no_lock (s.modCtx s.cur fun c => { c with evq := rest }) s.myCore s.owner r h

theorem returnPends_recordWord : returnPends x (recordWord r) s.me (List.range 4) =
    (List.range 4).map fun i => mkPend s.me .Y 1 (.x (x.toNat + i)) (ones 64) (r / 2 ^ (64 * i) % 2 ^ 64) := by
  simp [returnPends, recordWord, natField]

theorem exec_evwait : exec .evwait s = finishSlot .Y s (slotEvwait s) := rfl

theorem exec_evwait_of_empty (h : s.me.evq = []) : exec .evwait s = .next (holds .event s) := by
  simp [exec_evwait, slotEvwait, h, finishSlot, holds]

theorem exec_evwait_of_record (h : s.me.evq ≠ []) : exec .evwait s = .next s := by
  simp [exec_evwait, slotEvwait, h, finishSlot]

theorem exec_evpop : exec (.evpop x) s = finishSlot .Y s (slotEvpop x s) := rfl

theorem exec_evpop_of_not_quad (hx : x.toNat % 4 ≠ 0) : exec (.evpop x) s = .next (trapped .Y 0x02 0 s) := by
  simp [exec_evpop, slotEvpop, groupOk, hx, finishSlot, trapped]

theorem exec_evpop_of_empty (hx : x.toNat % 4 = 0) (h : s.me.evq = []) : exec (.evpop x) s = .next (holds .event s) := by
  simp [exec_evpop, slotEvpop, groupOk, hx, h, finishSlot, holds]

theorem exec_evpop_of_record (hx : x.toNat % 4 = 0) (h : s.me.evq = r :: rest) :
    exec (.evpop x) s = .next ((unqueued s r rest).returnXs x (recordWord r) (List.range 4)) := by
  simp only [exec_evpop, slotEvpop, groupOk, hx, h]
  rfl

end Pop

/-! ### Fences and `realign` (R276, R277) -/

/-- An access of the issuing context, issued before this cycle, performs only after it. -/
def accessLate (s : State) : Prop := ∃ a, earlierOwn s a ∧ s.station < a.due

/-- A command of the issuing context, accepted before this cycle, has not posted its record. -/
def commandOpen (s : State) : Prop :=
  ∃ id c, (id, some c) ∈ s.cmds ∧ c.own.key = s.cur ∧ c.own.launch = s.me.launch ∧ c.accepted < s.station ∧ c.stage ≠ .posted

section Fences
variable {s : State} {scope : FenceScope} {kind : FenceKind}

theorem bufferedLeft_iff : bufferedLeft s s.cur = true ↔ uncommitted s := by
  simp only [bufferedLeft, uncommitted, earlierOwn, State.me, Bool.or_eq_true, Bool.not_eq_true', List.isEmpty_eq_false_iff,
    List.any_eq_true, Bool.and_eq_true, beq_iff_eq, decide_eq_true_eq, and_assoc]
  refine or_congr Iff.rfl (exists_congr fun a => ?_)
  cases a.op <;> simp

theorem lateAccesses_isEmpty_iff : (lateAccesses s s.cur).isEmpty = true ↔ ¬accessLate s := by
  simp [lateAccesses, accessLate, earlierOwn, List.filter_eq_nil_iff]

theorem cmdsLeft_iff : cmdsLeft s s.cur = true ↔ commandOpen s := by
  simp only [cmdsLeft, List.any_eq_true, commandOpen, Prod.exists]
  refine exists_congr fun id => ⟨?_, ?_⟩
  · rintro ⟨_ | c, hmem, hc⟩
    · simp at hc
    · exact ⟨c, hmem, by simpa [and_assoc, State.me] using hc⟩
  · rintro ⟨c, hmem, hc⟩
    exact ⟨some c, hmem, by simpa [and_assoc, State.me] using hc⟩

theorem exec_fence : exec (.fence scope kind) s = finishSlot .Y s (holdFor (fenceHold s s.cur scope kind) (.ok s)) := rfl

theorem exec_fence_of_hold {why : HoldWhy} (h : fenceHold s s.cur scope kind = some why) :
    exec (.fence scope kind) s = .next (holds why s) := by
  simp [exec_fence, h, holdFor, finishSlot, holds]

theorem exec_fence_of_no_hold (h : fenceHold s s.cur scope kind = none) : exec (.fence scope kind) s = .next s := by
  simp [exec_fence, h, holdFor, finishSlot]

theorem fenceHold_acq : fenceHold s s.cur scope .acq = none := rfl

theorem fenceHold_of_uncommitted (hk : kind ≠ .acq) (h : uncommitted s) : fenceHold s s.cur scope kind = some .commit := by
  simp [fenceHold, hk, bufferedLeft_iff.2 h]

theorem fenceHold_of_committed (hk : kind ≠ .acq) (hb : ¬uncommitted s)
    (h : accessLate s ∨ (scope = .pkg ∨ scope = .sys) ∧ commandOpen s) : fenceHold s s.cur scope kind = some .queue := by
  rw [← bufferedLeft_iff] at hb
  by_cases hl : accessLate s
  · rw [← not_not (a := accessLate s), ← lateAccesses_isEmpty_iff] at hl
    simp [fenceHold, hk, hb, hl]
  · obtain ⟨hs, hc⟩ := h.resolve_left hl
    simp [fenceHold, hk, hb, lateAccesses_isEmpty_iff.2 hl, hs, cmdsLeft_iff.2 hc]

theorem fenceHold_of_done (hk : kind ≠ .acq) (hb : ¬uncommitted s) (hl : ¬accessLate s)
    (hc : ¬((scope = .pkg ∨ scope = .sys) ∧ commandOpen s)) : fenceHold s s.cur scope kind = none := by
  rw [← bufferedLeft_iff] at hb
  rw [← cmdsLeft_iff] at hc
  simpa [fenceHold, hk, hb, lateAccesses_isEmpty_iff.2 hl] using hc

/-- The cycle in which the bundle of the issuing context first came up to issue (R277). -/
def heldSince (s : State) : Nat := match s.me.hold with | some h => h.since | none => s.station

theorem exec_realign :
    exec .realign s = finishSlot .Y s (if heldSince s / 1024 < s.tick then .ok s else .hold .realign) := rfl

theorem exec_realign_of_lt (h : heldSince s / 1024 < s.tick) : exec .realign s = .next s := by
  rw [exec_realign, if_pos h]
  rfl

theorem exec_realign_of_le (h : s.tick ≤ heldSince s / 1024) : exec .realign s = .next (holds .realign s) := by
  rw [exec_realign, if_neg (Nat.not_lt.2 h)]
  rfl

end Fences

/-! ### A record of a ring enqueued (R376, R380) -/

section Enqueue
variable (s : State)

@[simp] theorem State.sendCopies_cur (l : Launch) : (s.sendCopies l).cur = s.cur := by unfold State.sendCopies; split <;> rfl
@[simp] theorem State.sendCopies_ctxs (l : Launch) : (s.sendCopies l).ctxs = s.ctxs := by unfold State.sendCopies; split <;> rfl
@[simp] theorem State.sendCopies_devs (l : Launch) : (s.sendCopies l).devs = s.devs := by unfold State.sendCopies; split <;> rfl

@[simp] theorem State.addLaunch_cur (src : Source) (r : LaunchRec) : (s.addLaunch src r).cur = s.cur := by
  simp [State.addLaunch, State.makeEligible, apply_ite State.cur]
@[simp] theorem State.addLaunch_ctxs (src : Source) (r : LaunchRec) : (s.addLaunch src r).ctxs = s.ctxs := by
  simp [State.addLaunch, State.makeEligible, apply_ite State.ctxs]
@[simp] theorem State.addLaunch_devs (src : Source) (r : LaunchRec) : (s.addLaunch src r).devs = s.devs := by
  simp [State.addLaunch, State.makeEligible, apply_ite State.devs]

/-- Of two states around a record of a device's ring: the contexts stand, and of the device all but its event ring. -/
structure RecordTaken (dev : Nat) (s t : State) : Prop where
  cur : t.cur = s.cur
  ctxs : t.ctxs = s.ctxs
  dev : ∃ g, t.dev dev = { s.dev dev with drvq := g }

theorem recordTaken_addLaunch (dev : Nat) (src : Source) (r : LaunchRec) : RecordTaken dev s (s.addLaunch src r) :=
  ⟨by simp, by simp, (s.dev dev).drvq, by simp [State.dev]⟩

theorem recordTaken_drvRecord (dev : Nat) (r : Record) : RecordTaken dev s (s.drvRecord dev r) := by
  unfold State.drvRecord
  dsimp only
  split
  · exact ⟨rfl, rfl, _, State.dev_setDev_self s dev _⟩
  · exact ⟨rfl, rfl, _, State.dev_setDev_self s dev _⟩

/-- A record of a device's own ring has no reporter and is no copy. -/
theorem recordTaken_enqueue (dev : Nat) (a : Word) (r : LaunchRec) :
    RecordTaken dev s (s.enqueue { dev := dev, addr := a, cls := 2 } r) := by
  simp only [State.enqueue, ne_eq, not_true_eq_false, decide_false, Bool.false_and, Bool.false_eq_true, if_false]
  split
  · exact recordTaken_drvRecord s dev _
  · split
    · exact recordTaken_drvRecord s dev _
    · exact recordTaken_addLaunch s dev _ r

end Enqueue

/-! ### Wakes (R281, R380, R381) -/

/-- A device whose ring has its head one place on. -/
def Device.takeHead (d : Device) : Device := { d with subHead := (d.subHead + 1) % (d.subSize + 1) }

/-- The state after the record at the head of a device's ring. -/
def State.serveHead (s : State) (dev : Nat) : State :=
  (s.setDev dev (s.dev dev).takeHead).enqueue
    { dev := dev, addr := (ringRecord s dev (s.dev dev).subHead).1, cls := 2 } (parseRecord (ringRecord s dev (s.dev dev).subHead).2)

section Wakes
variable (s : State) (dev : Nat)

@[simp] theorem State.serveHead_cur : (s.serveHead dev).cur = s.cur := (recordTaken_enqueue _ dev _ _).cur
@[simp] theorem State.serveHead_ctxs : (s.serveHead dev).ctxs = s.ctxs := (recordTaken_enqueue _ dev _ _).ctxs

theorem State.serveHead_dev : ∃ g, (s.serveHead dev).dev dev = { (s.dev dev).takeHead with drvq := g } := by
  have htaken : RecordTaken dev (s.setDev dev (s.dev dev).takeHead) (s.serveHead dev) := recordTaken_enqueue _ dev _ _
  simpa using htaken.dev

@[simp] theorem State.serveHead_tokens : ((s.serveHead dev).dev dev).tokens = (s.dev dev).tokens := by
  obtain ⟨g, hg⟩ := s.serveHead_dev dev
  rw [hg]
  rfl
@[simp] theorem State.serveHead_subSize : ((s.serveHead dev).dev dev).subSize = (s.dev dev).subSize := by
  obtain ⟨g, hg⟩ := s.serveHead_dev dev
  rw [hg]
  rfl
@[simp] theorem State.serveHead_subHead :
    ((s.serveHead dev).dev dev).subHead = ((s.dev dev).subHead + 1) % ((s.dev dev).subSize + 1) := by
  obtain ⟨g, hg⟩ := s.serveHead_dev dev
  rw [hg]
  rfl

theorem serveRing_succ (f tail : Nat) : State.serveRing (f + 1) s dev tail =
    if (s.dev dev).subHead = tail then s else State.serveRing f (s.serveHead dev) dev tail := rfl

theorem serveRing_of_head {tail : Nat} (f : Nat) (h : (s.dev dev).subHead = tail) : State.serveRing f s dev tail = s := by
  cases f with
  | zero => rfl
  | succ f => rw [serveRing_succ, if_pos h]

/-- What one record keeps, the serving of the ring keeps. -/
theorem serveRing_keeps {β : Type} (V : State → β) (hV : ∀ t : State, V (t.serveHead dev) = V t) (f tail : Nat) :
    V (State.serveRing f s dev tail) = V s := by
  induction f generalizing s with
  | zero => rfl
  | succ f ih =>
    rw [serveRing_succ]
    split
    · rfl
    · exact (ih _).trans (hV s)

/-- The records from a ring's head up to a tail, in a ring of size + 1 places. -/
def ringGap (size head tail : Nat) : Nat := if head ≤ tail then tail - head else tail + size + 1 - head

theorem ringGap_next {size head tail : Nat} (hh : head ≤ size) (ht : tail ≤ size) (hne : head ≠ tail) :
    ringGap size ((head + 1) % (size + 1)) tail + 1 = ringGap size head tail := by
  unfold ringGap
  rcases Nat.lt_or_eq_of_le hh with hlt | rfl
  · rw [Nat.mod_eq_of_lt (by omega)]
    split <;> split <;> omega
  · rw [Nat.mod_self, if_pos (Nat.zero_le _), if_neg (by omega)]
    omega

/-- R380: with fuel for the records between them, the head reaches the tail. -/
theorem subHead_serveRing {f tail : Nat} (hh : (s.dev dev).subHead ≤ (s.dev dev).subSize) (ht : tail ≤ (s.dev dev).subSize)
    (hf : ringGap (s.dev dev).subSize (s.dev dev).subHead tail ≤ f) : ((State.serveRing f s dev tail).dev dev).subHead = tail := by
  induction f generalizing s with
  | zero =>
    show (s.dev dev).subHead = tail
    unfold ringGap at hf
    split at hf <;> omega
  | succ f ih =>
    rw [serveRing_succ]
    split
    · next h => exact h
    · next hne =>
      have hgap := ringGap_next hh ht hne
      exact ih (s.serveHead dev) (by simpa using Nat.le_of_lt_succ (Nat.mod_lt _ (Nat.succ_pos _))) (by simpa using ht)
        (by simp only [State.serveHead_subSize, State.serveHead_subHead]; omega)

/-- The device of a wake that is served: a token is spent. -/
def Device.spend (d : Device) : Device := { d with tokens := d.tokens - 1 }

variable {s} {x : XNum}

theorem exec_wake : exec (.wake x) s = .next (s.wakeWrite s.me.dev ((s.me.xr x).toNat % 2 ^ 32)) := by
  have hslot : exec (.wake x) s = finishSlot .Y s (slotWake x s) := rfl
  simp [hslot, slotWake, finishSlot, operandX, natField]

theorem wakeWrite_of_disabled {tail : Nat} (h : (s.dev dev).en = false) : s.wakeWrite dev tail = s := by
  simp [State.wakeWrite, h]

theorem wakeWrite_of_no_token {tail : Nat} (h : (s.dev dev).en = true) (h0 : (s.dev dev).tokens = 0) :
    s.wakeWrite dev tail = s.setDev dev { s.dev dev with wakeTail := tail, wakeAgain := true } := by
  simp [State.wakeWrite, h, h0]

theorem wakeWrite_of_token {tail : Nat} (h : (s.dev dev).en = true) (h0 : 0 < (s.dev dev).tokens) :
    s.wakeWrite dev tail = State.serveRing 4096 (s.setDev dev (s.dev dev).spend) dev (tail % ((s.dev dev).subSize + 1)) := by
  simp [State.wakeWrite, h, h0, State.serveWake, Device.spend]

/-- R380, R381: a wake with a token spends it, and the head of the ring reaches the tail. -/
theorem wakeWrite_serves {tail : Nat} (h : (s.dev dev).en = true) (h0 : 0 < (s.dev dev).tokens)
    (hh : (s.dev dev).subHead ≤ (s.dev dev).subSize) (hsize : (s.dev dev).subSize < 4096) :
    ((s.wakeWrite dev tail).dev dev).tokens = (s.dev dev).tokens - 1 ∧
      ((s.wakeWrite dev tail).dev dev).subHead = tail % ((s.dev dev).subSize + 1) ∧ (s.wakeWrite dev tail).me = s.me := by
  have ht : tail % ((s.dev dev).subSize + 1) ≤ (s.dev dev).subSize := Nat.le_of_lt_succ (Nat.mod_lt _ (Nat.succ_pos _))
  rw [wakeWrite_of_token dev h h0]
  generalize tail % ((s.dev dev).subSize + 1) = tl at ht
  refine ⟨?_, ?_, ?_⟩
  · rw [serveRing_keeps _ dev (fun t => (t.dev dev).tokens) (fun t => t.serveHead_tokens dev)]
    simp [Device.spend]
  · refine subHead_serveRing _ dev (by simpa [Device.spend] using hh) (by simpa [Device.spend] using ht) ?_
    simp only [State.dev_setDev_self, Device.spend, ringGap]
    split <;> omega
  · exact serveRing_keeps _ dev State.me (fun t => by simp [State.me, State.ctx]) _ _

end Wakes

/-! ### The obligation -/

/-- Settles O38: each operation by the lemmas above; the head of a ring reaches the tail since a ring has at most 4096 places. -/
theorem queuesFencesAndWakes : Obligations.QueuesFencesAndWakes := by
  intro x scope s
  refine ⟨exec_evwait_of_empty, exec_evwait_of_record, exec_evpop_of_not_quad, exec_evpop_of_empty, ?_,
    exec_fence_of_no_hold fenceHold_acq, ?_, ⟨exec_realign_of_lt, exec_realign_of_le⟩, ?_⟩
  · intro r rest hx hq
    refine ⟨_, exec_evpop_of_record hx hq, ?_, ?_, ?_, ?_, ?_, fun k hk => ?_, fun hlocks => ?_⟩
    · rw [State.me_returnXs, me_unqueued]; rfl
    · rw [State.me_returnXs, me_unqueued]; rfl
    · rw [State.me_returnXs, me_unqueued, ← returnPends_recordWord]; rfl
    · simp [unqueued]
    · rw [State.me_returnXs, me_unqueued]; rfl
    · rw [State.ctx_returnXs_ne _ _ _ _ (by simpa [unqueued] using hk), ctx_unqueued_ne hk]
    · rw [State.returnXs_cores, unqueued_cores hlocks]
  · intro kind hk
    refine ⟨fun hb => exec_fence_of_hold (fenceHold_of_uncommitted hk hb), fun hb hw => ?_, fun hb hl hc => ?_⟩
    · exact exec_fence_of_hold (fenceHold_of_committed hk hb hw)
    · exact exec_fence_of_no_hold (fenceHold_of_done hk hb hl hc)
  · refine ⟨fun hen => ?_, fun hen h0 => ?_, fun hen h0 hh hsize => ?_⟩
    · rw [exec_wake, wakeWrite_of_disabled _ hen]
    · rw [exec_wake, wakeWrite_of_no_token _ hen h0]
    · obtain ⟨htokens, hhead, hme⟩ := wakeWrite_serves s.me.dev (tail := (s.me.xr x).toNat % 2 ^ 32) hen h0 hh hsize
      refine ⟨_, exec_wake, htokens, hhead, hme, fun hat => ?_⟩
      rw [wakeWrite_of_token _ hen h0]
      exact serveRing_of_head _ _ _ (by simpa [Device.spend] using hat)

end Sys2Proof.Machine

/-!
SUPPORT. Job-control blocks (R278, R279) and `launch` (R280, R376): a block as a number and as the bytes that the system unit's writes of a
cycle leave, the address checks, what arming, adding, counting and firing leave, and what a launch enqueued leaves.
-/
namespace Sys2Proof.Machine

/-! ### A block as a number and as bytes (R1, R278) -/

section BlockNumber

theorem testBit_natField (w lo n j : Nat) : (natField w lo n).testBit j = (decide (j < n) && w.testBit (lo + j)) := by
  rw [natField, Nat.testBit_mod_two_pow, Nat.testBit_div_two_pow, Nat.add_comm]

theorem bitAt_eq_testBit (w i : Nat) : bitAt w i = w.testBit i := by
  rw [bitAt, Nat.testBit_eq_decide_div_mod_eq, beq_eq_decide]

/-- Replacing a field replaces its bits and no others. -/
theorem testBit_jcbSet (w lo n v j : Nat) :
    (jcbSet w lo n v).testBit j = if lo ≤ j ∧ j < lo + n then v.testBit (j - lo) else w.testBit j := by
  rw [jcbSet, testBit_mergeNat, Nat.testBit_mul_two_pow, Nat.testBit_mul_two_pow, Nat.testBit_mod_two_pow, ones, Nat.testBit_two_pow_sub_one]
  by_cases hlo : lo ≤ j
  · by_cases hn : j < lo + n
    · have hj : j - lo < n := by omega
      simp [hlo, hn, hj]
    · have hj : ¬ j - lo < n := by omega
      simp [hlo, hn, hj]
  · simp [hlo]

theorem natField_zero (w n : Nat) : natField w 0 n = w % 2 ^ n := by rw [natField, pow_zero, Nat.div_one]

theorem natField_jcbSet_self (w lo n v : Nat) : natField (jcbSet w lo n v) lo n = v % 2 ^ n := by
  refine Nat.eq_of_testBit_eq fun j => ?_
  rw [testBit_natField, testBit_jcbSet, Nat.testBit_mod_two_pow]
  by_cases hj : j < n <;> simp [hj]

theorem natField_jcbSet_of_disjoint (w v : Nat) {lo n lo' n' : Nat} (h : lo' + n' ≤ lo ∨ lo + n ≤ lo') :
    natField (jcbSet w lo n v) lo' n' = natField w lo' n' := by
  refine Nat.eq_of_testBit_eq fun j => ?_
  rw [testBit_natField, testBit_natField, testBit_jcbSet]
  by_cases hj : j < n'
  · rw [if_neg (by omega)]
  · simp [hj]

theorem jcbSet_lt {w lo n m : Nat} (v : Nat) (hw : w < 2 ^ m) (hm : lo + n ≤ m) : jcbSet w lo n v < 2 ^ m := by
  refine Nat.lt_pow_two_of_testBit _ fun j hj => ?_
  rw [testBit_jcbSet, if_neg (by omega)]
  exact Nat.testBit_eq_false_of_lt (lt_of_lt_of_le hw (Nat.pow_le_pow_right (by decide) hj))

/-- A number by the parts below, in and above a field. -/
theorem natField_parts (w lo n : Nat) : w = 2 ^ (lo + n) * (w / 2 ^ (lo + n)) + (2 ^ lo * natField w lo n + w % 2 ^ lo) := by
  have hlow := Nat.div_add_mod w (2 ^ lo)
  have hfield := Nat.div_add_mod (w / 2 ^ lo) (2 ^ n)
  rw [Nat.div_div_eq_div_mul, ← pow_add] at hfield
  conv_lhs => rw [← hlow, ← hfield]
  rw [natField, pow_add]
  ring

/-- The difference that replacing a field makes. -/
theorem jcbSet_add (w lo n v : Nat) : jcbSet w lo n v + 2 ^ lo * natField w lo n = w + 2 ^ lo * (v % 2 ^ n) := by
  have hlow : jcbSet w lo n v % 2 ^ lo = w % 2 ^ lo := by
    simpa [natField] using natField_jcbSet_of_disjoint w v (lo := lo) (n := n) (lo' := 0) (n' := lo) (by omega)
  have hhigh : jcbSet w lo n v / 2 ^ (lo + n) = w / 2 ^ (lo + n) := by
    refine Nat.eq_of_testBit_eq fun j => ?_
    rw [Nat.testBit_div_two_pow, Nat.testBit_div_two_pow, testBit_jcbSet, if_neg (by omega)]
  have hset := natField_parts (jcbSet w lo n v) lo n
  have hw := natField_parts w lo n
  rw [natField_jcbSet_self, hlow, hhigh] at hset
  omega

end BlockNumber

/-! ### The fields of a block (R278) -/

section BlockFields
variable {w : Nat}

theorem jcbExpected_eq (w : Nat) : jcbExpected w = w % 2 ^ 32 := natField_zero w 32

/-- STATE 3 reads as idle. -/
theorem jcbState_eq (w : Nat) : jcbState w = if w / 2 ^ 64 % 4 = 3 then 0 else w / 2 ^ 64 % 4 := rfl

theorem jcbState_eq_zero_iff : jcbState w = 0 ↔ w / 2 ^ 64 % 4 = 0 ∨ w / 2 ^ 64 % 4 = 3 := by
  rw [jcbState_eq, ite_eq_iff]
  omega

theorem jcbState_eq_one_iff : jcbState w = 1 ↔ w / 2 ^ 64 % 4 = 1 := by
  rw [jcbState_eq, ite_eq_iff]
  omega

theorem jcbState_eq_two_iff : jcbState w = 2 ↔ w / 2 ^ 64 % 4 = 2 := by
  rw [jcbState_eq, ite_eq_iff]
  omega

theorem jcbCounts_iff : jcbCounts w = true ↔ w / 2 ^ 64 % 4 = 1 ∧ w / 2 ^ 32 % 2 ^ 32 ≠ w % 2 ^ 32 := by
  rw [jcbCounts, Bool.and_eq_true, beq_iff_eq, bne_iff_ne, jcbState_eq_one_iff, jcbExpected_eq]
  rfl

end BlockFields

/-! ### Bytes of a number (R1) -/

section Bytes

theorem bytesToNat_natToBytes (n v : Nat) : bytesToNat (natToBytes n v) = v % 2 ^ (8 * n) := by
  induction n generalizing v with
  | zero => simp [natToBytes, bytesToNat, Nat.mod_one]
  | succ n ih =>
    have hsplit : v % 2 ^ (8 * (n + 1)) = v % 256 + 256 * (v / 256 % 2 ^ (8 * n)) := by
      rw [Nat.mul_succ, Nat.add_comm, pow_add]
      exact Nat.mod_mul
    rw [natToBytes, bytesToNat, ih, hsplit]
    rfl

theorem natToBytes_bytesToNat (bs : List Byte) : natToBytes bs.length (bytesToNat bs) = bs := by
  induction bs with
  | nil => rfl
  | cons b bs ih =>
    have hb := b.isLt
    have hhead : BitVec.ofNat 8 (b.toNat + 256 * bytesToNat bs) = b := by
      refine BitVec.eq_of_toNat_eq ?_
      rw [BitVec.toNat_ofNat]
      omega
    have htail : (b.toNat + 256 * bytesToNat bs) / 256 = bytesToNat bs := by omega
    rw [List.length_cons, bytesToNat, natToBytes, hhead, htail, ih]

theorem bytesToNat_lt (bs : List Byte) : bytesToNat bs < 2 ^ (8 * bs.length) := by
  have h := bytesToNat_natToBytes bs.length (bytesToNat bs)
  rw [natToBytes_bytesToNat] at h
  rw [h]
  exact Nat.mod_lt _ (by positivity)

@[simp] theorem length_natToBytes (n v : Nat) : (natToBytes n v).length = n := by
  induction n generalizing v with
  | zero => rfl
  | succ n ih => rw [natToBytes, List.length_cons, ih]

end Bytes

/-! ### The block as the system unit's writes of a cycle leave it (R84, R279) -/

section Cells

/-- Cells that agree on an address leave the byte they give, or the one that stood there. -/
theorem overlay_of_agree {cs : List Host.Cell} {a : Nat} {b v : Byte} (n : Nat) (hagree : ∀ c ∈ cs, c.1 = a → c.2 = v)
    (hgives : (a, v) ∈ cs ∨ b = v) : overlay [(n, cs)] a b = v := by
  simp only [overlay, List.foldl_cons, List.foldl_nil]
  induction cs generalizing b with
  | nil => simpa using hgives
  | cons c cs ih =>
    rw [List.foldl_cons]
    refine ih (fun d hd => hagree d (List.mem_cons_of_mem _ hd)) ?_
    rcases hgives with hmem | rfl
    · rcases List.mem_cons.1 hmem with rfl | hmem
      · exact .inr (if_pos rfl)
      · exact .inl hmem
    · by_cases hc : c.1 = a
      · exact .inr (by rw [if_pos hc, hagree c List.mem_cons_self hc])
      · exact .inr (if_neg hc)

theorem overlay_of_no_cell {cs : List Host.Cell} {a : Nat} (n : Nat) (b : Byte) (h : ∀ c ∈ cs, c.1 ≠ a) : overlay [(n, cs)] a b = b :=
  overlay_of_agree n (fun c hc he => absurd he (h c hc)) (.inr rfl)

theorem overlay_append (l m : List Buffered) (a : Nat) (b : Byte) : overlay (l ++ m) a b = overlay m a (overlay l a b) := by
  simp [overlay, List.foldl_append]

theorem mem_placeBytes {p : Nat} {bs : List Byte} {c : Host.Cell} :
    c ∈ placeBytes p bs ↔ ∃ i, i < bs.length ∧ c = (p + i, bs.getD i 0) := by
  simp [placeBytes, eq_comm]

/-- Cells that take a block at an address from one number to another. -/
structure CellsTake (cs : List Host.Cell) (p old new : Nat) : Prop where
  inside : ∀ c ∈ cs, p ≤ c.1 ∧ c.1 < p + 64
  agree : ∀ i, i < 64 → ∀ c ∈ cs, c.1 = p + i → c.2 = (natToBytes 64 new).getD i 0
  gives : ∀ i, i < 64 → (p + i, (natToBytes 64 new).getD i 0) ∈ cs ∨ (natToBytes 64 old).getD i 0 = (natToBytes 64 new).getD i 0

theorem cellsTake_placeBytes (p old new : Nat) : CellsTake (placeBytes p (natToBytes 64 new)) p old new where
  inside c hc := by
    obtain ⟨i, hi, rfl⟩ := mem_placeBytes.1 hc
    rw [length_natToBytes] at hi
    exact ⟨by simp, by simpa using hi⟩
  agree i hi c hc he := by
    obtain ⟨j, -, rfl⟩ := mem_placeBytes.1 hc
    obtain rfl : j = i := by simpa using he
    rfl
  gives i hi := .inl (mem_placeBytes.2 ⟨i, by simpa using hi, rfl⟩)

theorem cellsTake_jcbCells (p old new : Nat) : CellsTake (jcbCells p old new) p old new where
  inside c hc := (cellsTake_placeBytes p old new).inside c (List.mem_filter.1 hc).1
  agree i hi c hc := (cellsTake_placeBytes p old new).agree i hi c (List.mem_filter.1 hc).1
  gives i hi := by
    by_cases h : (natToBytes 64 old).getD i 0 = (natToBytes 64 new).getD i 0
    · exact .inr h
    · have hplaced := mem_placeBytes (p := p).2 ⟨i, (length_natToBytes 64 new).symm ▸ hi, rfl⟩
      exact .inl (List.mem_filter.2 ⟨hplaced, by simpa using h⟩)

end Cells

section BlockBytes

/-- A write of the system unit in this cycle. -/
def systemCells (a : Access) : Option Buffered :=
  if a.agent == 6 then (match a.op with | .store cs false => some (0, cs) | _ => none) else none

/-- The writes of the system unit in this cycle, in order. -/
def systemWrites (s : State) : List Buffered := s.accesses.filterMap systemCells

/-- A byte as these writes leave it. -/
def blockByte (s : State) (q : Nat) : Byte := overlay (systemWrites s) q (s.mem.read q)

theorem jcbWord_eq (s : State) (p : Nat) : jcbWord s p = bytesToNat ((List.range 64).map fun i => blockByte s (p + i)) := rfl

theorem jcbWord_congr {s t : State} {p q : Nat} (h : ∀ i, i < 64 → blockByte t (q + i) = blockByte s (p + i)) : jcbWord t q = jcbWord s p := by
  rw [jcbWord_eq, jcbWord_eq]
  exact congrArg bytesToNat (List.map_congr_left fun i hi => h i (List.mem_range.1 hi))

theorem jcbWord_lt (s : State) (p : Nat) : jcbWord s p < 2 ^ (8 * 64) := by
  have h := bytesToNat_lt ((List.range 64).map fun i => blockByte s (p + i))
  rwa [List.length_map, List.length_range] at h

/-- Byte i of the number of a block. -/
theorem natToBytes_jcbWord (s : State) (p : Nat) {i : Nat} (hi : i < 64) : (natToBytes 64 (jcbWord s p)).getD i 0 = blockByte s (p + i) := by
  have h := natToBytes_bytesToNat ((List.range 64).map fun i => blockByte s (p + i))
  rw [List.length_map, List.length_range] at h
  rw [jcbWord_eq, h]
  simp [hi]

theorem jcbWord_of_bytes {s : State} {p v : Nat} (hv : v < 2 ^ (8 * 64)) (h : ∀ i, i < 64 → blockByte s (p + i) = (natToBytes 64 v).getD i 0) :
    jcbWord s p = v := by
  have hbytes : (List.range 64).map (fun i => blockByte s (p + i)) = natToBytes 64 v := by
    refine List.ext_getElem (by simp) fun i hi hv => ?_
    rw [List.getElem_map, List.getElem_range, h i (by simpa using hi), List.getD_eq_getElem _ _ hv]
  rw [jcbWord_eq, hbytes, bytesToNat_natToBytes, Nat.mod_eq_of_lt hv]

variable {s : State} {key p : Nat} {cs : List Host.Cell}

theorem blockByte_jcbWrite (q : Nat) : blockByte (s.jcbWrite key p cs) q = overlay [(0, cs)] q (blockByte s q) := by
  have hwrites : systemWrites (s.jcbWrite key p cs) = systemWrites s ++ [(0, cs)] := by
    simp [systemWrites, State.jcbWrite, State.agentStore, systemCells]
  rw [blockByte, hwrites, overlay_append, State.jcbWrite_mem, blockByte]

/-- A block after the system unit's write of it. -/
theorem jcbWord_jcbWrite {v : Nat} (hcs : CellsTake cs p (jcbWord s p) v) (hv : v < 2 ^ (8 * 64)) : jcbWord (s.jcbWrite key p cs) p = v := by
  refine jcbWord_of_bytes hv fun i hi => ?_
  have hgives := hcs.gives i hi
  rw [natToBytes_jcbWord s p hi] at hgives
  rw [blockByte_jcbWrite, overlay_of_agree 0 (hcs.agree i hi) hgives]

/-- Another block, apart from it. -/
theorem jcbWord_jcbWrite_apart {old v q : Nat} (hcs : CellsTake cs p old v) (hq : q + 64 ≤ p ∨ p + 64 ≤ q) :
    jcbWord (s.jcbWrite key p cs) q = jcbWord s q := by
  refine jcbWord_congr fun i hi => ?_
  rw [blockByte_jcbWrite, overlay_of_no_cell]
  intro c hc
  have hin := hcs.inside c hc
  omega

theorem systemWrites_of_settled (h : settled s) : systemWrites s = [] := by
  obtain ⟨hacc, -, -⟩ := h
  refine List.filterMap_eq_nil_iff.2 fun a ha => ?_
  rw [systemCells, if_neg (by simpa using (hacc a ha).1)]

/-- With nothing under way the block is what memory holds. -/
theorem jcbWord_of_settled (h : settled s) (p : Nat) : jcbWord s p = bytesToNat (s.mem.readN p 64) := by
  rw [jcbWord_eq]
  simp only [blockByte, systemWrites_of_settled h]
  rfl

end BlockBytes

/-! ### Launches made eligible (R375 to R377) -/

section Relaunch

/-- A state with its launches, the names given out and the messages to other packages replaced: all that a launch made eligible changes. -/
def relaunched (s t : State) : State := { s with launches := t.launches, nextId := t.nextId, outbox := t.outbox }

variable (s : State)

theorem sendCopies_frame (l : Launch) : s.sendCopies l = relaunched s (s.sendCopies l) := by unfold State.sendCopies; split <;> rfl

theorem makeEligible_frame (cls : Nat) (l : Launch) : s.makeEligible cls l = relaunched s (s.makeEligible cls l) := by
  rw [State.makeEligible, sendCopies_frame]
  rfl

theorem addLaunch_frame (src : Source) (r : LaunchRec) : s.addLaunch src r = relaunched s (s.addLaunch src r) := by
  simp only [State.addLaunch]
  split
  · rw [makeEligible_frame]
    rfl
  · rfl

theorem releaseLaunches_frame : s.releaseLaunches = relaunched s s.releaseLaunches := by
  unfold State.releaseLaunches
  refine List.foldlRecOn s.launches _ (motive := fun t => t = relaunched s t) rfl fun t ht e _ => ?_
  split
  · split
    · rw [makeEligible_frame, ht]
      rfl
    · exact ht
  · exact ht

end Relaunch

/-! ### The system unit's write of a block (R84, R279) -/

section Write
variable (s : State) (key p : Nat) (cs : List Host.Cell)

@[simp] theorem State.jcbWrite_armed : (s.jcbWrite key p cs).armed = s.armed := rfl
@[simp] theorem State.jcbWrite_posts : (s.jcbWrite key p cs).posts = s.posts := rfl
@[simp] theorem State.jcbWrite_station : (s.jcbWrite key p cs).station = s.station := rfl

end Write

/-! ### The fire (R279) -/

section Fire
variable {s : State} {key p old w : Nat} {a : Word}

theorem mem_insertPost (e : Nat × Owner × Record) (l : List (Nat × Owner × Record)) : e ∈ insertPost e l := by
  induction l with
  | nil => exact List.mem_singleton_self e
  | cons f l ih =>
    rw [insertPost]
    split
    · exact List.mem_cons_of_mem f ih
    · exact List.mem_cons_self

@[simp] theorem State.jcbFire_ctxs : (s.jcbFire key a p old w).ctxs = s.ctxs := by
  simp only [State.jcbFire]
  rw [releaseLaunches_frame]
  split <;> rfl

@[simp] theorem State.jcbFire_cur : (s.jcbFire key a p old w).cur = s.cur := by
  simp only [State.jcbFire]
  rw [releaseLaunches_frame]
  split <;> rfl

theorem jcbFire_accesses :
    (s.jcbFire key a p old w).accesses = (s.jcbWrite key p (jcbCells p old (jcbSet w 64 2 2))).accesses := by
  simp only [State.jcbFire]
  rw [releaseLaunches_frame]
  split <;> rfl

/-- The block is armed no more. -/
theorem jcbFire_armed : (s.jcbFire key a p old w).armed = s.armed.filter fun e => e.1 != p := by
  simp only [State.jcbFire]
  rw [releaseLaunches_frame]
  split
  · rfl
  · next hnone =>
    rw [State.jcbWrite_armed, List.find?_eq_none] at hnone
    exact (List.filter_eq_self.2 fun e he => by simpa using hnone e he).symm

/-- The record of the fire goes to the context whose `jinit` armed the block. -/
theorem mem_jcbFire_posts {o : Owner} (h : s.armed.find? (fun e => e.1 == p) = some (p, o)) :
    (0, o, fireRecord a s.station (jcbDone w) o.key) ∈ (s.jcbFire key a p old w).posts := by
  simp only [State.jcbFire, State.jcbWrite_armed, h]
  rw [releaseLaunches_frame]
  exact mem_insertPost _ _

theorem jcbWord_jcbFire (q : Nat) :
    jcbWord (s.jcbFire key a p old w) q = jcbWord (s.jcbWrite key p (jcbCells p old (jcbSet w 64 2 2))) q := by
  refine jcbWord_congr fun i _ => ?_
  simp only [blockByte, systemWrites, jcbFire_accesses, State.jcbFire_mem, State.jcbWrite_mem]

/-- A block that fires: its number with STATE 2. -/
theorem jcbWord_jcbFire_of_word (hold : jcbWord s p = old) (hw : w < 2 ^ (8 * 64)) :
    jcbWord (s.jcbFire key a p old w) p = jcbSet w 64 2 2 := by
  rw [jcbWord_jcbFire, ← hold, jcbWord_jcbWrite (cellsTake_jcbCells p _ _) (jcbSet_lt 2 hw (by decide))]

end Fire

/-! ### What the operations on a block keep -/

section Kept

/-- Memory, the registers of the issuing context, its pending writes and its pc stand, and every block apart from the one at an address. -/
def blockKept (p : Nat) (s t : State) : Prop :=
  t.mem = s.mem ∧ t.me.x = s.me.x ∧ t.me.pend = s.me.pend ∧ t.me.pc = s.me.pc ∧
    ∀ q, q + 64 ≤ p ∨ p + 64 ≤ q → jcbWord t q = jcbWord s q

variable {s t u : State} {key p old new w : Nat} {a : Word} {cs : List Host.Cell}

theorem blockKept_trans (hst : blockKept p s t) (htu : blockKept p t u) : blockKept p s u := by
  obtain ⟨hmem, hx, hpend, hpc, hword⟩ := hst
  obtain ⟨hmem', hx', hpend', hpc', hword'⟩ := htu
  exact ⟨hmem'.trans hmem, hx'.trans hx, hpend'.trans hpend, hpc'.trans hpc, fun q hq => (hword' q hq).trans (hword q hq)⟩

theorem me_congr (hctxs : t.ctxs = s.ctxs) (hcur : t.cur = s.cur) : t.me = s.me := by rw [State.me, State.me, State.ctx, State.ctx, hctxs, hcur]

@[simp] theorem State.jcbWrite_me : (s.jcbWrite key p cs).me = s.me := rfl

theorem blockKept_jcbWrite (hcs : CellsTake cs p old new) : blockKept p s (s.jcbWrite key p cs) :=
  ⟨rfl, by rw [State.jcbWrite_me], by rw [State.jcbWrite_me], by rw [State.jcbWrite_me], fun _ hq => jcbWord_jcbWrite_apart hcs hq⟩

@[simp] theorem State.jcbFire_me : (s.jcbFire key a p old w).me = s.me := me_congr State.jcbFire_ctxs State.jcbFire_cur

theorem blockKept_jcbFire : blockKept p s (s.jcbFire key a p old w) := by
  refine ⟨State.jcbFire_mem .., by rw [State.jcbFire_me], by rw [State.jcbFire_me], by rw [State.jcbFire_me], fun q hq => ?_⟩
  rw [jcbWord_jcbFire, jcbWord_jcbWrite_apart (cellsTake_jcbCells p old _) hq]

end Kept

/-! ### The checks of a block's address (R87, R278, R279) -/

theorem Stall.live_eq_false_iff {y : Stall} {n : Nat} : y.live n = false ↔ y.st ≠ .active ∨ y.paid ≤ n := by
  rw [Stall.live, Bool.and_eq_false_iff, decide_eq_false_iff_not, Nat.not_lt, beq_eq_false_iff_ne]

section BlockChecks
variable {s : State} {a : Word} {y : Stall} {x : XNum}

/-- The address checks of the issuing device's operation, in their order. -/
theorem jcbStall_eq (s : State) (a : Word) : jcbStall s s.me.dev a =
    if a.getLsbD 63 = false then .bad 0x14 a
    else if addrStall a = 0 ∨ (stallAt s a).id = 0 ∨ 64 * (stallAt s a).len < addrOffset a + 64 ∨ addrOffset a % 64 ≠ 0 then .bad 0x13 a
    else if (stallAt s a).level ≠ 1 ∨ (stallAt s a).sync = false then .bad 0x14 a
    else if (stallAt s a).st ≠ .active ∨ (stallAt s a).paid ≤ s.tick then .bad 0x10 a
    else .ok (stallAt s a) := by
  simp only [jcbStall, isStallAddr, Bool.or_eq_true, Bool.not_eq_true', decide_eq_true_eq, Stall.live_eq_false_iff, or_assoc]
  rfl

theorem jcbStall_of_not_stall (h : a.getLsbD 63 = false) : jcbStall s s.me.dev a = .bad 0x14 a := by rw [jcbStall_eq, if_pos h]

theorem jcbStall_of_outside (h : a.getLsbD 63 = true)
    (hout : addrStall a = 0 ∨ (stallAt s a).id = 0 ∨ 64 * (stallAt s a).len < addrOffset a + 64 ∨ addrOffset a % 64 ≠ 0) :
    jcbStall s s.me.dev a = .bad 0x13 a := by
  rw [jcbStall_eq, if_neg (by rw [h]; decide), if_pos hout]

section Inside
variable (h63 : a.getLsbD 63 = true) (hstall : addrStall a ≠ 0) (hid : (stallAt s a).id ≠ 0)
  (hlen : addrOffset a + 64 ≤ 64 * (stallAt s a).len) (halign : addrOffset a % 64 = 0)
include h63 hstall hid hlen halign

/-- R278: for an aligned block that lies in a stall, the stall's kind and state are left to check. -/
theorem jcbStall_of_inside : jcbStall s s.me.dev a =
    if (stallAt s a).level ≠ 1 ∨ (stallAt s a).sync = false then .bad 0x14 a
    else if (stallAt s a).st ≠ .active ∨ (stallAt s a).paid ≤ s.tick then .bad 0x10 a
    else .ok (stallAt s a) := by
  rw [jcbStall_eq, if_neg (by rw [h63]; decide), if_neg (by omega)]

theorem jcbStall_of_wrong_kind (hkind : (stallAt s a).level ≠ 1 ∨ (stallAt s a).sync = false) : jcbStall s s.me.dev a = .bad 0x14 a := by
  rw [jcbStall_of_inside h63 hstall hid hlen halign, if_pos hkind]

theorem jcbStall_of_expired (hlevel : (stallAt s a).level = 1) (hsync : (stallAt s a).sync = true)
    (hdead : (stallAt s a).st ≠ .active ∨ (stallAt s a).paid ≤ s.tick) : jcbStall s s.me.dev a = .bad 0x10 a := by
  rw [jcbStall_of_inside h63 hstall hid hlen halign, if_neg (by simp [hlevel, hsync]), if_pos hdead]

end Inside

theorem blockAt_stallAt (h : blockAt s a y) : stallAt s a = y := h.2.2.1

theorem jcbStall_of_blockAt (h : blockAt s a y) : jcbStall s s.me.dev a = .ok y := by
  obtain ⟨h63, hstall, rfl, hid, hlen, halign, hlevel, hsync, hst, hpaid⟩ := h
  rw [jcbStall_of_inside h63 hstall hid hlen halign, if_neg (by simp [hlevel, hsync]), if_neg (by simpa [hst] using hpaid)]

/-- The first poisoned granule among the bytes read is the one named (R87). -/
theorem poisonCheck_of_tainted {j n : Nat} (hj : j < n) (h : tainted s a j) (hs : sound s a j) :
    poisonCheck s (stallAt s a) a (List.range n) = .bad 0x32 (BitVec.ofNat 64 ((a.toNat + j) / 64 * 64)) := by
  have hfind : (List.range n).find? (fun i => poisonedAt s (((stallAt s a).at a + i) / 64)) = some j :=
    List.find?_range_eq_some.2 ⟨h, List.mem_range.2 hj, fun i hi => by simpa [tainted, Stall.at] using hs i hi⟩
  rw [poisonCheck, hfind]

theorem poisonCheck_of_sound {n : Nat} (h : sound s a n) : poisonCheck s (stallAt s a) a (List.range n) = .ok () := by
  have hfind : (List.range n).find? (fun i => poisonedAt s (((stallAt s a).at a + i) / 64)) = none :=
    List.find?_eq_none.2 fun i hi => h i (List.mem_range.1 hi)
  rw [poisonCheck, hfind]

theorem jcbOpen_of_bad {code : Nat} {b : Word} (h : jcbStall s s.me.dev a = .bad code b) : jcbOpen s s.me.dev a = .bad code b := by
  rw [jcbOpen, h]
  rfl

theorem jcbOpen_of_tainted {j : Nat} (hb : blockAt s a y) (hj : j < 64) (h : tainted s a j) (hs : sound s a j) :
    jcbOpen s s.me.dev a = .bad 0x32 (BitVec.ofNat 64 ((a.toNat + j) / 64 * 64)) := by
  rw [jcbOpen, jcbStall_of_blockAt hb, Chk.bind, ← blockAt_stallAt hb, poisonCheck_of_tainted hj h hs]
  rfl

theorem jcbOpen_of_sound (hb : blockAt s a y) (hs : sound s a 64) : jcbOpen s s.me.dev a = .ok y := by
  rw [jcbOpen, jcbStall_of_blockAt hb, Chk.bind, ← blockAt_stallAt hb, poisonCheck_of_sound hs]
  rfl

@[simp] theorem operandX_zero (s : State) (x : XNum) : operandX s x 0 = s.me.xr x := by simp [operandX]

theorem finishSlot_ok (sl : Slot) (s t : State) : finishSlot sl s (.ok t) = .next t := rfl

/-- Each operation on a block opens it first; `jinit` and `jadd`, of two registers, once their number is even. -/
theorem exec_opens {i : Instr} (hi : i ∈ [Instr.jinit x, .jadd x, .jdone x, .jwait x]) (hx : x.toNat % 2 = 0 ∨ i = .jdone x ∨ i = .jwait x) :
    ∃ f, exec i s = finishSlot .Y s ((jcbOpen s s.me.dev (operandX s x 0)).slot f) := by
  simp only [List.mem_cons, List.not_mem_nil, or_false] at hi
  rcases hi with rfl | rfl | rfl | rfl
  · exact ⟨_, congrArg (finishSlot .Y s) (if_neg (by simpa [groupOk] using hx))⟩
  · exact ⟨_, congrArg (finishSlot .Y s) (if_neg (by simpa [groupOk] using hx))⟩
  · exact ⟨_, rfl⟩
  · exact ⟨_, rfl⟩

theorem exec_of_jcbOpen_bad {i : Instr} {code : Nat} {b : Word} (hi : i ∈ [Instr.jinit x, .jadd x, .jdone x, .jwait x])
    (hx : x.toNat % 2 = 0 ∨ i = .jdone x ∨ i = .jwait x) (h : jcbOpen s s.me.dev (s.me.xr x) = .bad code b) :
    exec i s = .next (trapped .Y code b s) := by
  obtain ⟨f, hf⟩ := exec_opens (s := s) hi hx
  rw [hf, operandX_zero, h]
  rfl

theorem exec_of_not_pair {i : Instr} (hi : i ∈ [Instr.jinit x, .jadd x]) (hx : x.toNat % 2 ≠ 0) : exec i s = .next (trapped .Y 0x02 0 s) := by
  have hgroup : (!groupOk x 2) = true := by simpa [groupOk] using hx
  simp only [List.mem_cons, List.not_mem_nil, or_false] at hi
  rcases hi with rfl | rfl
  · exact congrArg (finishSlot .Y s) (if_pos hgroup)
  · exact congrArg (finishSlot .Y s) (if_pos hgroup)

end BlockChecks

/-! ### Waiting for earlier stores (R276, R358) -/

section Release
variable {s : State}

theorem lateStore_iff : ((lateAccesses s s.cur).any fun a => a.op.isStore) = true ↔ storesLate s := by
  have hstore (o : AccOp) : o.isStore = true ↔ ∃ cs b, o = .store cs b := by cases o <;> simp [AccOp.isStore]
  simp [lateAccesses, storesLate, earlierOwn, hstore, and_assoc]

theorem releaseHold_of_uncommitted (h : uncommitted s) : releaseHold s s.cur = some .commit := by
  rw [releaseHold, if_pos (bufferedLeft_iff.2 h)]

theorem releaseHold_of_storesLate (hb : ¬uncommitted s) (h : storesLate s) : releaseHold s s.cur = some .queue := by
  rw [releaseHold, if_neg (fun e => hb (bufferedLeft_iff.1 e)), if_pos (lateStore_iff.2 h)]

theorem releaseHold_of_settled (h : settled s) : releaseHold s s.cur = none := by
  obtain ⟨hacc, hbuf, -⟩ := h
  have hown : ∀ a, ¬earlierOwn s a := fun a ⟨ha, hkey, _⟩ => (hacc a ha).2 hkey
  have hcommit : ¬uncommitted s := by
    rintro (h | ⟨a, ha, _⟩)
    · exact h hbuf
    · exact hown a ha
  have hlate : ¬storesLate s := fun ⟨a, ha, _⟩ => hown a ha
  rw [releaseHold, if_neg (fun e => hcommit (bufferedLeft_iff.1 e)), if_neg (fun e => hlate (lateStore_iff.1 e))]

end Release

/-! ### `jinit` (R279) -/

theorem evRoom_iff {c : Ctx} : c.evRoom = true ↔ hasRoom c := by rw [Ctx.evRoom, decide_eq_true_iff, hasRoom, Ctx.evUsed]

/-- The number of a block that the issuing context's `jinit` arms: EXPECTED, STATE 1, and where the context is. -/
def armedNumber (s : State) (n : Nat) : Nat := n + 2 ^ 64 + s.myCore * 2 ^ 74 + s.cur % 4 * 2 ^ 80

/-- A state with a block armed for an owner. -/
def State.addArmed (s : State) (p : Nat) (o : Owner) : State := { s with armed := s.armed ++ [(p, o)] }

/-- The state with an entry of the issuing context's event queue reserved. -/
def State.reserved (s : State) : State := s.modCtx s.cur Ctx.reserve

/-- The state as `jinit` arms a block with a number. -/
def State.armBlock (s : State) (p v : Nat) : State :=
  (s.reserved.addArmed p s.reserved.owner).jcbWrite s.cur p (placeBytes p (natToBytes 64 v))

section Armed
variable (s : State) (p v : Nat) (o : Owner)

@[simp] theorem State.addArmed_me : (s.addArmed p o).me = s.me := rfl
@[simp] theorem State.addArmed_armed : (s.addArmed p o).armed = s.armed ++ [(p, o)] := rfl
@[simp] theorem State.addArmed_posts : (s.addArmed p o).posts = s.posts := rfl
@[simp] theorem State.reserved_me : s.reserved.me = s.me.reserve := State.ctx_modCtx_self s s.cur Ctx.reserve
@[simp] theorem State.reserved_armed : s.reserved.armed = s.armed := rfl
@[simp] theorem State.reserved_posts : s.reserved.posts = s.posts := rfl
@[simp] theorem State.addArmed_station : (s.addArmed p o).station = s.station := rfl
@[simp] theorem State.reserved_station : s.reserved.station = s.station := rfl
@[simp] theorem State.reserved_owner : s.reserved.owner = s.owner := by simp [State.reserved, State.owner, Ctx.reserve]

@[simp] theorem State.armBlock_me : (s.armBlock p v).me = s.me.reserve := by simp [State.armBlock]
@[simp] theorem State.armBlock_armed : (s.armBlock p v).armed = s.armed ++ [(p, s.owner)] := by simp [State.armBlock]
@[simp] theorem State.armBlock_posts : (s.armBlock p v).posts = s.posts := by simp [State.armBlock]
@[simp] theorem State.armBlock_station : (s.armBlock p v).station = s.station := by simp [State.armBlock]

theorem blockKept_addArmed (q : Nat) : blockKept q s (s.addArmed p o) := ⟨rfl, rfl, rfl, rfl, fun _ _ => rfl⟩

theorem blockKept_reserved : blockKept p s s.reserved := by
  refine ⟨rfl, ?_, ?_, ?_, fun _ _ => rfl⟩
  all_goals
    rw [State.reserved_me]
    rfl

theorem blockKept_armBlock : blockKept p s (s.armBlock p v) :=
  blockKept_trans (blockKept_reserved s p) (blockKept_trans (blockKept_addArmed ..) (blockKept_jcbWrite (cellsTake_placeBytes p 0 v)))

theorem jcbWord_armBlock {v : Nat} (hv : v < 2 ^ (8 * 64)) : jcbWord (s.armBlock p v) p = v :=
  jcbWord_jcbWrite (cellsTake_placeBytes p _ v) hv

end Armed

section Init
variable {s : State} {x : XNum} {y : Stall} {p v n : Nat} {a : Word}

/-- Nothing is given back for a block that is not armed. -/
theorem disarm_of_not_armed (h : ∀ e ∈ s.armed, e.1 ≠ p) : s.disarm p = s := by
  have hnone : s.armed.find? (fun e => e.1 == p) = none := List.find?_eq_none.2 fun e he => by simpa using h e he
  rw [State.disarm, hnone]

theorem exec_jinit_of_armed (hx : x.toNat % 2 = 0) (ho : jcbOpen s s.me.dev (s.me.xr x) = .ok y)
    (h : jcbState (jcbWord s (y.at (s.me.xr x))) = 1) : exec (.jinit x) s = .next (trapped .Y 0x31 (s.me.xr x) s) := by
  have hslot : slotJinit x s = .trap 0x31 (s.me.xr x) := by simp [slotJinit, groupOk, hx, ho, Chk.slot, h]
  exact congrArg (finishSlot .Y s) hslot

theorem exec_jinit_of_full (hx : x.toNat % 2 = 0) (ho : jcbOpen s s.me.dev (s.me.xr x) = .ok y)
    (h : jcbState (jcbWord s (y.at (s.me.xr x))) ≠ 1) (hroom : ¬hasRoom s.me) : exec (.jinit x) s = .next (holds .queue s) := by
  rw [← evRoom_iff] at hroom
  have hslot : slotJinit x s = .hold .queue := by simp [slotJinit, groupOk, hx, ho, Chk.slot, h, hroom]
  exact congrArg (finishSlot .Y s) hslot

/-- With an entry free the block is armed, and one of which no `jdone` is expected fires at once. -/
theorem exec_jinit_of_room (hx : x.toNat % 2 = 0) (ho : jcbOpen s s.me.dev (s.me.xr x) = .ok y) (hp : y.at (s.me.xr x) = p)
    (h : jcbState (jcbWord s p) ≠ 1) (hroom : hasRoom s.me) (hflips : s.flips = []) (harmed : ∀ e ∈ s.armed, e.1 ≠ p)
    (hn : (operandReg s x 1).toNat % 2 ^ 32 = n) (hv : armedNumber s n = v) :
    exec (.jinit x) s = .next (if n = 0 then (s.armBlock p v).jcbFire s.cur (s.me.xr x) p v v else s.armBlock p v) := by
  subst hp hn hv
  rw [← evRoom_iff] at hroom
  have hexec : exec (.jinit x) s = finishSlot .Y s (slotJinit x s) := rfl
  simp only [hexec, slotJinit, groupOk, hx, ho, Chk.slot, operandX_zero, h, hroom, scan_clean hflips, disarm_of_not_armed harmed,
    beq_self_eq_true, Bool.not_true, Bool.false_eq_true, if_false, natField_zero]
  rfl

/-- The fields of the number do not meet. -/
theorem armedNumber_lt (hcur : s.cur < 256) (hn : n < 2 ^ 32) : armedNumber s n < 2 ^ (8 * 64) := by
  have hcore : s.myCore < 64 := by
    simp only [State.myCore, keyCore]
    omega
  calc armedNumber s n < 2 ^ 82 := by
        simp only [armedNumber]
        omega
    _ ≤ 2 ^ (8 * 64) := by gcongr <;> decide

theorem jcbSet_armedNumber (hn : n < 2 ^ 32) :
    jcbSet (armedNumber s n) 64 2 2 = n + 2 * 2 ^ 64 + s.myCore * 2 ^ 74 + s.cur % 4 * 2 ^ 80 := by
  have hstate : natField (armedNumber s n) 64 2 = 1 := by
    simp only [natField, armedNumber]
    omega
  have hset := jcbSet_add (armedNumber s n) 64 2 2
  rw [hstate] at hset
  simp only [armedNumber] at hset ⊢
  omega

theorem jcbDone_armedNumber_zero : jcbDone (armedNumber s 0) = 0 := by
  simp only [jcbDone, natField, armedNumber]
  omega

/-- R279: a `jinit` that finds room arms its block; one of which no `jdone` is expected is fired, and its record handed in. -/
theorem jinit_arms (hx : x.toNat % 2 = 0) (ho : jcbOpen s s.me.dev (s.me.xr x) = .ok y) (hp : y.at (s.me.xr x) = p)
    (h : jcbState (jcbWord s p) ≠ 1) (hroom : hasRoom s.me) (hflips : s.flips = []) (hcur : s.cur < 256)
    (hn : (operandReg s x 1).toNat % 2 ^ 32 = n) (harmed : ∀ e ∈ s.armed, e.1 ≠ p) :
    ∃ t : State, exec (.jinit x) s = .next t ∧ blockKept p s t ∧ t.me.evres = s.me.evres + 1 ∧
      jcbWord t p = n + (if n = 0 then 2 else 1) * 2 ^ 64 + s.myCore * 2 ^ 74 + s.cur % 4 * 2 ^ 80 ∧
      (n ≠ 0 → t.armed = s.armed ++ [(p, s.owner)] ∧ t.posts = s.posts) ∧
      (n = 0 → t.armed = s.armed ∧ (0, s.owner, mkRecord (s.me.xr x) s.station 0 0 0 4 1 0 0 s.cur) ∈ t.posts) := by
  have hlt : n < 2 ^ 32 := hn ▸ Nat.mod_lt _ (by decide)
  have hv : armedNumber s n < 2 ^ (8 * 64) := armedNumber_lt hcur hlt
  have hword := jcbWord_armBlock s p hv
  have hfind : (s.armBlock p (armedNumber s n)).armed.find? (fun e => e.1 == p) = some (p, s.owner) := by
    rw [State.armBlock_armed, List.find?_append, List.find?_eq_none.2 (fun e he => by simpa using harmed e he)]
    simp
  have hexec := exec_jinit_of_room hx ho hp h hroom hflips harmed hn rfl
  by_cases h0 : n = 0
  · rw [if_pos h0] at hexec
    refine ⟨_, hexec, blockKept_trans (blockKept_armBlock ..) blockKept_jcbFire, ?_, ?_, fun hne => absurd h0 hne, fun _ => ⟨?_, ?_⟩⟩
    · rw [State.jcbFire_me, State.armBlock_me]
      rfl
    · rw [jcbWord_jcbFire_of_word hword hv, jcbSet_armedNumber hlt, if_pos h0]
    · rw [jcbFire_armed, State.armBlock_armed, List.filter_append, List.filter_eq_self.2 (fun e he => by simpa using harmed e he)]
      simp
    · have hpost := mem_jcbFire_posts (key := s.cur) (a := s.me.xr x) (old := armedNumber s n) (w := armedNumber s n) hfind
      rw [h0, jcbDone_armedNumber_zero, State.armBlock_station] at hpost
      rw [h0]
      exact hpost
  · rw [if_neg h0] at hexec
    refine ⟨_, hexec, blockKept_armBlock .., ?_, ?_, fun _ => ⟨State.armBlock_armed .., State.armBlock_posts ..⟩, fun h => absurd h h0⟩
    · rw [State.armBlock_me]
      rfl
    · rw [hword, if_neg h0, Nat.one_mul]
      rfl

end Init

/-! ### `jadd` (R279) -/

section Add
variable {s : State} {x : XNum} {y : Stall} {p w n : Nat}

theorem exec_jadd_of_open (hx : x.toNat % 2 = 0) (ho : jcbOpen s s.me.dev (s.me.xr x) = .ok y) (hp : y.at (s.me.xr x) = p)
    (hw : jcbWord s p = w) (hflips : s.flips = []) (hn : (operandReg s x 1).toNat % 2 ^ 32 = n) :
    exec (.jadd x) s = finishSlot .Y s
      (if jcbState w ≠ 1 || jcbMapped w s.cur || 2 ^ 32 ≤ jcbExpected w + n then .trap 0x31 (s.me.xr x)
       else .ok (s.jcbWrite s.cur p (jcbCells p w (jcbSet w 0 32 (jcbExpected w + n))))) := by
  subst hp hw hn
  have hexec : exec (.jadd x) s = finishSlot .Y s (slotJadd x s) := rfl
  simp only [hexec, slotJadd, groupOk, hx, ho, Chk.slot, operandX_zero, scan_clean hflips, beq_self_eq_true, Bool.not_true,
    Bool.false_eq_true, if_false]
  rw [natField_zero]
  rfl

/-- A raised EXPECTED that keeps to its 32 bits leaves all else of the block. -/
theorem jcbSet_expected (h : jcbExpected w + n < 2 ^ 32) : jcbSet w 0 32 (jcbExpected w + n) = w + n := by
  have hset := jcbSet_add w 0 32 (jcbExpected w + n)
  rw [Nat.mod_eq_of_lt h, pow_zero, Nat.one_mul, Nat.one_mul] at hset
  simp only [jcbExpected] at hset ⊢
  omega

/-- R279: a block that is not armed, one that the context's `jdone` has counted in, or a count past 32 bits. -/
theorem jadd_misused (hx : x.toNat % 2 = 0) (ho : jcbOpen s s.me.dev (s.me.xr x) = .ok y) (hp : y.at (s.me.xr x) = p) (hw : jcbWord s p = w)
    (hflips : s.flips = []) (hn : (operandReg s x 1).toNat % 2 ^ 32 = n)
    (h : w / 2 ^ 64 % 4 ≠ 1 ∨ w.testBit (256 + s.cur) = true ∨ 2 ^ 32 ≤ jcbExpected w + n) :
    exec (.jadd x) s = .next (trapped .Y 0x31 (s.me.xr x) s) := by
  have hcond : (jcbState w ≠ 1 || jcbMapped w s.cur || 2 ^ 32 ≤ jcbExpected w + n) = true := by
    simpa only [Bool.or_eq_true, decide_eq_true_eq, ne_eq, jcbState_eq_one_iff, jcbMapped, bitAt_eq_testBit, or_assoc] using h
  rw [exec_jadd_of_open hx ho hp hw hflips hn, if_pos hcond]
  rfl

theorem jadd_adds (hx : x.toNat % 2 = 0) (ho : jcbOpen s s.me.dev (s.me.xr x) = .ok y) (hp : y.at (s.me.xr x) = p) (hw : jcbWord s p = w)
    (hflips : s.flips = []) (hn : (operandReg s x 1).toNat % 2 ^ 32 = n) (hst : w / 2 ^ 64 % 4 = 1)
    (hbit : w.testBit (256 + s.cur) = false) (hlt : jcbExpected w + n < 2 ^ 32) :
    ∃ t : State, exec (.jadd x) s = .next t ∧ blockKept p s t ∧ jcbWord t p = w + n := by
  have hcond : ¬(jcbState w ≠ 1 || jcbMapped w s.cur || 2 ^ 32 ≤ jcbExpected w + n) = true := by
    simp only [Bool.or_eq_true, decide_eq_true_eq, ne_eq, jcbState_eq_one_iff, jcbMapped, bitAt_eq_testBit, hst, hbit]
    simpa using hlt
  have hexec := exec_jadd_of_open hx ho hp hw hflips hn
  rw [if_neg hcond] at hexec
  refine ⟨_, hexec, blockKept_jcbWrite (cellsTake_jcbCells p w _), ?_⟩
  have hbound : jcbSet w 0 32 (jcbExpected w + n) < 2 ^ (8 * 64) := jcbSet_lt _ (hw ▸ jcbWord_lt s p) (by decide)
  rw [← jcbSet_expected hlt]
  subst hw
  exact jcbWord_jcbWrite (cellsTake_jcbCells p _ _) hbound

end Add

/-! ### `jdone` (R138, R279, R358) -/

/-- A block in which a context has counted: its bit set, and DONE one more. -/
def counted (w key : Nat) : Nat := jcbSet (jcbSet w (256 + key) 1 1) 32 32 (jcbDone w + 1)

section Counted
variable {w key : Nat}

theorem jcbDone_counted : jcbDone (counted w key) = (jcbDone w + 1) % 2 ^ 32 := natField_jcbSet_self ..

theorem natField_counted {lo n : Nat} (h : lo + n ≤ 32 ∨ 64 ≤ lo) (hkey : lo + n ≤ 256) : natField (counted w key) lo n = natField w lo n := by
  rw [counted, natField_jcbSet_of_disjoint _ _ (by omega), natField_jcbSet_of_disjoint _ _ (by omega)]

theorem jcbExpected_counted : jcbExpected (counted w key) = jcbExpected w := natField_counted (by decide) (by decide)

theorem testBit_counted {j : Nat} (hj : 64 ≤ j) : (counted w key).testBit j = (w.testBit j || decide (j = 256 + key)) := by
  rw [counted, testBit_jcbSet, if_neg (by omega), testBit_jcbSet]
  by_cases h : j = 256 + key
  · simp [h]
  · rw [if_neg (by omega)]
    simp [h]

theorem counted_lt (hw : w < 2 ^ (8 * 64)) (hkey : key < 256) : counted w key < 2 ^ (8 * 64) :=
  jcbSet_lt _ (jcbSet_lt _ hw (by omega)) (by decide)

/-- A block after a `jdone` by a context: fired at the expected count. -/
def afterDone (w key : Nat) : Nat :=
  if (jcbDone w + 1) % 2 ^ 32 = jcbExpected w then jcbSet (counted w key) 64 2 2 else counted w key

/-- Firing changes STATE alone. -/
theorem natField_afterDone {lo n : Nat} (h : lo + n ≤ 64) : natField (afterDone w key) lo n = natField (counted w key) lo n := by
  rw [afterDone]
  split
  · exact natField_jcbSet_of_disjoint _ _ (.inl h)
  · rfl

theorem natField_afterDone_state : natField (afterDone w key) 64 2 =
    if (jcbDone w + 1) % 2 ^ 32 = jcbExpected w then 2 else natField w 64 2 := by
  rw [afterDone]
  split
  · exact natField_jcbSet_self ..
  · exact natField_counted (.inr (by decide)) (by decide)

theorem testBit_afterDone {j : Nat} (hj : 66 ≤ j) : (afterDone w key).testBit j = (w.testBit j || decide (j = 256 + key)) := by
  rw [← testBit_counted (by omega), afterDone]
  split
  · rw [testBit_jcbSet, if_neg (by omega)]
  · rfl

end Counted

section Done
variable {s : State} {x : XNum} {y : Stall} {p w key : Nat} {a : Word}

theorem exec_jdone_of_open (ho : jcbOpen s s.me.dev (s.me.xr x) = .ok y) (hp : y.at (s.me.xr x) = p) (hw : jcbWord s p = w) :
    exec (.jdone x) s = finishSlot .Y s
      (if jcbCounts w then holdFor (releaseHold s s.cur) (.ok ((s.scan p 64).jcbDoneBy s.cur (s.me.xr x) p w))
       else .trap 0x31 (s.me.xr x)) := by
  subst hp hw
  have hexec : exec (.jdone x) s = finishSlot .Y s (slotJdone x s) := rfl
  simp only [hexec, slotJdone, operandX_zero, ho, Chk.slot]

theorem jcbDoneBy_eq : s.jcbDoneBy key a p w =
    if (jcbDone w + 1) % 2 ^ 32 = jcbExpected w then s.jcbFire key a p w (counted w key)
    else s.jcbWrite key p (jcbCells p w (counted w key)) := by
  rw [← jcbDone_counted (key := key), ← jcbExpected_counted (key := key)]
  rfl

theorem blockKept_jcbDoneBy : blockKept p s (s.jcbDoneBy key a p w) := by
  rw [jcbDoneBy_eq]
  split
  · exact blockKept_jcbFire
  · exact blockKept_jcbWrite (cellsTake_jcbCells p w _)

theorem jcbWord_jcbDoneBy (hw : jcbWord s p = w) (hkey : key < 256) : jcbWord (s.jcbDoneBy key a p w) p = afterDone w key := by
  have hlt : counted w key < 2 ^ (8 * 64) := counted_lt (hw ▸ jcbWord_lt s p) hkey
  rw [jcbDoneBy_eq, afterDone]
  split
  · exact jcbWord_jcbFire_of_word hw hlt
  · subst hw
    exact jcbWord_jcbWrite (cellsTake_jcbCells p _ _) hlt

theorem exec_jdone_of_counts (ho : jcbOpen s s.me.dev (s.me.xr x) = .ok y) (hp : y.at (s.me.xr x) = p) (hw : jcbWord s p = w)
    (hset : settled s) (hflips : s.flips = []) (hcounts : jcbCounts w = true) :
    exec (.jdone x) s = .next (s.jcbDoneBy s.cur (s.me.xr x) p w) := by
  rw [exec_jdone_of_open ho hp hw, if_pos hcounts, releaseHold_of_settled hset, scan_clean hflips]
  rfl

theorem exec_jdone_of_hold {why : HoldWhy} (ho : jcbOpen s s.me.dev (s.me.xr x) = .ok y)
    (hcounts : jcbCounts (jcbWord s (y.at (s.me.xr x))) = true) (hwait : releaseHold s s.cur = some why) :
    exec (.jdone x) s = .next (holds why s) := by
  rw [exec_jdone_of_open ho rfl rfl, if_pos hcounts, hwait]
  rfl

theorem exec_jdone_of_not_counts (ho : jcbOpen s s.me.dev (s.me.xr x) = .ok y) (hp : y.at (s.me.xr x) = p) (hw : jcbWord s p = w)
    (h : w / 2 ^ 64 % 4 ≠ 1 ∨ w / 2 ^ 32 % 2 ^ 32 = w % 2 ^ 32) : exec (.jdone x) s = .next (trapped .Y 0x31 (s.me.xr x) s) := by
  have hcounts : ¬jcbCounts w = true := by
    rw [jcbCounts_iff]
    omega
  rw [exec_jdone_of_open ho hp hw, if_neg hcounts]
  rfl

/-- R279: what a `jdone` that counts leaves in its block. -/
theorem jcbDoneBy_word (hw : jcbWord s p = w) (hcur : s.cur < 256) :
    let v := jcbWord (s.jcbDoneBy s.cur a p w) p
    jcbExpected v = jcbExpected w ∧ jcbDone v = (jcbDone w + 1) % 2 ^ 32 ∧
      natField v 64 2 = (if (jcbDone w + 1) % 2 ^ 32 = jcbExpected w then 2 else natField w 64 2) ∧
      ∀ j, 66 ≤ j → v.testBit j = (w.testBit j || decide (j = 256 + s.cur)) := by
  intro v
  have hv : v = afterDone w s.cur := jcbWord_jcbDoneBy hw hcur
  rw [hv]
  exact ⟨(natField_afterDone (by decide)).trans jcbExpected_counted, (natField_afterDone (by decide)).trans jcbDone_counted,
    natField_afterDone_state, fun j hj => testBit_afterDone hj⟩

/-- R279: what it does beside: nothing below the expected count; at it the block is armed no more, and its record handed in. -/
theorem jcbDoneBy_fires :
    let t := s.jcbDoneBy s.cur a p w
    ((jcbDone w + 1) % 2 ^ 32 ≠ jcbExpected w → t.armed = s.armed ∧ t.posts = s.posts ∧ t.launches = s.launches) ∧
      ((jcbDone w + 1) % 2 ^ 32 = jcbExpected w → (∀ e ∈ t.armed, e.1 ≠ p) ∧
        ∀ o, s.armed.find? (fun e => e.1 == p) = some (p, o) → (0, o, fireRecord a s.station (jcbExpected w) o.key) ∈ t.posts) := by
  intro t
  have ht : t = _ := jcbDoneBy_eq
  refine ⟨fun hne => ?_, fun hlast => ⟨fun e he => ?_, fun o ho => ?_⟩⟩
  · rw [ht, if_neg hne]
    exact ⟨rfl, rfl, rfl⟩
  · rw [ht, if_pos hlast, jcbFire_armed] at he
    simpa using (List.mem_filter.1 he).2
  · have hpost := mem_jcbFire_posts (key := s.cur) (a := a) (old := w) (w := counted w s.cur) ho
    rw [jcbDone_counted, hlast] at hpost
    rw [ht, if_pos hlast]
    exact hpost

end Done

/-! ### `jwait` (R279) -/

section Wait
variable {s : State} {x : XNum} {y : Stall} {p w : Nat}

theorem exec_jwait_of_idle (ho : jcbOpen s s.me.dev (s.me.xr x) = .ok y) (hw : jcbState (jcbWord s (y.at (s.me.xr x))) = 0) :
    exec (.jwait x) s = .next (trapped .Y 0x31 (s.me.xr x) s) := by
  have hslot : slotJwait x s = .trap 0x31 (s.me.xr x) := by simp [slotJwait, ho, Chk.slot, hw]
  exact congrArg (finishSlot .Y s) hslot

theorem exec_jwait_of_armed (ho : jcbOpen s s.me.dev (s.me.xr x) = .ok y) (hw : jcbState (jcbWord s (y.at (s.me.xr x))) = 1) :
    exec (.jwait x) s = .next (holds .job s) := by
  have hslot : slotJwait x s = .hold .job := by simp [slotJwait, ho, Chk.slot, hw]
  exact congrArg (finishSlot .Y s) hslot

/-- Fired already before this cycle. -/
theorem exec_jwait_of_fired (ho : jcbOpen s s.me.dev (s.me.xr x) = .ok y) (hw : jcbState (jcbWord s (y.at (s.me.xr x))) = 2)
    (hset : settled s) (hflips : s.flips = []) : exec (.jwait x) s = .next s := by
  have hslot : slotJwait x s = .ok s := by simp [slotJwait, ho, Chk.slot, hw, ← jcbWord_of_settled hset, scan_clean hflips]
  exact congrArg (finishSlot .Y s) hslot

end Wait

/-! ### `launch`: its checks (R80, R87, R280) -/

/-- The access by which `launch` reads a record. -/
def recordForm (a : Word) : AccessForm := ⟨a, 256, 1, false, 256, List.range 256⟩

/-- The stall of the record at an address. -/
def recordStall (s : State) (a : Word) : Chk Stall := nearStall s s.myCore s.me.dev (some 1) .own (!alignedTo a 256) a 256

section RecordChecks
variable {s : State} {a : Word} {x : XNum}

theorem reachable_recordForm : reachable s (recordForm a) ↔ (stallAt s a).level = 1 ∧ (stallAt s a).core = s.myCore := by
  simp [reachable, recordForm]

/-- Steps 3 to 5 of R80 for a NEAR stall of the own core give one cause. -/
theorem ownNear_eq (z : Stall) (n : Nat) (e : Chk Stall) :
    (if !isNearLevel z.level then Chk.bad 0x14 a else if z.core != n then .bad 0x14 a else if !levelFits (some 1) z.level then .bad 0x14 a else e) =
      if z.level = 1 ∧ z.core = n then e else .bad 0x14 a := by
  by_cases hlevel : z.level = 1
  · by_cases hcore : z.core = n <;> simp [isNearLevel, levelFits, hlevel, hcore]
  · have hfits : levelFits (some 1) z.level = false := beq_false_of_ne (Ne.symm hlevel)
    simp [hlevel, hfits]

/-- The checks of R80 in their order. -/
theorem recordStall_eq (s : State) (a : Word) : recordStall s a =
    if a.getLsbD 63 = false then .bad 0x14 a
    else if addrStall a = 0 ∨ (stallAt s a).id = 0 ∨ 64 * (stallAt s a).len < addrOffset a + 256 ∨ addrOffset a % 256 ≠ 0 then .bad 0x13 a
    else if (stallAt s a).level = 1 ∧ (stallAt s a).core = s.myCore then
      if (stallAt s a).st ≠ .active ∨ (stallAt s a).paid ≤ s.tick then .bad 0x10 a else .ok (stallAt s a)
    else .bad 0x14 a := by
  simp only [recordStall, nearStall, ownNear_eq]
  simp only [isStallAddr, alignedTo, Bool.or_eq_true, Bool.not_eq_true', decide_eq_true_eq, beq_eq_false_iff_ne, Stall.live_eq_false_iff,
    or_assoc, gt_iff_lt]
  rfl

theorem recordStall_of_not_stall (h : a.getLsbD 63 = false) : recordStall s a = .bad 0x14 a := by rw [recordStall_eq, if_pos h]

theorem recordStall_of_outside (h : a.getLsbD 63 = true) (hout : outside s (recordForm a)) : recordStall s a = .bad 0x13 a := by
  rw [recordStall_eq, if_neg (by rw [h]; decide), if_pos (by exact hout)]

theorem recordStall_of_not_reachable (h : a.getLsbD 63 = true) (hin : ¬outside s (recordForm a)) (hr : ¬reachable s (recordForm a)) :
    recordStall s a = .bad 0x14 a := by
  rw [reachable_recordForm] at hr
  rw [recordStall_eq, if_neg (by rw [h]; decide), if_neg (by exact hin), if_neg hr]

theorem recordStall_of_expired (h : a.getLsbD 63 = true) (hin : ¬outside s (recordForm a)) (hr : reachable s (recordForm a))
    (hlive : ¬((stallAt s a).st = .active ∧ s.tick < (stallAt s a).paid)) : recordStall s a = .bad 0x10 a := by
  rw [reachable_recordForm] at hr
  rw [recordStall_eq, if_neg (by rw [h]; decide), if_neg (by exact hin), if_pos hr, if_pos (by simpa [imp_iff_not_or] using hlive)]

theorem recordStall_of_admitted (h : admitted s (recordForm a)) : recordStall s a = .ok (stallAt s a) := by
  obtain ⟨h63 : a.getLsbD 63 = true, hin, hr, hst, hpaid⟩ := h
  have hlive : ¬((stallAt s a).st ≠ .active ∨ (stallAt s a).paid ≤ s.tick) := not_or.2 ⟨not_not.2 hst, Nat.not_le.2 hpaid⟩
  rw [reachable_recordForm] at hr
  rw [recordStall_eq, if_neg (by rw [h63]; decide), if_neg (by exact hin), if_pos hr, if_neg hlive]

theorem exec_launch : exec (.launch x) s = finishSlot .Y s ((recordStall s (s.me.xr x)).slot fun y =>
    (poisonCheck s y (s.me.xr x) (List.range 256)).slot fun _ => holdFor (releaseHold s s.cur)
      (if acctDenied s (parseRecord (recordBytes s (y.at (s.me.xr x)))).acct then .trap 0x04 0
       else .ok ((s.scan (y.at (s.me.xr x)) 256).commitLaunch x (s.me.xr x) (parseRecord (recordBytes s (y.at (s.me.xr x))))))) := by
  rw [← operandX_zero]
  rfl

theorem exec_launch_of_bad {code : Nat} {b : Word} (h : recordStall s (s.me.xr x) = .bad code b) :
    exec (.launch x) s = .next (trapped .Y code b s) := by
  rw [exec_launch, h]
  rfl

theorem exec_launch_of_tainted {j : Nat} (h : admitted s (recordForm (s.me.xr x))) (hj : j < 256) (ht : tainted s (s.me.xr x) j)
    (hs : sound s (s.me.xr x) j) :
    exec (.launch x) s = .next (trapped .Y 0x32 (BitVec.ofNat 64 (((s.me.xr x).toNat + j) / 64 * 64)) s) := by
  rw [exec_launch, recordStall_of_admitted h, Chk.slot, poisonCheck_of_tainted hj ht hs]
  rfl

theorem exec_launch_of_hold {why : HoldWhy} (h : admitted s (recordForm (s.me.xr x))) (hs : sound s (s.me.xr x) 256)
    (hwait : releaseHold s s.cur = some why) : exec (.launch x) s = .next (holds why s) := by
  rw [exec_launch, recordStall_of_admitted h, Chk.slot, poisonCheck_of_sound hs, hwait]
  rfl

end RecordChecks

/-! ### `launch`: its commit (R40, R280, R367, R376, R403) -/

section Commit
variable {s : State} {a : Word} {x : XNum} {r : LaunchRec}

/-- A store of the issuing context that performs or commits by this cycle. -/
def ownStore (s : State) (a : Access) : Option Buffered :=
  if a.key == s.cur && a.agent == 0 && a.born < s.station && a.due ≤ s.station then
    (match a.op with | .store cs _ => some (a.id, cs) | _ => none) else none

theorem recordBytes_eq (s : State) (p : Nat) : recordBytes s p = (List.range 256).map fun i =>
    overlay (s.accesses.filterMap (ownStore s)) (p + i) ((s.readAs s.cur [(p, 256)]).getD i 0) := rfl

/-- With nothing under way the record is what memory holds. -/
theorem recordBytes_of_settled (h : settled s) (p : Nat) : recordBytes s p = s.mem.readN p 256 := by
  obtain ⟨hacc, hbuf : (s.ctx s.cur).sbuf = [], hdue : (s.ctx s.cur).sdue = []⟩ := h
  have hown : s.accesses.filterMap (ownStore s) = [] := List.filterMap_eq_nil_iff.2 fun b hb => if_neg (by simp [(hacc b hb).2])
  have hread : s.readAs s.cur [(p, 256)] = s.mem.readN p 256 := by simp [State.readAs, hbuf, hdue, overlay, Memory.readN]
  rw [recordBytes_eq, hown, hread]
  refine List.map_congr_left fun i hi => ?_
  simp [overlay, Memory.readN, List.mem_range.1 hi]

theorem exec_launch_of_settled (h : admitted s (recordForm (s.me.xr x))) (hs : sound s (s.me.xr x) 256) (hset : settled s)
    (hflips : s.flips = []) (hr : parseRecord (s.mem.readN ((stallAt s (s.me.xr x)).at (s.me.xr x)) 256) = r) :
    exec (.launch x) s = finishSlot .Y s (if acctDenied s r.acct then .trap 0x04 0 else .ok (s.commitLaunch x (s.me.xr x) r)) := by
  rw [exec_launch, recordStall_of_admitted h, Chk.slot, poisonCheck_of_sound hs, Chk.slot, releaseHold_of_settled hset, holdFor,
    recordBytes_of_settled hset, hr, scan_clean hflips]

/-- A value returned by a state that differs from another in no memory, core or context. -/
theorem returns_returnX {t : State} (v : Word) (hmem : t.mem = s.mem) (hcores : t.cores = s.cores) (hctxs : t.ctxs = s.ctxs)
    (hcur : t.cur = s.cur) : Returns s (t.returnX x 0 v) x 0 [v.toNat] := by
  have hme : (t.returnX x 0 v).me = s.me.addPend [mkPend s.me .Y 1 (.x (x.toNat + 0)) (ones 64) v.toNat] := by
    rw [← me_congr hctxs hcur]
    exact State.me_sched t _
  refine ⟨?_, hmem, hcores, ?_, ?_, ?_, fun k hk => ?_⟩
  · rw [hme]
    rfl
  · rw [hme]
    rfl
  · rw [hme]
    rfl
  · rw [hme]
    rfl
  · have hother : (t.returnX x 0 v).ctx k = t.ctx k := State.ctx_sched_ne t _ (hcur ▸ hk)
    rw [hother, State.ctx, State.ctx, hctxs]

theorem acctDenied_iff {n : Nat} : acctDenied s n = true ↔ s.me.ring = .user ∧ n ≠ s.me.acct := by
  rw [acctDenied, Bool.and_eq_true, beq_iff_eq, bne_iff_ne]

theorem commitLaunch_of_disabled (h : (s.dev s.me.dev).en = false) :
    s.commitLaunch x a r = ({ s with freeCtr := s.freeCtr + 1 } : State).returnX x 0 (Config.freeWord s.freeCtr) := by
  rw [State.commitLaunch, if_pos (by rw [h, Bool.not_false])]

theorem commitLaunch_of_full (h : (s.dev s.me.dev).en = true) (hfull : 512 ≤ (deviceLaunches s s.me.dev).length) :
    s.commitLaunch x a r = s.returnX x 0 (BitVec.ofNat 64 stNOSPACE) := by
  rw [State.commitLaunch, if_neg (by simp [h]), if_pos hfull]

/-- A `launch` as the source of a record. -/
def launchSource (s : State) (a : Word) : Source := { dev := s.me.dev, addr := a, reporter := some s.owner, cls := 0 }

theorem commitLaunch_of_accepted (h : (s.dev s.me.dev).en = true) (hroom : ¬512 ≤ (deviceLaunches s s.me.dev).length)
    (hok : recordOk s s.me.dev r = true) :
    s.commitLaunch x a r = (s.addLaunch (launchSource s a) r).returnX x 0 (BitVec.ofNat 64 stOK) := by
  have hroom' : ¬512 ≤ (deviceLaunches s (launchSource s a).dev).length := hroom
  have hok' : recordOk s (launchSource s a).dev r = true := hok
  have hqueue : s.enqueue (launchSource s a) r = s.addLaunch (launchSource s a) r := by
    simp [State.enqueue, hroom', hok', show (launchSource s a).gang = 0 from rfl]
  rw [State.commitLaunch, if_neg (by simp [h]), if_neg hroom, ← hqueue]
  rfl

end Commit

/-! ### A record enqueued (R376) -/

section NewLaunch
variable (s : State) (src : Source) (r : LaunchRec)

theorem sendCopies_launches (l : Launch) : ∃ g, (s.sendCopies l).launches = s.launches.set none l.id (some { l with gang := g }) := by
  unfold State.sendCopies
  split
  · exact ⟨l.gang, rfl⟩
  · exact ⟨_, rfl⟩

/-- The launch of a record: one more, of that source and record, and eligible at once where the record names no dependence. -/
theorem addLaunch_launches : ∃ l, (s.addLaunch src r).launches = s.launches.set none s.nextId (some l) ∧ l.dev = src.dev ∧ l.record = r ∧
    l.recAddr = src.addr ∧ l.reporter = src.reporter ∧ ((∀ d ∈ r.deps, d = 0) → l.stage = .eligible) := by
  simp only [State.addLaunch, State.makeEligible]
  split
  · obtain ⟨g, hg⟩ := sendCopies_launches _ _
    exact ⟨_, hg, rfl, rfl, rfl, rfl, fun _ => rfl⟩
  · next hwaits =>
    refine ⟨_, rfl, rfl, rfl, rfl, rfl, fun hdeps => absurd ?_ hwaits⟩
    exact List.all_eq_true.2 fun d hd => by rw [hdeps d hd]; rfl

variable {s r} {x : XNum}

/-- R376: the record accepted stands as a launch, and no other launch changes. -/
theorem commitLaunch_stands (h : (s.dev s.me.dev).en = true) (hroom : ¬512 ≤ (deviceLaunches s s.me.dev).length)
    (hok : recordOk s s.me.dev r = true) {a : Word} : ∃ l, Returns s (s.commitLaunch x a r) x 0 [0] ∧
      (s.commitLaunch x a r).launch s.nextId = some l ∧ l.dev = s.me.dev ∧ l.record = r ∧ l.recAddr = a ∧ l.reporter = some s.owner ∧
      ((∀ d ∈ r.deps, d = 0) → l.stage = .eligible) ∧ ∀ id, id ≠ s.nextId → (s.commitLaunch x a r).launch id = s.launch id := by
  obtain ⟨l, hl, hdev, hrec, haddr, hrep, hstage⟩ := addLaunch_launches s (launchSource s a) r
  have hlaunches : (s.commitLaunch x a r).launches = s.launches.set none s.nextId (some l) := by
    rw [commitLaunch_of_accepted h hroom hok, ← hl]
    rfl
  have hcores : (s.addLaunch (launchSource s a) r).cores = s.cores := by
    rw [addLaunch_frame]
    rfl
  refine ⟨l, ?_, ?_, hdev, hrec, haddr, hrep, hstage, fun id hid => ?_⟩
  · rw [commitLaunch_of_accepted h hroom hok]
    exact returns_returnX _ (State.addLaunch_mem ..) hcores (State.addLaunch_ctxs ..) (State.addLaunch_cur ..)
  · rw [State.launch, hlaunches, FMap.get_set_self]
  · rw [State.launch, hlaunches, FMap.get_set_ne _ _ _ hid]
    rfl

end NewLaunch

/-! ### The obligation -/

/-- Settles O39: each operation by the lemmas above, from its checks on; what is under way and what is in doubt is excluded by the
hypotheses, so that a block and a record are what memory holds. -/
theorem jobControlAndLaunch : Obligations.JobControlAndLaunch := by
  refine ⟨⟨fun x s y hblock hsound => ?_, fun x s hcur => ⟨?_, ?_, ?_, ?_⟩⟩, fun x s => ⟨?_, ?_, ?_, ?_, ?_, fun hadm hsound => ⟨?_, ?_, ?_⟩⟩⟩
  · have ho := jcbOpen_of_sound hblock hsound
    refine ⟨exec_jdone_of_not_counts ho rfl rfl, fun hst hne => ?_⟩
    have hcounts := jcbCounts_iff.2 ⟨hst, hne⟩
    exact ⟨fun hun => exec_jdone_of_hold ho hcounts (releaseHold_of_uncommitted hun),
      fun hun hlate => exec_jdone_of_hold ho hcounts (releaseHold_of_storesLate hun hlate)⟩
  · exact fun hx i hi => exec_of_not_pair hi hx
  · intro i hi hx
    have htraps {code : Nat} {b : Word} (h : jcbStall s s.me.dev (s.me.xr x) = .bad code b) : exec i s = .next (trapped .Y code b s) :=
      exec_of_jcbOpen_bad hi hx (jcbOpen_of_bad h)
    refine ⟨fun h63 => htraps (jcbStall_of_not_stall h63), fun h63 hout => htraps (jcbStall_of_outside h63 hout),
      fun h63 hstall hid hlen halign => ⟨fun hkind => ?_, fun hlevel hsync hdead => ?_⟩⟩
    · exact htraps (jcbStall_of_wrong_kind h63 hstall hid hlen halign hkind)
    · exact htraps (jcbStall_of_expired h63 hstall hid hlen halign hlevel hsync hdead)
  · exact fun i hi y j hx hblock hj ht hs => exec_of_jcbOpen_bad hi hx (jcbOpen_of_tainted hblock hj ht hs)
  · intro y hblock hsound hset hflips p w exp done st idle misuse keeps
    have ho := jcbOpen_of_sound hblock hsound
    have hp : y.at (s.me.xr x) = p := rfl
    have hw : jcbWord s p = w := jcbWord_of_settled hset p
    have hexp : jcbExpected w = exp := jcbExpected_eq w
    have hone : jcbState (jcbWord s p) = 1 ↔ st = 1 := hw ▸ jcbState_eq_one_iff
    refine ⟨fun hx hst => exec_jinit_of_armed hx ho (hone.2 hst), fun hx hst hroom => exec_jinit_of_full hx ho (mt hone.1 hst) hroom,
      fun hx hst hroom harmed => jinit_arms hx ho hp (mt hone.1 hst) hroom hflips hcur rfl harmed, fun hx hmis => ?_, fun hx hst hbit hlt => ?_,
      exec_jdone_of_not_counts ho hp hw, fun hst hne => ?_, fun hidle => ?_, fun hst => exec_jwait_of_armed ho (hone.2 hst), fun hst => ?_⟩
    · exact jadd_misused hx ho hp hw hflips rfl (hexp ▸ hmis)
    · exact jadd_adds hx ho hp hw hflips rfl hst hbit (hexp ▸ hlt)
    · obtain ⟨hexpT, hdoneT, hstateT, hbits⟩ := jcbDoneBy_word (a := s.me.xr x) hw hcur
      obtain ⟨hcounting, hfiring⟩ := jcbDoneBy_fires (s := s) (a := s.me.xr x) (p := p) (w := w)
      have hfield : natField w 64 2 = 1 := hst
      rw [jcbExpected_eq, hexp] at hexpT
      rw [hexp, hfield] at hstateT
      rw [hexp] at hcounting hfiring
      exact ⟨_, exec_jdone_of_counts ho hp hw hset hflips (jcbCounts_iff.2 ⟨hst, hne⟩), blockKept_jcbDoneBy, hexpT, hdoneT, hstateT, hbits,
        hcounting, hfiring⟩
    · exact exec_jwait_of_idle ho (hw ▸ jcbState_eq_zero_iff.2 hidle)
    · exact exec_jwait_of_fired ho (hw ▸ jcbState_eq_two_iff.2 hst) hset hflips
  · exact fun h63 => exec_launch_of_bad (recordStall_of_not_stall h63)
  · exact fun h63 hout => exec_launch_of_bad (recordStall_of_outside h63 hout)
  · exact fun h63 hin hr => exec_launch_of_bad (recordStall_of_not_reachable h63 hin hr)
  · exact fun h63 hin hr hlive => exec_launch_of_bad (recordStall_of_expired h63 hin hr hlive)
  · exact fun j hadm hj ht hs => exec_launch_of_tainted hadm hj ht hs
  · exact fun hun => exec_launch_of_hold hadm hsound (releaseHold_of_uncommitted hun)
  · exact fun hun hlate => exec_launch_of_hold hadm hsound (releaseHold_of_storesLate hun hlate)
  · intro hset hflips bs r denied full
    have hexec := exec_launch_of_settled hadm hsound hset hflips (r := r) rfl
    refine ⟨fun hden => ?_, fun hden hen => ?_, fun hden hen hfull => ?_, fun hden hen hroom hok => ?_⟩
    · rw [hexec, if_pos (acctDenied_iff.2 hden)]
      rfl
    all_goals
      rw [if_neg (mt acctDenied_iff.1 hden), finishSlot_ok] at hexec
    · rw [commitLaunch_of_disabled hen] at hexec
      exact ⟨_, _, hexec, returns_returnX _ rfl rfl rfl rfl, rfl⟩
    · rw [commitLaunch_of_full hen hfull] at hexec
      exact ⟨_, hexec, returns_returnX _ rfl rfl rfl rfl, rfl⟩
    · obtain ⟨l, hl⟩ := commitLaunch_stands hen hroom hok
      exact ⟨_, l, hexec, hl⟩

end Sys2Proof.Machine
